-- ==== Sys2Proof/Word.lean ====
section
/-! DEFINITION. The word types of the block: bytes, the 32- and 64-bit words of its registers, and the
number of bytes of a little-endian field (00_scope.md R9). -/

namespace Sys2Proof

/-- One byte of a structure, a register or DRAM. -/
abbrev Byte := BitVec 8

/-- One 32-bit SMP register or fuse word. -/
abbrev Word32 := BitVec 32

/-- One 64-bit status word, timestamp or counter. -/
abbrev Word64 := BitVec 64

/-- A 20-bit engine address EA (R242). -/
abbrev Ea := BitVec 20

/-- The two fixed configurations (Table 0-2). -/
inductive Cfg where
  | izL
  | izS
deriving DecidableEq, Repr

end Sys2Proof
end

