-- ==== Sys2Proof/Syntax.lean ====
section
/-! DEFINITION. The commands of the block: one constructor of Instr for each row of spec/opcode_table.json, in the table's order,
and the operand types they share. -/

namespace Sys2Proof

/-- A mailbox request beyond its CODE (Tables 12-8, 12-10): SEQ, TOKEN, and the 56 parameter bytes (bytes 8 to 63 of the request,
byte 8 in bits [7:0]). -/
structure Req where
  seq : BitVec 16
  token : BitVec 32
  par : BitVec 448
deriving DecidableEq, Repr

/-- A fabric packet: its 32-byte header as one little-endian number (Table 9-3), and its payload. -/
structure Packet where
  head : BitVec 256
  payload : List Byte
deriving DecidableEq, Repr

/-- The power domains that have a handshake (Table 11-10). -/
inductive Domain where
  | mc
  | intake
  | peer
  | key
  | still (i : Fin 9)
deriving DecidableEq, Repr

/-- What a core-side read meets: clean or corrected data, or an uncorrectable word, with the channel-group address of the word. -/
inductive Sev where
  | clean
  | corrected (addr : Nat)
  | uncorrectable (addr : Nat)
deriving DecidableEq, Repr

/-- An ECC word of a row that the core die's on-die ECC corrects, or cannot correct, when an Atomizer loads it (R222): pseudo-channel,
pair, place of the word in the row. -/
structure EccHit where
  pc : Fin 2
  pair : Fin 32
  word : Nat
  corrected : Bool
deriving DecidableEq, Repr

/-- An Atomizer command as it goes to a half-set: 0 even, 1 odd; and what the on-die ECC finds in the words that it loads (R219, R222). -/
structure HalfGo where
  half : Fin 2
  hits : List EccHit := []
deriving DecidableEq, Repr

/-- A mode register set of the host: HCP_RPC and HCP_RADDR (Table 11-1). -/
structure Mrs where
  pc : Fin 2
  arg : BitVec 16
deriving DecidableEq, Repr

/-- The three reads of one fuse word, at the normal, low and high margin; none: unanswered twice (R311). -/
structure FuseReads where
  normal : Option Word32
  low : Option Word32
  high : Option Word32
deriving DecidableEq, Repr

/-- What a ROM start meets: the reads of the 128 fuse words, and whether the self-checks of core 0 and core 1 pass (R352). -/
structure RomStart where
  fuses : List FuseReads
  core0 : Bool
  core1 : Bool
deriving DecidableEq, Repr

/-- The commands. -/
inductive Instr where
  | identify (m : Fin 4) (q : Req)
  | sessionOpen (m : Fin 4) (q : Req)
  | sessionClose (m : Fin 4) (q : Req)
  | keepalive (m : Fin 4) (q : Req)
  | runStatus (m : Fin 4) (q : Req)
  | runSetup (m : Fin 4) (q : Req)
  | freshSeed (m : Fin 4) (q : Req)
  | admitCmd (m : Fin 4) (q : Req)
  | stepBegin (m : Fin 4) (q : Req)
  | runStop (m : Fin 4) (q : Req)
  | cursorSet (m : Fin 4) (q : Req)
  | evalOpen (m : Fin 4) (q : Req)
  | evalClose (m : Fin 4) (q : Req)
  | digestSelect (m : Fin 4) (q : Req)
  | gradCapture (m : Fin 4) (q : Req)
  | membership (m : Fin 4) (q : Req)
  | routeSet (m : Fin 4) (q : Req)
  | topology (m : Fin 4) (q : Req)
  | flaconWrite (m : Fin 4) (q : Req)
  | restore (m : Fin 4) (q : Req)
  | restorePiece (m : Fin 4) (q : Req)
  | adopt (m : Fin 4) (q : Req)
  | decantFull (m : Fin 4) (q : Req)
  | opStatus (m : Fin 4) (q : Req)
  | opSuspend (m : Fin 4) (q : Req)
  | opResume (m : Fin 4) (q : Req)
  | opCancel (m : Fin 4) (q : Req)
  | initRegion (m : Fin 4) (q : Req)
  | blotterDump (m : Fin 4) (q : Req)
  | selfTest (m : Fin 4) (q : Req)
  | scrubPass (m : Fin 4) (q : Req)
  | fenceClear (m : Fin 4) (q : Req)
  | errlogRead (m : Fin 4) (q : Req)
  | counterRead (m : Fin 4) (q : Req)
  | counterClear (m : Fin 4) (q : Req)
  | attest (m : Fin 4) (q : Req)
  | fwLoad (m : Fin 4) (q : Req)
  | fwActivate (m : Fin 4) (q : Req)
  | fwCommit (m : Fin 4) (q : Req)
  | recoveryLoad (m : Fin 4) (q : Req)
  | admitDone (h : BitVec 16)
  | flaconWriteDone (h : BitVec 16)
  | restoreDone (h : BitVec 16)
  | adoptDone (h : BitVec 16)
  | decantFullDone (h : BitVec 16)
  | initRegionDone (h : BitVec 16)
  | blotterDumpDone (h : BitVec 16)
  | selfTestDone (h : BitVec 16) (failing : BitVec 11)
  | scrubPassDone (h : BitVec 16) (corrected uncorrectable : Word32)
  | fwLoadDone (h : BitVec 16)
  | recoveryLoadDone (h : BitVec 16)
  | opSuspendPoint (h : BitVec 16) (done : Word64)
  | longopWindowEnter (h : BitVec 16)
  | evalWindowOpen
  | runStopEffect
  | smLevelWrite (w : Word32)
  | levelRaiseDone
  | levelLowerEffect
  | fallComplete
  | smTimeLoRead
  | smEvqPop (w : Word32)
  | smEgrAck (w : Word32)
  | smStageWrite (mib : Bool) (w : Word32)
  | smIrqMaskWrite (w : Word32)
  | registerWrite (addr : BitVec 16) (w : Word32)
  | porstNAssert
  | porstNRelease (pos : BitVec 3)
  | romBoot (r : RomStart)
  | wrstNAssert
  | wrstNRelease (r : RomStart)
  | wrapperInstruction (code : BitVec 4)
  | wrstnAssert
  | tempSample (code : Byte)
  | pwrAckRise (d : Domain)
  | generatorLock (d : Domain)
  | lockLoss (d : Domain)
  | pwrAckFall (d : Domain)
  | powerDownRequest (d : Domain)
  | pwrAckSlow (d : Domain)
  | clockCheck (khz : List Word32)
  | hostAct (ch : Fin 32) (pc : Fin 2) (bank : Fin 32) (row : BitVec 16)
  | hostRead (ch : Fin 32) (pc : Fin 2) (bank : Fin 32) (col : Fin 32) (sev : BitVec 2)
  | hostWrite (ch : Fin 32) (pc : Fin 2) (bank : Fin 32) (col : Fin 32) (data : BitVec 256) (mask : Word32) (pois : Bool)
  | hostPre (ch : Fin 32) (pc : Fin 2) (bank : Fin 32)
  | hostPrea (ch : Fin 32) (pc : Fin 2)
  | hostRefresh (ch : Fin 32) (pc : Fin 2) (bank : Fin 32) (all : Bool)
  | hostMrs (ch : Fin 32) (arg : Mrs)
  | hostOtherRowCmd (ch : Fin 32) (kind : BitVec 4) (pc : Fin 2)
  | stepAnchor
  | segmentBoundary (ch : Fin 32)
  | transitEnd (ch : Fin 32) (stuck : Bool)
  | catchupRefreshDone (ch : Fin 32)
  | refreshTick (ch : Fin 32) (pc : Fin 2) (bank : Fin 32)
  | slotOpen (shard : Word32)
  | oaFold (shard : Word32)
  | prefetch (still : Fin 8) (shard : Word32)
  | prefetchDone (still : Fin 8) (shard : Word32) (sev : Sev)
  | passStart (shard : Word32)
  | blockCommit (still : Fin 8) (shard : Word32) (sev : Sev)
  | laneError (still : Fin 9)
  | stillTakeover (still : Fin 8)
  | stepRecordWrite
  | atmSegmentStart (ch : Fin 32)
  | atmGo (ch : Fin 32) (half : HalfGo)
  | bucketRefill (ch : Fin 32)
  | atmDone (ch : Fin 32) (half : Fin 2)
  | atmRpt (ch : Fin 32) (beat : Word64)
  | atmErr (ch : Fin 32) (status : Word32)
  | atmKeyOkFall (ch : Fin 32)
  | hello (p : Fin 2) (k : Packet)
  | helloAck (p : Fin 2) (k : Packet)
  | topo (p : Fin 2) (k : Packet)
  | scalarUp (p : Fin 2) (k : Packet)
  | scalarDown (p : Fin 2) (k : Packet)
  | contrib (p : Fin 2) (k : Packet)
  | flaconData (p : Fin 2) (k : Packet)
  | flaconAck (p : Fin 2) (k : Packet)
  | restoreData (p : Fin 2) (k : Packet)
  | mbxRelay (p : Fin 2) (k : Packet)
  | fenceNotice (p : Fin 2) (k : Packet)
  | packetTransmit (p : Fin 2)
  | batchTimeout (dst : Ea)
  | egressPagePublish (win : Byte)
  | discoverTimer (p : Fin 2)
  | heartbeatSend (p : Fin 2)
  | heartbeatCheck (p : Fin 2)
  | creditHelloTimer (p : Fin 2)
  | epochExpired
  | pptLinkUp (p : Fin 2)
  | pptLinkDown (p : Fin 2)
  | pptErr (p : Fin 2)
  | blotterDrain
  | loanStart
  | loanEnd
  | bootFetchDone
  | standbyBootDone (ok : Bool)
  | handoverPoint
  | takeover (selfCheck : Bool)
  | microcodeBankSwitch (ch : Fin 32)
  | probationEnd
  | watchdogExpiry (core : Fin 2)
  | mcCoreFault (core : Fin 2) (cause : BitVec 2)
  | fspValid (w : Word32)
  | fspReadTimeout
  | fspVppAck
  | vppTimeout
  | fspDone
  | sessionExpired (m : Fin 4)
  | esStartupDone
  | entropyFail (proportion : Bool)
  | csqFault (ch : Fin 32) (parity : BitVec 16)
  | scrubDebt (ch : Fin 32)
  | patrolScrub (ch : Fin 32) (sev : Sev) (last : Bool)
  | longopWindowEnd (h : BitVec 16)
  | mixerSelfCheck
deriving DecidableEq, Repr

end Sys2Proof
end

