-- ==== Sys2Proof/WellFormed.lean ====
section
/-! DEFINITION. Which commands are well formed: the operand values that the ports and structures of the manual can carry. -/

namespace Sys2Proof

/-- The reads of the 128 fuse words that a ROM start makes (R352, Table 13-2). -/
def RomStart.wellFormed (r : RomStart) : Bool := decide (r.fuses.length = 128)

/-- A channel-group address is at most 34 bits wide (Table 6-2: 2^18 bytes a row index, 16 row bits). -/
def Sev.wellFormed : Sev → Bool
  | .clean => true
  | .corrected a => decide (a < 2 ^ 34)
  | .uncorrectable a => decide (a < 2 ^ 34)

/-- A row of 1 KiB holds at most 256 ECC words of 32 bits (Table 7-1). -/
def EccHit.wellFormed (h : EccHit) : Bool := decide (h.word < 256)

/-- LENGTH is a 16-bit field (Table 9-3), so no payload is longer than 65,535 bytes. -/
def Packet.wellFormed (k : Packet) : Bool := decide (k.payload.length < 2 ^ 16)

/-- Row commands other than those with a row of their own: PDE, PDX, SRE, SRX and the reserved kinds (Table 11-3). -/
def otherRowKind (k : BitVec 4) : Bool := decide (7 ≤ k.toNat)

/-- The well-formed commands. -/
def Instr.wellFormed : Instr → Bool
  | .romBoot r => r.wellFormed
  | .wrstNRelease r => r.wellFormed
  | .hostRead _ _ _ _ sev => decide (sev ≠ 3)
  | .hostOtherRowCmd _ k _ => otherRowKind k
  | .clockCheck khz => decide (khz.length = 16) || decide (khz.length = 32)
  | .prefetchDone _ _ s => s.wellFormed
  | .blockCommit _ _ s => s.wellFormed
  | .patrolScrub _ s _ => s.wellFormed
  | .atmGo _ half => half.hits.all EccHit.wellFormed
  | .hello _ k => k.wellFormed
  | .helloAck _ k => k.wellFormed
  | .topo _ k => k.wellFormed
  | .scalarUp _ k => k.wellFormed
  | .scalarDown _ k => k.wellFormed
  | .contrib _ k => k.wellFormed
  | .flaconData _ k => k.wellFormed
  | .flaconAck _ k => k.wellFormed
  | .restoreData _ k => k.wellFormed
  | .mbxRelay _ k => k.wellFormed
  | .fenceNotice _ k => k.wellFormed
  | _ => true

end Sys2Proof
end

