-- ==== Sys2Proof/Machine/Bits.lean ====
section
/-! DEFINITION. Bit fields, little-endian byte strings (R9) and the few list functions that the other files use. -/

namespace Sys2Proof.Bits

/-- Bits [lo + n - 1 : lo] of a number (bit 0 the least significant, R9). -/
def field (x lo n : Nat) : Nat := (x >>> lo) % 2 ^ n

/-- Bit i of a number. -/
def bit (x i : Nat) : Bool := x.testBit i

/-- The number whose bit is set when the flag is. -/
def ofBool (b : Bool) : Nat := if b then 1 else 0

/-- The little-endian value of a byte string (R9). -/
def leVal : List Byte → Nat
  | [] => 0
  | b :: bs => b.toNat + 256 * leVal bs

/-- The big-endian value of a byte string (SEC 1 and SHA fields, R361). -/
def beVal (bs : List Byte) : Nat := bs.foldl (fun a b => 256 * a + b.toNat) 0

/-- The n low bytes of a number, little-endian (R9). -/
def leBytes : Nat → Nat → List Byte
  | 0, _ => []
  | n + 1, x => BitVec.ofNat 8 x :: leBytes n (x / 256)

/-- The n low bytes of a number, big-endian. -/
def beBytes (n x : Nat) : List Byte := (leBytes n x).reverse

/-- A two's-complement reading of the low n bits. -/
def signed (n x : Nat) : Int :=
  if 2 ^ (n - 1) ≤ x % 2 ^ n then (x % 2 ^ n : Nat) - (2 ^ n : Nat) else (x % 2 ^ n : Nat)

/-- The n-bit two's-complement code of an integer. -/
def toSigned (n : Nat) (x : Int) : Nat := (x % (2 ^ n : Nat)).toNat

/-- ceil(a / b); 0 when b is 0. -/
def ceilDiv (a b : Nat) : Nat := if b = 0 then 0 else (a + (b - 1)) / b

/-- Round a up to a multiple of b. -/
def roundUp (a b : Nat) : Nat := ceilDiv a b * b

/-- The number of bits of a number: 0 for 0, else floor(log2) + 1. -/
def bitLen (x : Nat) : Nat := if x = 0 then 0 else x.log2 + 1

/-- A count that stops at its largest n-bit value (R78, R79, R392). -/
def satAdd (n a b : Nat) : Nat := min (a + b) (2 ^ n - 1)

/-- The sub-list of `len` entries from `off`. -/
def slice {α : Type} (l : List α) (off len : Nat) : List α := (l.drop off).take len

/-- The pieces of a list, n entries each (the last may be shorter); `fuel` pieces at most. -/
def chunks {α : Type} (n : Nat) : Nat → List α → List (List α)
  | 0, _ => []
  | fuel + 1, l => if l.isEmpty then [] else l.take n :: chunks n fuel (l.drop n)

/-- Replace the entry of a list at an index. -/
def setAt {α : Type} (l : List α) (i : Nat) (a : α) : List α := l.set i a

/-- Change the entry of a list at an index. -/
def modAt {α : Type} (l : List α) (i : Nat) (f : α → α) : List α := l.modify i f

/-- An entry of a fixed number of like things, by its index; beyond the last one, the default. -/
def getV {α : Type} {n : Nat} (v : Vector α n) (i : Nat) (d : α) : α := v.toList.getD i d

/-- Change each entry. -/
def mapV {α : Type} {n : Nat} (f : α → α) (v : Vector α n) : Vector α n := ⟨(v.toList.map f).toArray, by simp⟩

/-- Change each entry, with its index. -/
def mapIdxV {α : Type} {n : Nat} (f : α → Nat → α) (v : Vector α n) : Vector α n :=
  ⟨(v.toList.zipIdx.map (fun p => f p.1 p.2)).toArray, by simp⟩

/-- Change the entry at an index; beyond the last one, nothing. -/
def modV {α : Type} {n : Nat} (v : Vector α n) (i : Nat) (f : α → α) : Vector α n := ⟨(v.toList.modify i f).toArray, by simp⟩

/-- Replace the entry at an index. -/
def setV {α : Type} {n : Nat} (v : Vector α n) (i : Nat) (a : α) : Vector α n := modV v i (fun _ => a)

/-- Whether two half-open ranges share a member. -/
def overlap (a alen b blen : Nat) : Bool := decide (a < b + blen) && decide (b < a + alen)

/-- The first index of an entry that satisfies p. -/
def findIdx? {α : Type} (p : α → Bool) (l : List α) : Option Nat := l.findIdx? p

end Sys2Proof.Bits
end

