-- ==== Sys2Proof/Machine/Hash.lean ====
section
/-! DEFINITION. Checks over byte strings: CRC-32C (R131), CRC-64/ECMA-182 (R291), SHA-384 (FIPS 180-4, R156), and ECDSA over
P-384 with a deterministic nonce (SEC 1, RFC 6979; R241, R361, R362, R376). -/

namespace Sys2Proof.Hash

open Sys2Proof.Bits

/-! ### CRCs -/

/-- One bit of a reflected CRC-32C step. -/
def crc32cBit (c : Nat) : Nat := if c % 2 = 1 then Nat.xor (c / 2) 0x82F63B78 else c / 2

/-- One byte of CRC-32C. -/
def crc32cByte (c : Nat) (b : Byte) : Nat :=
  let x := Nat.xor c b.toNat
  crc32cBit (crc32cBit (crc32cBit (crc32cBit (crc32cBit (crc32cBit (crc32cBit (crc32cBit x)))))))

/-- CRC-32C (R131): polynomial 0x1EDC_6F41, reflected, initial value and final XOR all ones. -/
def crc32c (bs : List Byte) : Nat := Nat.xor (bs.foldl crc32cByte 0xFFFFFFFF) 0xFFFFFFFF

/-- One bit of a CRC-64/ECMA-182 step. -/
def crc64Bit (c : Nat) : Nat :=
  if c.testBit 63 then Nat.xor (c * 2 % 2 ^ 64) 0x42F0E1EBA9EA3693 else c * 2

/-- One byte of CRC-64/ECMA-182. -/
def crc64Byte (c : Nat) (b : Byte) : Nat :=
  let x := Nat.xor c (b.toNat * 2 ^ 56)
  crc64Bit (crc64Bit (crc64Bit (crc64Bit (crc64Bit (crc64Bit (crc64Bit (crc64Bit x)))))))

/-- CRC-64/ECMA-182 (R291): initial value 0, no reflection, final XOR 0. -/
def crc64 (bs : List Byte) : Nat := bs.foldl crc64Byte 0

/-! ### SHA-384 -/

/-- The integer cube or square root of x: the largest r with r^p ≤ x, bit by bit. -/
def rootBits (p x : Nat) : Nat → Nat → Nat
  | 0, acc => acc
  | k + 1, acc => rootBits p x k (if (acc + 2 ^ k) ^ p ≤ x then acc + 2 ^ k else acc)

/-- The first 80 primes, from which FIPS 180-4 takes the constants of SHA-512 and SHA-384. -/
def primes : List Nat :=
  (List.range 410).filter (fun n => decide (2 ≤ n) && (List.range n).all (fun d => decide (d < 2) || decide (n % d ≠ 0)))

/-- The 80 round constants: the first 64 bits of the fractional parts of the cube roots of the first 80 primes. -/
def sha512K : List Nat := primes.map (fun p => rootBits 3 (p * 2 ^ 192) 68 0 % 2 ^ 64)

/-- The initial hash value of SHA-384: the first 64 bits of the fractional parts of the square roots of the 9th to 16th primes. -/
def sha384Init : List Nat := (slice primes 8 8).map (fun p => rootBits 2 (p * 2 ^ 128) 70 0 % 2 ^ 64)

/-- Rotate a 64-bit word right. -/
def rotr64 (x n : Nat) : Nat := x / 2 ^ n + x % 2 ^ n * 2 ^ (64 - n)

def xor3 (a b c : Nat) : Nat := Nat.xor (Nat.xor a b) c

/-- The message schedule, newest word first, extended by n words. -/
def sha512Schedule : Nat → List Nat → List Nat
  | 0, w => w
  | n + 1, w =>
    let w2 := w.getD 1 0
    let w7 := w.getD 6 0
    let w15 := w.getD 14 0
    let w16 := w.getD 15 0
    let s0 := xor3 (rotr64 w15 1) (rotr64 w15 8) (w15 / 2 ^ 7)
    let s1 := xor3 (rotr64 w2 19) (rotr64 w2 61) (w2 / 2 ^ 6)
    sha512Schedule n ((w16 + s0 + w7 + s1) % 2 ^ 64 :: w)

/-- One round of SHA-512 on the eight working variables. -/
def sha512Round (v : List Nat) (kw : Nat × Nat) : List Nat :=
  match v with
  | [a, b, c, d, e, f, g, h] =>
    let s1 := xor3 (rotr64 e 14) (rotr64 e 18) (rotr64 e 41)
    let ch := Nat.xor (Nat.land e f) (Nat.land (2 ^ 64 - 1 - e) g)
    let t1 := (h + s1 + ch + kw.1 + kw.2) % 2 ^ 64
    let s0 := xor3 (rotr64 a 28) (rotr64 a 34) (rotr64 a 39)
    let mj := xor3 (Nat.land a b) (Nat.land a c) (Nat.land b c)
    [(t1 + s0 + mj) % 2 ^ 64, a, b, c, (d + t1) % 2 ^ 64, e, f, g]
  | _ => v

/-- Compress one 128-byte block. -/
def sha512Block (h : List Nat) (block : List Byte) : List Nat :=
  let w0 := (chunks 8 16 block).map beVal
  let w := (sha512Schedule 64 w0.reverse).reverse
  let v := (sha512K.zip w).foldl sha512Round h
  (h.zip v).map (fun p => (p.1 + p.2) % 2 ^ 64)

/-- The padded message: a 1 bit, zeros, and the 128-bit length in bits. -/
def sha512Pad (bs : List Byte) : List Byte :=
  let n := bs.length
  bs ++ (0x80#8 :: List.replicate ((239 - n % 128) % 128) 0#8) ++ beBytes 16 (8 * n)

/-- SHA-384: the first 48 output bytes. -/
def sha384 (bs : List Byte) : List Byte :=
  let p := sha512Pad bs
  let h := (chunks 128 (p.length / 128 + 1) p).foldl sha512Block sha384Init
  (h.flatMap (beBytes 8)).take 48

/-! ### P-384 -/

/-- The field prime of P-384. -/
def p384p : Nat := 2 ^ 384 - 2 ^ 128 - 2 ^ 96 + 2 ^ 32 - 1

/-- The order of the base point of P-384. -/
def p384n : Nat :=
  0xFFFFFFFFFFFFFFFFFFFFFFFFFFFFFFFFFFFFFFFFFFFFFFFFC7634D81F4372DDF581A0DB248B0A77AECEC196ACCC52973

/-- The coefficient b of P-384. -/
def p384b : Nat :=
  0xB3312FA7E23EE7E4988E056BE3F82D19181D9C6EFE8141120314088F5013875AC656398D8A2ED19D2A85C8EDD3EC2AEF

def p384gx : Nat :=
  0xAA87CA22BE8B05378EB1C71EF320AD746E1D3B628BA79B9859F741E082542A385502F25DBF55296C3A545E3872760AB7

def p384gy : Nat :=
  0x3617DE4A96262C6F5D9E98BF9292DC29F8F41DBD289A147CE9DA3113B5F0B8C00A60B1CE1D7E819D7A431D7C90EA0E5F

/-- b^e mod m, over the low n bits of e. -/
def powMod (m : Nat) : Nat → Nat → Nat → Nat
  | 0, _, _ => 1 % m
  | n + 1, b, e =>
    let r := powMod m n (b * b % m) (e / 2)
    if e % 2 = 1 then b * r % m else r

/-- The inverse modulo a prime of at most 384 bits, by Fermat. -/
def invMod (m a : Nat) : Nat := powMod m 384 a (m - 2)

/-- A point in projective coordinates (x, y, z) with x = X/Z, y = Y/Z; z = 0 at infinity. -/
abbrev Pt := Nat × Nat × Nat

/-- Twice a point (projective coordinates, a = -3). -/
def ptDouble (a : Pt) : Pt :=
  let p := p384p
  let x := a.1
  let y := a.2.1
  let z := a.2.2
  if z = 0 ∨ y = 0 then (0, 1, 0)
  else
    let w := 3 * ((x + p - z) % p) * ((x + z) % p) % p
    let s := y * z % p
    let bq := x * y % p * s % p
    let h := (w * w + 8 * (p - bq)) % p
    let x3 := 2 * h * s % p
    let y2 := y * s % p
    let y3 := (w * ((4 * bq + p - h) % p) + 8 * (p - y2 * y2 % p)) % p
    let z3 := 8 * (s * s % p) * s % p
    (x3, y3, z3)

/-- The sum of two points (projective coordinates). -/
def ptAdd (a b : Pt) : Pt :=
  let p := p384p
  if a.2.2 = 0 then b
  else if b.2.2 = 0 then a
  else
    let u1 := b.2.1 * a.2.2 % p
    let u2 := a.2.1 * b.2.2 % p
    let v1 := b.1 * a.2.2 % p
    let v2 := a.1 * b.2.2 % p
    if v1 = v2 then (if u1 = u2 then ptDouble a else (0, 1, 0))
    else
      let u := (u1 + p - u2) % p
      let v := (v1 + p - v2) % p
      let w := a.2.2 * b.2.2 % p
      let vv := v * v % p
      let vvv := vv * v % p
      let r := vv * v2 % p
      let aa := (u * u % p * w + 2 * p - vvv + 2 * (p - r)) % p
      (v * aa % p, (u * ((r + p - aa) % p) + p * p - vvv * u2) % p, vvv * w % p)

/-- k times a point, over the low n bits of k, most significant first. -/
def ptMul (k : Nat) (a : Pt) : Nat → Pt
  | 0 => (0, 1, 0)
  | n + 1 =>
    -- the n + 1 top bits of a 384-bit k: first the n above, doubled, then this one
    let d := ptDouble (ptMul k a n)
    if k.testBit (383 - n) then ptAdd d a else d

/-- The affine x and y of a point. -/
def ptAffine (a : Pt) : Nat × Nat :=
  let i := invMod p384p a.2.2
  (a.1 * i % p384p, a.2.1 * i % p384p)

/-- Whether (x, y) is a point of the curve. -/
def onCurve (x y : Nat) : Bool :=
  decide (x < p384p) && decide (y < p384p) &&
    decide (y * y % p384p = (x * x % p384p * x + 3 * (p384p - x) + p384b) % p384p)

/-- ECDSA verification over SHA-384 of a message (R362 check 4). -/
def ecdsaVerify (qx qy : Nat) (msg : List Byte) (r s : Nat) : Bool :=
  if r = 0 ∨ p384n ≤ r ∨ s = 0 ∨ p384n ≤ s ∨ !onCurve qx qy then false
  else
    let e := beVal (sha384 msg)
    let w := invMod p384n s
    let pt := ptAdd (ptMul (e * w % p384n) (p384gx, p384gy, 1) 384) (ptMul (r * w % p384n) (qx, qy, 1) 384)
    if pt.2.2 = 0 then false else decide ((ptAffine pt).1 % p384n = r)

/-- HMAC with SHA-384. -/
def hmac384 (key msg : List Byte) : List Byte :=
  let k0 := if 128 < key.length then sha384 key else key
  let k := k0 ++ List.replicate (128 - k0.length) 0#8
  sha384 (k.map (· ^^^ 0x5C#8) ++ sha384 (k.map (· ^^^ 0x36#8) ++ msg))

/-- The nonce candidates of RFC 6979 step h: the first of at most `fuel` that lies in [1, n - 1]. -/
def rfc6979Loop : Nat → List Byte → List Byte → Nat
  | 0, _, _ => 1
  | fuel + 1, k, v =>
    let v1 := hmac384 k v
    let c := beVal v1
    if 0 < c ∧ c < p384n then c
    else
      let k2 := hmac384 k (v1 ++ [0#8])
      rfc6979Loop fuel k2 (hmac384 k2 v1)

/-- The deterministic nonce of RFC 6979 for P-384 with SHA-384 (R241). -/
def rfc6979 (d : Nat) (hash : List Byte) : Nat :=
  let x := beBytes 48 d
  let h := beBytes 48 (beVal hash % p384n)
  let v0 := List.replicate 48 0x01#8
  let k0 := List.replicate 48 0x00#8
  let k1 := hmac384 k0 (v0 ++ [0#8] ++ x ++ h)
  let v1 := hmac384 k1 v0
  let k2 := hmac384 k1 (v1 ++ [1#8] ++ x ++ h)
  rfc6979Loop 8 k2 (hmac384 k2 v1)

/-- ECDSA signature r, s of a message under private key d with the deterministic nonce (R241, R376). -/
def ecdsaSign (d : Nat) (msg : List Byte) : Nat × Nat :=
  let hash := sha384 msg
  let k := rfc6979 d hash
  let r := (ptAffine (ptMul k (p384gx, p384gy, 1) 384)).1 % p384n
  (r, invMod p384n k * ((beVal hash + r * d) % p384n) % p384n)

/-- The public key of a private key. -/
def publicKey (d : Nat) : Nat × Nat := ptAffine (ptMul d (p384gx, p384gy, 1) 384)

end Sys2Proof.Hash
end

