-- ==== Sys2Proof/Config.lean ====
section
/-! DEFINITION. What an implementation fixes and the manual leaves open: free values, constants with no body,
so that nothing in Lean can evaluate them (log entry 3). A step applies one to the counter State.free, which it then advances. -/

namespace Sys2Proof.Config

/-- A session token as the engine draws it (R336 fixes only that it is opaque, never 0 and never the previous one). -/
opaque freeToken : Nat → BitVec 32

/-- One raw 8-bit sample of the ring-oscillator entropy source (R239). -/
opaque freeSample : Nat → BitVec 8

/-- A bit whose value the manual calls undefined or leaves to the implementation. -/
opaque freeBit : Nat → Bool

/-- A byte whose value the manual calls undefined. -/
opaque freeByte : Nat → BitVec 8

/-- A count or index that the manual leaves open. -/
opaque freeNat : Nat → Nat

/-- Whether fusedMultiplyAdd(0, infinity, quiet NaN) signals invalid, which IEEE 754-2019 7.2 leaves to the implementation (R55). -/
opaque fmaZeroInfNanInvalid : Bool

/-- The numeric bits of a poisoned Atomizer element (R73, R223): a function of where it is computed. -/
opaque poisonedBits : Nat → Nat

/-- The square that an element adds to an accumulator which two SQACC micro-ops of one program feed (R59 names one operand):
a function of the operands' codes. -/
opaque manySqacc : List Nat → BitVec 64

/-- Whether a write of a mode register sets the read latency (0) or the write latency (1) of the stack: the stack standard's encoding,
which the manual does not give (R300). -/
opaque mrSets : Nat → Nat → Bool

end Sys2Proof.Config
end

