-- ==== Sys2Proof/Machine/Fp.lean ====
section
/-! DEFINITION. Scalar floating-point formats and correctly rounded arithmetic (02_number_formats.md R33 to R36, R396;
03_arithmetic.md R55 to R58, R61). Every operation computes the exact value and rounds it once. -/

namespace Sys2Proof.Fp

open Sys2Proof.Bits

/-- What a code stands for: a NaN (signalling or not), a signed infinity, or exactly (-1)^neg * m * 2^e. -/
inductive Val where
  | nan (signalling : Bool)
  | inf (neg : Bool)
  | fin (neg : Bool) (m : Nat) (e : Int)
deriving DecidableEq, Repr

/-- Which top codes of a format are not numbers (Table 2-2). -/
inductive Top where
  /-- Exponent all ones: infinity and NaNs. -/
  | ieee
  /-- Only the all-ones magnitude is a NaN; no infinity (E4M3, E5M3). -/
  | nanOnly
  /-- Every code is a number (E2M3, E3M2, E2M1). -/
  | finite
deriving DecidableEq, Repr

/-- A scalar format: exponent bits, mantissa bits, bias, whether it has a sign bit, its top codes (Table 2-2). -/
structure Fmt where
  eb : Nat
  mb : Nat
  bias : Nat
  sgn : Bool
  top : Top
deriving DecidableEq, Repr

def binary64 : Fmt := ⟨11, 52, 1023, true, .ieee⟩
def binary32 : Fmt := ⟨8, 23, 127, true, .ieee⟩
def binary16 : Fmt := ⟨5, 10, 15, true, .ieee⟩
def bf16 : Fmt := ⟨8, 7, 127, true, .ieee⟩
def e4m3 : Fmt := ⟨4, 3, 7, true, .nanOnly⟩
def e5m2 : Fmt := ⟨5, 2, 15, true, .ieee⟩
def e2m3 : Fmt := ⟨2, 3, 1, true, .finite⟩
def e3m2 : Fmt := ⟨3, 2, 3, true, .finite⟩
def e2m1 : Fmt := ⟨2, 1, 1, true, .finite⟩
def e5m3 : Fmt := ⟨5, 3, 15, false, .nanOnly⟩

/-- Exponent of the smallest normal value. -/
def Fmt.emin (f : Fmt) : Int := 1 - (f.bias : Int)

/-- Bits below the sign. -/
def Fmt.magBits (f : Fmt) : Nat := f.eb + f.mb

/-- Magnitude code of the largest finite value (Table 2-2). -/
def Fmt.maxMag (f : Fmt) : Nat :=
  match f.top with
  | .ieee => (2 ^ f.eb - 1) * 2 ^ f.mb - 1
  | .nanOnly => 2 ^ f.magBits - 2
  | .finite => 2 ^ f.magBits - 1

/-- The sign bit of a code, when the format has one and the value is negative. -/
def Fmt.signBit (f : Fmt) (neg : Bool) : Nat := if f.sgn && neg then 2 ^ f.magBits else 0

/-- Code of an infinity, in a format that has one. -/
def Fmt.infCode (f : Fmt) (neg : Bool) : Nat := f.signBit neg + (2 ^ f.eb - 1) * 2 ^ f.mb

/-- The canonical NaN (R34, Table 2-2), in a format that has NaNs. -/
def Fmt.nanCode (f : Fmt) : Nat :=
  match f.top with
  | .ieee => (2 ^ f.eb - 1) * 2 ^ f.mb + 2 ^ (f.mb - 1)
  | _ => 2 ^ f.magBits - 1

/-- E5M2's canonical NaN is 0x7E (Table 2-2), which is the IEEE rule with two mantissa bits. -/
theorem e5m2_nanCode : e5m2.nanCode = 0x7E := by decide

/-- Sign of a code. -/
def Fmt.isNeg (f : Fmt) (c : Nat) : Bool := f.sgn && c.testBit f.magBits

/-- The exact value of a code (R33, R35, R40). -/
def decode (f : Fmt) (c : Nat) : Val :=
  let neg := f.isNeg c
  let mag := c % 2 ^ f.magBits
  let ex := mag / 2 ^ f.mb
  let mant := mag % 2 ^ f.mb
  match f.top, decide (ex = 2 ^ f.eb - 1), decide (mag = 2 ^ f.magBits - 1) with
  | .ieee, true, _ => if mant = 0 then .inf neg else .nan (!mant.testBit (f.mb - 1))
  | .nanOnly, _, true => .nan false
  | _, _, _ =>
    if ex = 0 then .fin neg mant (f.emin - f.mb)
    else .fin neg (mant + 2 ^ f.mb) ((ex : Int) - f.bias - f.mb)

/-- Rounding directions, Table 3-2. -/
inductive Rm where
  | nearestEven
  | towardZero
  | towardPos
  | towardNeg
deriving DecidableEq, Repr

/-- The RM field (Table 3-2). -/
def Rm.ofCode (c : Nat) : Rm :=
  if c = 0 then .nearestEven else if c = 1 then .towardZero else if c = 2 then .towardPos else .towardNeg

/-- Round m * 2^e to a multiple of 2^q: the integer multiple, and whether a nonzero part was dropped. -/
def roundAt (rm : Rm) (neg : Bool) (m : Nat) (e q : Int) : Nat × Bool :=
  let sh := q - e
  if sh ≤ 0 then (m * 2 ^ (-sh).toNat, false)
  else
    let k := sh.toNat
    let i := m / 2 ^ k
    let r := m % 2 ^ k
    let half := 2 ^ (k - 1)
    let up := match rm with
      | .nearestEven => decide (half < r) || (decide (r = half) && decide (i % 2 = 1))
      | .towardZero => false
      | .towardPos => decide (r ≠ 0) && !neg
      | .towardNeg => decide (r ≠ 0) && neg
    (i + ofBool up, decide (r ≠ 0))

/-- The exponent of the quantum of m * 2^e in mb + 1 significant bits, never below that of exponent emin. -/
def quantExp (mb : Nat) (emin : Int) (m : Nat) (e : Int) : Int :=
  if m = 0 then emin - mb else max (e + (bitLen m : Int) - 1) emin - (mb : Int)

/-- Round m * 2^e to mb + 1 significant bits, never below the quantum of exponent emin:
the integer significand, its exponent, and whether a nonzero part was dropped. -/
def quantum (mb : Nat) (emin : Int) (rm : Rm) (neg : Bool) (m : Nat) (e : Int) : Nat × Int × Bool :=
  let q := quantExp mb emin m e
  let r := if m = 0 then (0, false) else roundAt rm neg m e q
  (r.1, q, r.2)

/-- The magnitude code of a rounded significand: codes rise with values, a carry included. -/
def Fmt.magOf (f : Fmt) (i : Nat) (q : Int) : Nat := (q - (f.emin - f.mb)).toNat * 2 ^ f.mb + i

/-- The five IEEE exceptions (R56). -/
structure Exc where
  invalid : Bool := false
  divzero : Bool := false
  overflow : Bool := false
  underflow : Bool := false
  inexact : Bool := false
deriving DecidableEq, Repr

/-- Every exception that one of two operations signals (R56). -/
def Exc.or (a b : Exc) : Exc :=
  ⟨a.invalid || b.invalid, a.divzero || b.divzero, a.overflow || b.overflow,
    a.underflow || b.underflow, a.inexact || b.inexact⟩

/-- The IEEE result of rounding an exact value once in a direction: the code and its exceptions (R55, R56).
Tininess is detected after rounding. -/
def roundIeee (f : Fmt) (rm : Rm) (neg : Bool) (m : Nat) (e : Int) : Nat × Exc :=
  let r := quantum f.mb f.emin rm neg m e
  let mag := f.magOf r.1 r.2.1
  if f.maxMag < mag then
    let toInf := match rm with
      | .nearestEven => true
      | .towardZero => false
      | .towardPos => !neg
      | .towardNeg => neg
    (if toInf then f.infCode neg else f.signBit neg + f.maxMag, { overflow := true, inexact := true })
  else
    let ex := e + (bitLen m : Int) - 1
    let u := quantum f.mb ex rm neg m e
    let tiny := decide (m ≠ 0) && decide (u.2.1 + (bitLen u.1 : Int) - 1 < f.emin)
    (f.signBit neg + mag, { underflow := tiny && r.2.2, inexact := r.2.2 })

/-- The exact sum of two signed dyadics: sign, magnitude, exponent. An exact zero takes the IEEE sign. -/
def addExact (rm : Rm) (n1 : Bool) (m1 : Nat) (e1 : Int) (n2 : Bool) (m2 : Nat) (e2 : Int) : Bool × Nat × Int :=
  let e := min e1 e2
  let a : Int := (m1 * 2 ^ (e1 - e).toNat : Nat)
  let b : Int := (m2 * 2 ^ (e2 - e).toNat : Nat)
  let t := (if n1 then -a else a) + (if n2 then -b else b)
  if t = 0 then (if n1 == n2 then n1 else decide (rm = .towardNeg), 0, e)
  else (decide (t < 0), t.natAbs, e)

/-- The integer square root of a number below 4^bits, bit by bit. -/
def isqrt (x : Nat) : Nat → Nat → Nat
  | 0, acc => acc
  | k + 1, acc =>
    let t := acc + 2 ^ k
    isqrt x k (if t * t ≤ x then t else acc)

/-- floor(sqrt x). -/
def sqrtFloor (x : Nat) : Nat := isqrt x (bitLen x / 2 + 1) 0

/-- The canonical NaN, with invalid when an operand was signalling (R57). -/
def nanResult (f : Fmt) (vs : List Val) : Nat × Exc :=
  (f.nanCode, { invalid := vs.any (fun v => decide (v = .nan true)) })

def isNan : Val → Bool
  | .nan _ => true
  | _ => false

/-- The IEEE default result of an invalid operation (R56). -/
def invalidResult (f : Fmt) : Nat × Exc := (f.nanCode, { invalid := true })

/-- a + b (FADD). -/
def addV (f : Fmt) (rm : Rm) (a b : Val) : Nat × Exc :=
  match a, b with
  | .fin n1 m1 e1, .fin n2 m2 e2 =>
    let t := addExact rm n1 m1 e1 n2 m2 e2
    roundIeee f rm t.1 t.2.1 t.2.2
  | .inf n1, .inf n2 => if n1 == n2 then (f.infCode n1, {}) else invalidResult f
  | .inf n1, .fin _ _ _ => (f.infCode n1, {})
  | .fin _ _ _, .inf n2 => (f.infCode n2, {})
  | _, _ => nanResult f [a, b]

/-- The value with its sign inverted; a NaN stays as it is. -/
def negV : Val → Val
  | .fin n m e => .fin (!n) m e
  | .inf n => .inf (!n)
  | v => v

/-- a * b (FMUL). -/
def mulV (f : Fmt) (rm : Rm) (a b : Val) : Nat × Exc :=
  match a, b with
  | .fin n1 m1 e1, .fin n2 m2 e2 => roundIeee f rm (n1 != n2) (m1 * m2) (e1 + e2)
  | .inf n1, .inf n2 => (f.infCode (n1 != n2), {})
  | .inf n1, .fin n2 m2 _ => if m2 = 0 then invalidResult f else (f.infCode (n1 != n2), {})
  | .fin n1 m1 _, .inf n2 => if m1 = 0 then invalidResult f else (f.infCode (n1 != n2), {})
  | _, _ => nanResult f [a, b]

/-- a * b + c rounded once (FMA, R55); FMS is the same with c negated. -/
def fmaV (f : Fmt) (rm : Rm) (a b c : Val) : Nat × Exc :=
  let prodInvalid := match a, b with
    | .inf _, .fin _ m _ => decide (m = 0)
    | .fin _ m _, .inf _ => decide (m = 0)
    | _, _ => false
  if isNan a || isNan b || isNan c then
    let r := nanResult f [a, b, c]
    if prodInvalid && !r.2.invalid then (r.1, { invalid := Config.fmaZeroInfNanInvalid }) else r
  else if prodInvalid then invalidResult f
  else
    match a, b, c with
    | .fin n1 m1 e1, .fin n2 m2 e2, .fin n3 m3 e3 =>
      let t := addExact rm (n1 != n2) (m1 * m2) (e1 + e2) n3 m3 e3
      roundIeee f rm t.1 t.2.1 t.2.2
    | .fin _ _ _, .fin _ _ _, .inf n3 => (f.infCode n3, {})
    | _, _, _ =>
      let sgn := fun v => match v with
        | Val.inf n => n
        | Val.fin n _ _ => n
        | Val.nan _ => false
      let np := sgn a != sgn b
      match c with
      | .inf n3 => if n3 == np then (f.infCode np, {}) else invalidResult f
      | _ => (f.infCode np, {})

/-- a / b (FDIV): the quotient to enough bits, with a last bit that says whether more follow. -/
def divV (f : Fmt) (rm : Rm) (a b : Val) : Nat × Exc :=
  match a, b with
  | .fin n1 m1 e1, .fin n2 m2 e2 =>
    if m2 = 0 then
      if m1 = 0 then invalidResult f else (f.infCode (n1 != n2), { divzero := true })
    else
      let k := f.mb + 4 + bitLen m2 - bitLen m1
      let num := m1 * 2 ^ k
      let q := 2 * (num / m2) + ofBool (decide (num % m2 ≠ 0))
      roundIeee f rm (n1 != n2) q (e1 - e2 - k - 1)
  | .inf _, .inf _ => invalidResult f
  | .inf n1, .fin n2 _ _ => (f.infCode (n1 != n2), {})
  | .fin n1 _ _, .inf n2 => (f.signBit (n1 != n2), {})
  | _, _ => nanResult f [a, b]

/-- The square root (FSQRT). -/
def sqrtV (f : Fmt) (rm : Rm) (a : Val) : Nat × Exc :=
  match a with
  | .fin n m e =>
    if m = 0 then (f.signBit n, {})
    else if n then invalidResult f
    else
      let k0 := 2 * (f.mb + 4)
      let k := k0 + ((e - k0) % 2).toNat
      let x := m * 2 ^ k
      let r := sqrtFloor x
      roundIeee f rm false (2 * r + ofBool (decide (r * r ≠ x))) ((e - k) / 2 - 1)
  | .inf false => (f.infCode false, {})
  | .inf true => invalidResult f
  | .nan _ => nanResult f [a]

/-- The correctly rounded exact 1 / sqrt (FRSQRT, R55). -/
def rsqrtV (f : Fmt) (rm : Rm) (a : Val) : Nat × Exc :=
  match a with
  | .fin n m e =>
    if m = 0 then (f.infCode n, { divzero := true })
    else if n then invalidResult f
    else
      let odd := (e % 2).toNat
      let m' := m * 2 ^ odd
      let e' := e - odd
      let t := f.mb + 4 + bitLen m'
      let r := sqrtFloor (2 ^ (2 * t) / m')
      roundIeee f rm false (2 * r + ofBool (decide (r * r * m' ≠ 2 ^ (2 * t)))) (-(e' / 2) - t - 1)
  | .inf false => (0, {})
  | .inf true => invalidResult f
  | .nan _ => nanResult f [a]

/-- A key that orders the numbers of a format, -0 just below +0 (Table 3-3). -/
def orderKey (f : Fmt) (c : Nat) : Int :=
  let mag : Int := (c % 2 ^ f.magBits : Nat)
  if f.isNeg c then -mag - 1 else mag

/-- A key that orders the numbers of a format with -0 equal to +0 (FCMP, Table 3-3). -/
def compareKey (f : Fmt) (c : Nat) : Int :=
  let mag : Int := (c % 2 ^ f.magBits : Nat)
  if f.isNeg c then -mag else mag

/-- FMIN and FMAX on codes (Table 3-3). -/
def minMax (f : Fmt) (wantMax : Bool) (a b : Nat) : Nat × Exc :=
  let va := decode f a
  let vb := decode f b
  let inv : Exc := { invalid := decide (va = .nan true) || decide (vb = .nan true) }
  match isNan va, isNan vb with
  | true, true => (f.nanCode, inv)
  | true, false => (b, inv)
  | false, true => (a, inv)
  | false, false =>
    (if decide (orderKey f a < orderKey f b) != wantMax then a else b, {})

/-- The relation of an FCMP: EQ, LT, LE, UN (Table 3-3, SUB of Table 4-5). -/
def compareRel (f : Fmt) (rel : Nat) (a b : Nat) : Bool × Exc :=
  let va := decode f a
  let vb := decode f b
  let inv : Exc := { invalid := decide (va = .nan true) || decide (vb = .nan true) }
  let un := isNan va || isNan vb
  let r := match rel with
    | 0 => !un && decide (compareKey f a = compareKey f b)
    | 1 => !un && decide (compareKey f a < compareKey f b)
    | 2 => !un && decide (compareKey f a ≤ compareKey f b)
    | _ => un
  (r, inv)

/-- floor(log2 |x|) of a nonzero magnitude m * 2^e (ex of R41). -/
def exOf (m : Nat) (e : Int) : Int := e + (bitLen m : Int) - 1

/-- The exact value of a code of one format as a code of a wider IEEE format (R62); a NaN becomes the canonical NaN. -/
def widen (src dst : Fmt) (c : Nat) : Nat :=
  match decode src c with
  | .nan _ => dst.nanCode
  | .inf n => dst.infCode n
  | .fin n m e => (roundIeee dst .nearestEven n m e).1

end Sys2Proof.Fp
end

