-- ==== Sys2Proof/Machine/Convert.lean ====
section
/-! DEFINITION. Stream codecs (02_number_formats.md): scalar conversions with the SAT bit (R35, R63, R396), stochastic
rounding (R65, R74), block formats (R37 to R46), masks (R51, R52), contribution and partial encodings (R47, R48) and WX96 (R49, R50). -/

namespace Sys2Proof.Convert

open Sys2Proof.Bits Sys2Proof.Fp

/-- The category of R54 that one converted element falls in. -/
inductive Cat where
  | none
  | nan
  | overflow
  | saturated
  | flushed
deriving DecidableEq, Repr

/-- The result of a finite value that rounds above the largest finite value (R35, R63, R396). -/
def aboveMax (f : Fmt) (sat neg : Bool) : Nat × Cat :=
  match f.top, sat with
  | .ieee, true => (f.signBit neg + f.maxMag, .saturated)
  | .ieee, false => (f.infCode neg, .overflow)
  | .nanOnly, true => (f.signBit neg + f.maxMag, .saturated)
  | .nanOnly, false => (f.nanCode, .overflow)
  | .finite, true => (f.signBit neg + f.maxMag, .saturated)
  | .finite, false => (f.signBit neg + f.maxMag, .overflow)

/-- Convert an exact value to a scalar format, rounding to nearest, ties to even (R35, R62, R63, R396). -/
def encodeVal (f : Fmt) (sat : Bool) (v : Val) : Nat × Cat :=
  match v with
  | .nan _ => (if f.top = .finite then 0 else f.nanCode, .nan)
  | .inf n =>
    match f.top with
    | .ieee => (f.infCode n, .none)
    | .nanOnly => if sat then (f.signBit n + f.maxMag, .saturated) else (f.nanCode, .nan)
    | .finite => (f.signBit n + f.maxMag, if sat then .saturated else .overflow)
  | .fin n m e =>
    let r := quantum f.mb f.emin .nearestEven n m e
    let mag := f.magOf r.1 r.2.1
    if f.maxMag < mag then aboveMax f sat n
    else (f.signBit n + mag, if m ≠ 0 ∧ mag = 0 then .flushed else .none)

/-- Stochastic rounding of m * 2^e to a multiple of 2^q (sround, R65): `lim` dropped bits at most are measured
against the top bits of the `wbits`-bit random word w. -/
def stochAt (lim wbits w m : Nat) (e q : Int) : Nat × Int :=
  let d := q - e
  if d ≤ 0 then (m, e)
  else
    let dn := d.toNat
    let k := min dn lim
    let fk := (m % 2 ^ dn) / 2 ^ (dn - k)
    let r := w / 2 ^ (wbits - k)
    (m / 2 ^ dn + ofBool (decide (2 ^ k ≤ fk + r)), q)

/-- Convert with stochastic rounding (R65 with lim 24 and a 32-bit word; R74 with lim 8 and 8 bits).
Zeros, infinities and NaNs convert exactly as without it. -/
def encodeStoch (f : Fmt) (sat : Bool) (lim wbits w : Nat) (v : Val) : Nat × Cat :=
  match v with
  | .fin n m e =>
    if m = 0 then encodeVal f sat v
    else
      let y := stochAt lim wbits w m e (quantExp f.mb f.emin m e)
      if y.1 = 0 then (f.signBit n, .flushed) else encodeVal f sat (.fin n y.1 y.2)
  | _ => encodeVal f sat v

/-- How an encoder rounds: to nearest even, or stochastically with the element's word (R62, R65). -/
inductive Rounding where
  | nearest
  | stochastic (lim wbits w : Nat)
deriving DecidableEq, Repr

/-- Convert an exact value to a scalar format under a rounding. -/
def encodeWith (f : Fmt) (sat : Bool) (r : Rounding) (v : Val) : Nat × Cat :=
  match r with
  | .nearest => encodeVal f sat v
  | .stochastic lim wbits w => encodeStoch f sat lim wbits w v

/-- The value times 2^s, exactly. -/
def scaleVal (s : Int) : Val → Val
  | .fin n m e => .fin n m (e + s)
  | v => v

/-- The scalar format of a format code of Table 2-1 (0x01 to 0x08; the T forms are their element format). -/
def scalarFmt (code : Nat) : Option Fmt :=
  match code with
  | 0x01 => some binary64
  | 0x02 => some binary32
  | 0x03 => some binary16
  | 0x04 => some bf16
  | 0x05 => some e4m3
  | 0x06 => some e5m2
  | 0x07 => some e4m3
  | 0x08 => some e5m2
  | _ => none

/-- Whether a code of Table 2-1 carries a per-tensor scale (E4M3T, E5M2T; R36). -/
def isTensorScaled (code : Nat) : Bool := decide (code = 0x07) || decide (code = 0x08)

/-- The codes of Table 2-1 (R32); every other code is reserved. -/
def formatListed (code : Nat) : Bool :=
  [0x01, 0x02, 0x03, 0x04, 0x05, 0x06, 0x07, 0x08, 0x10, 0x11, 0x12, 0x13, 0x14, 0x15, 0x20, 0x21,
    0x30, 0x31, 0x38, 0x40, 0x41, 0x50].contains code

/-- Geometry of a block format (Table 2-6): elements per block, scale entry bytes, element type (none: MXINT8), element emax. -/
structure BlockFmt where
  b : Nat
  c : Nat
  elem : Option Fmt
  emax : Int
  lm8x : Bool
deriving DecidableEq, Repr

/-- The block format of a format code (Tables 2-1 and 2-6). -/
def blockFmt (code : Nat) : Option BlockFmt :=
  match code with
  | 0x10 => some ⟨32, 1, some e4m3, 8, false⟩
  | 0x11 => some ⟨32, 1, some e5m2, 15, false⟩
  | 0x12 => some ⟨32, 1, some e2m3, 2, false⟩
  | 0x13 => some ⟨32, 1, some e3m2, 4, false⟩
  | 0x14 => some ⟨32, 1, some e2m1, 2, false⟩
  | 0x15 => some ⟨32, 1, none, 0, false⟩
  | 0x20 => some ⟨64, 4, some e4m3, 8, true⟩
  | 0x21 => some ⟨64, 4, some e5m3, 16, true⟩
  | _ => none

/-- Bits of one stored element (Table 2-1). Every plane is one little-endian bit array of elements this wide
(R38, R51, R52: a block's bytes follow the block before it). -/
def elemBits (code : Nat) : Nat :=
  match code with
  | 0x01 => 64
  | 0x02 => 32
  | 0x03 => 16
  | 0x04 => 16
  | 0x12 => 6
  | 0x13 => 6
  | 0x14 => 4
  | 0x30 => 16
  | 0x31 => 16
  | 0x38 => 16
  | 0x40 => 1
  | 0x41 => 2
  | 0x50 => 96
  | _ => 8

/-- The encoded form of one block: scale entry, element codes, a category for each element of the stream, whether it is a zero block. -/
structure Block where
  scale : Nat
  codes : List Nat
  cats : List Cat
  zero : Bool
deriving DecidableEq, Repr

/-- The magnitude code of a binary32 code. -/
def mag32 (c : Nat) : Nat := c % 2 ^ 31

/-- ex of R41 for a nonzero finite binary32 code. -/
def ex32 (c : Nat) : Int :=
  match decode binary32 c with
  | .fin _ m e => exOf m e
  | _ => 0

/-- The largest magnitude code among some binary32 codes. -/
def maxMag32 (vs : List Nat) : Nat := vs.foldl (fun a v => max a (mag32 v)) 0

/-- Encode one element of a block that is neither a NaN block nor a zero block: code and category (R41). -/
def encodeElem (bf : BlockFmt) (sat : Bool) (s : Int) (r : Rounding) (v : Nat) : Nat × Cat :=
  match bf.elem with
  | some f => encodeWith f sat r (scaleVal (-s) (decode binary32 v))
  | none =>
    match decode binary32 v with
    | .fin n m e =>
      let i : Nat := match r with
        | .nearest => (roundAt .nearestEven n m (e - s) (-6)).1
        | .stochastic lim wb w =>
          let y := stochAt lim wb w m (e - s) (-6)
          (roundAt .nearestEven n y.1 y.2 (-6)).1
      let c := min i 127
      (toSigned 8 (if n then -(c : Int) else c),
        if 127 < i then (if sat then .saturated else .overflow)
        else if m ≠ 0 ∧ i = 0 then .flushed else .none)
    | _ => (0, .nan)

/-- The category of an outlier: saturated above the BF16 range (R43). R41 passes over it before it counts flushed elements. -/
def outlierCat : Cat → Cat
  | .flushed => .none
  | c => c

/-- encode_block of R41 on binary32 codes (fewer than B in a short block: the missing positions take part as +0
and are not counted). `rs` gives each element its rounding. -/
def encodeBlock (bf : BlockFmt) (sat : Bool) (rs : List Rounding) (vs : List Nat) : Block :=
  let bad := vs.any (fun v => match decode binary32 v with
    | .fin n m _ => decide (bf.elem = some e5m3) && n && decide (m ≠ 0)
    | _ => true)
  if bad then ⟨0xFF, vs.map (fun _ => 0), vs.map (fun _ => .nan), false⟩
  else
    let a1 := maxMag32 vs
    if a1 = 0 then
      ⟨if bf.lm8x then 0x8000 else 0, vs.map (fun _ => 0), vs.map (fun _ => .none), true⟩
    else
      let i1 := vs.findIdx (fun v => decide (mag32 v = a1))
      let a2 := maxMag32 (vs.eraseIdx i1)
      let isOut := bf.lm8x && (decide (a2 = 0) || decide (4 ≤ ex32 a1 - ex32 a2))
      let ref := if isOut then a2 else a1
      let s : Int := if ref = 0 then -127 else max (-127) (min 127 (ex32 ref - bf.emax))
      let elems := (vs.zip rs).mapIdx (fun i vr =>
        if isOut && decide (i = i1) then (0, outlierCat (encodeVal bf16 true (decode binary32 vr.1)).2)
        else encodeElem bf sat s vr.2 vr.1)
      let sc := (s + 127).toNat
      let entry :=
        if isOut then
          sc + i1 * 2 ^ 8 + 2 ^ 14 + (encodeVal bf16 true (decode binary32 (vs.getD i1 0))).1 * 2 ^ 16
        else sc
      ⟨entry, elems.map Prod.fst, elems.map Prod.snd, false⟩

/-- Decode element i of a block from its scale entry and element code (R45, R46): a binary32 code and its category. -/
def decodeBlockElem (bf : BlockFmt) (entry i code : Nat) : Nat × Cat :=
  let scale := entry % 256
  let nanR := (binary32.nanCode, Cat.nan)
  let outIdx := field entry 8 6
  let outValid := bit entry 14
  let zeroBlk := bit entry 15
  let outVal := field entry 16 16
  let round := fun v => match v with
    | Val.nan _ => nanR
    | Val.inf n => (binary32.infCode n, Cat.none)
    | Val.fin n m e =>
      let r := encodeVal binary32 false (.fin n m e)
      (r.1, if r.2 = .overflow then Cat.overflow else Cat.none)
  let plain :=
    match bf.elem with
    | some f => round (scaleVal ((scale : Int) - 127) (decode f code))
    | none =>
      let x := signed 8 code
      round (.fin (decide (x < 0)) x.natAbs ((scale : Int) - 127 - 6))
  if scale = 0xFF then nanR
  else if bf.lm8x then
    if zeroBlk && (outValid || decide (scale ≠ 0)) then nanR
    else if !outValid && (decide (outIdx ≠ 0) || decide (outVal ≠ 0)) then nanR
    else if zeroBlk then (0, .none)
    else if outValid && decide (i = outIdx) then round (decode bf16 outVal)
    else plain
  else plain

/-- A value in a lane: its width and its bits (R82). -/
structure Lane where
  w64 : Bool
  code : Nat
deriving DecidableEq, Repr

/-- The format of a lane value. -/
def Lane.fmt (l : Lane) : Fmt := if l.w64 then binary64 else binary32

/-- The exact value of a lane value. -/
def Lane.val (l : Lane) : Val := decode l.fmt l.code

/-- A binary32 lane value. -/
def lane32 (c : Nat) : Lane := ⟨false, c⟩

/-- Decode one stored element of a scalar or mask format to its lane value (R33 to R36, R51, R52, R62).
binary32, binary64 and BF16 NaN patterns reach the lanes as they are stored (log entry 10). -/
def decodeScalar (code : Nat) (k : Int) (c : Nat) : Lane × Cat :=
  match code with
  | 0x01 => (⟨true, c⟩, if isNan (decode binary64 c) then .nan else .none)
  | 0x02 => (lane32 c, if isNan (decode binary32 c) then .nan else .none)
  | 0x04 => (lane32 (c * 2 ^ 16), if isNan (decode bf16 c) then .nan else .none)
  | 0x40 => (lane32 (if c = 0 then 0x3F800000 else 0xBF800000), .none)
  | 0x41 =>
    if c = 0 then (lane32 0, .none) else if c = 1 then (lane32 0x3F800000, .none)
    else if c = 3 then (lane32 0xBF800000, .none) else (lane32 binary32.nanCode, .nan)
  | _ =>
    match scalarFmt code with
    | some f =>
      match scaleVal (if isTensorScaled code then k else 0) (decode f c) with
      | .nan _ => (lane32 binary32.nanCode, .nan)
      | .inf n => (lane32 (binary32.infCode n), .none)
      | .fin n m e =>
        let r := encodeVal binary32 false (.fin n m e)
        (lane32 r.1, if r.2 = .overflow then .overflow else .none)
    | none => (lane32 binary32.nanCode, .nan)

/-- The sign bit of a lane value, NaNs included. -/
def Lane.neg (l : Lane) : Bool := l.code.testBit (if l.w64 then 63 else 31)

/-- Encode a lane value as a B1 element (R51). -/
def encodeB1 (l : Lane) : Nat × Cat :=
  (ofBool l.neg, match l.val with
    | .nan _ => .nan
    | .inf _ => .saturated
    | .fin _ _ _ => .none)

/-- Encode a lane value as a T2 element (R52). -/
def encodeT2 (l : Lane) : Nat × Cat :=
  match l.val with
  | .nan _ => (0, .nan)
  | .inf n => (if n then 3 else 1, .saturated)
  | .fin n m _ => (if m = 0 then 0 else if n then 3 else 1, .none)

/-- Encode a lane value in a scalar or mask format (R62, R63); k is the tensor scale exponent (R36). -/
def encodeScalar (code : Nat) (sat : Bool) (k : Int) (r : Rounding) (l : Lane) : Nat × Cat :=
  match code with
  | 0x40 => encodeB1 l
  | 0x41 => encodeT2 l
  | _ =>
    match scalarFmt code with
    | some f => encodeWith f sat r (scaleVal (if isTensorScaled code then -k else 0) l.val)
    | none => (0, .none)

/-- The binary32 code that enters a block encoder, with the category of the first rounding of a binary64 value (R41, R62). -/
def toBinary32 (sat : Bool) (l : Lane) : Nat × Cat :=
  if l.w64 then encodeVal binary32 sat l.val else (l.code, .none)

/-- Merge the category of the first rounding with that of the block encoding: a NaN block counts only as NaN, then the
precedence of R54; a value flushed by the first rounding is counted flushed unless its block is a zero block (log entry 11). -/
def mergeCat (first second : Cat) (zero : Bool) : Cat :=
  match second, first with
  | .nan, _ => .nan
  | .overflow, _ => .overflow
  | _, .overflow => .overflow
  | .saturated, _ => .saturated
  | _, .saturated => .saturated
  | .flushed, _ => .flushed
  | .none, .flushed => if zero then .none else .flushed
  | .none, _ => .none

/-- What one encoder makes of consecutive elements that start at a block boundary. -/
structure Encoded where
  codes : List Nat
  scales : List Nat
  cats : List Cat
  zeroBlocks : Nat
deriving DecidableEq, Repr

/-- Encode consecutive elements of a stream that start at a block boundary (R37, R41, R62). -/
def encodeRun (code : Nat) (sat : Bool) (k : Int) (rs : List Rounding) (ls : List Lane) : Encoded :=
  match blockFmt code with
  | none =>
    let es := (ls.zip rs).map (fun lr => encodeScalar code sat k lr.2 lr.1)
    ⟨es.map Prod.fst, [], es.map Prod.snd, 0⟩
  | some bf =>
    let firsts := ls.map (toBinary32 sat)
    let blocks := ((chunks bf.b (firsts.length + 1) firsts).zip (chunks bf.b (rs.length + 1) rs)).map
      (fun fr =>
        let blk := encodeBlock bf sat fr.2 (fr.1.map Prod.fst)
        (blk, (fr.1.zip blk.cats).map (fun p => mergeCat p.1.2 p.2 blk.zero)))
    ⟨blocks.flatMap (fun b => b.1.codes), blocks.map (fun b => b.1.scale),
      blocks.flatMap Prod.snd, (blocks.filter (fun b => b.1.zero)).length⟩

/-- The w-bit element at a bit offset of a plane whose bytes `rd` reads. -/
def readBits (rd : Nat → Byte) (off w : Nat) : Nat :=
  let first := off / 8
  let n := ceilDiv (off % 8 + w) 8
  field (leVal ((List.range n).map (fun i => rd (first + i)))) (off % 8) w

/-- Decode element j of a stream from its element and scale planes (R37, R45, R62). -/
def decodeStream (code : Nat) (k : Int) (rdE rdS : Nat → Byte) (j : Nat) : Lane × Cat :=
  let w := elemBits code
  let c := readBits rdE (j * w) w
  match blockFmt code with
  | none => decodeScalar code k c
  | some bf =>
    let entry := readBits rdS (j / bf.b * bf.c * 8) (bf.c * 8)
    let r := decodeBlockElem bf entry (j % bf.b) c
    (lane32 r.1, r.2)

/-- The little-endian number that packs element codes of w bits, the first lowest (R38, R51, R52). -/
def packCodes (w : Nat) : List Nat → Nat
  | [] => 0
  | c :: cs => c % 2 ^ w + 2 ^ w * packCodes w cs

/-- The bytes of a plane after its elements from j0 take new codes: byte offset and bytes. Bits of the last byte that belong
to no written element keep their old value (R37: missing positions are not written; log entry 12). -/
def planeBytes (code : Nat) (old : Nat → Byte) (j0 : Nat) (codes : List Nat) : Nat × List Byte :=
  let w := elemBits code
  let bits := w * codes.length
  let nb := ceilDiv bits 8
  let base := j0 * w / 8
  let oldv := leVal ((List.range nb).map (fun i => old (base + i)))
  (base, leBytes nb (packCodes w codes + oldv / 2 ^ bits * 2 ^ bits))

/-- Bytes of the element plane of n elements (Table 2-6). -/
def elemPlaneBytes (code n : Nat) : Nat := ceilDiv (n * elemBits code) 8

/-- Bytes of the scale plane of n elements; 0 for a format without a scale plane. -/
def scalePlaneBytes (code n : Nat) : Nat :=
  match blockFmt code with
  | none => 0
  | some bf => ceilDiv n bf.b * bf.c

/-! ### Contributions, partials and WX96 -/

/-- The element format of a GS16 contribution (R47). -/
def gs16Fmt (code : Nat) : Fmt := if code = 0x31 then binary16 else bf16

/-- An exact term of an accumulation: the product of two decoded values (R47), with the NaN of infinity times zero. -/
def mulExact (a b : Val) : Val :=
  match a, b with
  | .fin n1 m1 e1, .fin n2 m2 e2 => .fin (n1 != n2) (m1 * m2) (e1 + e2)
  | .inf n1, .inf n2 => .inf (n1 != n2)
  | .inf n1, .fin n2 m _ => if m = 0 then .nan false else .inf (n1 != n2)
  | .fin n1 m _, .inf n2 => if m = 0 then .nan false else .inf (n1 != n2)
  | _, _ => .nan false

/-- The 96-bit integer that a term adds to a WX96 accumulator with window exponent W (R49), and its category. -/
def wxTerm (w : Int) (t : Val) : Int × Cat :=
  match t with
  | .nan _ => (0, .nan)
  | .inf n => (if n then -(2 ^ 64 - 1 : Int) else 2 ^ 64 - 1, .saturated)
  | .fin n m e =>
    if m ≠ 0 ∧ w ≤ exOf m e then (if n then -(2 ^ 64 - 1 : Int) else 2 ^ 64 - 1, .saturated)
    else
      let r := roundAt .towardZero n m e (w - 64)
      (if n then -(r.1 : Int) else r.1, if r.2 then .flushed else .none)

/-- The value of a WX96 accumulator rounded once to binary32 (R50), and its category. -/
def wxResult (w : Int) (a : Int) : Nat × Cat :=
  if a = 0 then (0, .none)
  else
    let r := encodeVal binary32 false (.fin (decide (a < 0)) a.natAbs (w - 64))
    (r.1, if r.2 = .overflow then .overflow else if mag32 r.1 = 0 then .flushed else .none)

/-- A WX96 accumulator as it is stored: 12 bytes, two's complement, little-endian (R49). -/
def wxBytes (a : Int) : List Byte := leBytes 12 (toSigned 96 a)

/-- One BF16S element decoded with its chunk's scale (R48): a binary32 code. -/
def decodeBf16s (k : Int) (c : Nat) : Nat :=
  match scaleVal k (decode bf16 c) with
  | .nan _ => binary32.nanCode
  | v => (encodeVal binary32 false v).1

/-- chunk_scale of R145 over the finite elements of a chunk. -/
def chunkScale (ps : List Nat) : Int :=
  let a := ps.foldl (fun a p => match decode binary32 p with
    | .fin _ _ _ => max a (mag32 p)
    | _ => a) 0
  if a = 0 then 0 else max (-128) (min 127 (ex32 a))

/-- One element of a BF16S chunk (R145): BF16 code and category. -/
def encodeBf16s (k : Int) (p : Nat) : Nat × Cat := encodeVal bf16 true (scaleVal (-k) (decode binary32 p))

/-- Whether a binary32 code is a NaN or an infinity. -/
def nonFinite32 (c : Nat) : Bool := decide (2 ^ 31 - 2 ^ 23 ≤ mag32 c)

end Sys2Proof.Convert
end

