-- ==== Sys2Proof/Machine/Exact.lean ====
section
/-! DEFINITION. Real functions to a fixed number of bits, in integer arithmetic: enough bits to decide every rounding that
R75 and R233 ask for (log entry 13). A value v stands for v / 2^prec. -/

namespace Sys2Proof.Exact

open Sys2Proof.Bits Sys2Proof.Fp

/-- Bits after the point of every fixed-point value of this file. -/
def prec : Nat := 512

/-- The fixed-point one. -/
def one : Nat := 2 ^ prec

/-- The product of two fixed-point values. -/
def mulFx (a b : Nat) : Nat := a * b / one

/-- m * 2^e as a fixed-point value, low bits dropped. -/
def ofDyadic (m : Nat) (e : Int) : Nat :=
  if 0 ≤ e + prec then m * 2 ^ (e + prec).toNat else m / 2 ^ (-(e + prec)).toNat

/-- arctan(1/k) by its alternating series: the n-th term onward, from the power 1/k^(2i+1). -/
def arctanInv (k : Nat) : Nat → Nat → Nat → Int
  | 0, _, _ => 0
  | fuel + 1, i, p => (p / (2 * i + 1) : Nat) - arctanInv k fuel (i + 1) (p / (k * k))

/-- pi, by Machin's formula. -/
def pi : Nat := (16 * arctanInv 5 120 0 (one / 5) - 4 * arctanInv 239 40 0 (one / 239)).toNat

/-- sqrt(2 pi). -/
def sqrtTwoPi : Nat := sqrtFloor (2 * pi * one)

/-- The terms of the exponential series from term t of index i onward. -/
def expTerms (x : Nat) : Nat → Nat → Nat → Nat
  | 0, _, _ => 0
  | fuel + 1, i, t => t + expTerms x fuel (i + 1) (mulFx t x / (i + 1))

/-- Square a value n times. -/
def squareN : Nat → Nat → Nat
  | 0, v => v
  | n + 1, v => squareN n (mulFx v v)

/-- e^x for a fixed-point x in [0, 256). -/
def expPos (x : Nat) : Nat := squareN 10 (expTerms (x / 2 ^ 10) 100 0 one)

/-- e^-x for a fixed-point x in [0, 256). -/
def expNeg (x : Nat) : Nat := one * one / expPos x

/-- The terms x^(2n+1) / (1 * 3 * ... * (2n+1)) from a term onward. -/
def phiTerms (x2 : Nat) : Nat → Nat → Nat → Nat
  | 0, _, _ => 0
  | fuel + 1, n, t => t + phiTerms x2 fuel (n + 1) (mulFx t x2 / (2 * n + 3))

/-- Phi(x) - 1/2 for a fixed-point x in [0, 17). -/
def phiHalf (x : Nat) : Nat :=
  let x2 := mulFx x x
  let dens := expNeg (x2 / 2) * one / sqrtTwoPi
  mulFx dens (phiTerms x2 700 0 x)

/-- Phi(m * 2^e) - 1/2 for a small argument of few bits, by the alternating series (R233). -/
def phiHalfAlt (x2 : Nat) : Nat → Nat → Nat → Int
  | 0, _, _ => 0
  | fuel + 1, n, t => (t / (2 * n + 1) : Nat) - phiHalfAlt x2 fuel (n + 1) (mulFx t x2 / (2 * (n + 1)))

/-- Whether Phi((2c + 1) / 2 ulps: the midpoint above the positive binary32 code c) exceeds j / 2,048. -/
def midAbove (j c : Nat) : Bool :=
  if 0x40800000 ≤ c then true else  -- 4.0: every knot lies below it
  match decode binary32 c, decode binary32 (c + 1) with
  | .fin _ m1 e1, .fin _ m2 e2 =>
    let x := (ofDyadic m1 e1 + ofDyadic m2 e2) / 2
    let lhs := phiHalfAlt (mulFx x x) 140 0 x
    decide (((j * 2 - 2048) * sqrtTwoPi / 4096 : Nat) < lhs)
  | _, _ => true

/-- The least binary32 code below 2^bits + acc whose upper midpoint exceeds the target, bit by bit. -/
def knotSearch (j : Nat) : Nat → Nat → Nat
  | 0, acc => acc
  | k + 1, acc =>
    let t := acc + 2 ^ k
    knotSearch j k (if midAbove j (t - 1) then acc else t)

/-- The knot T[j] (R233): Phi^-1(j / 2,048) rounded once to binary32; the end knots are -6 and +6. -/
def knot (j : Nat) : Nat :=
  if j = 0 then 0xC0C00000
  else if 2048 ≤ j then 0x40C00000
  else if j = 1024 then 0
  else if 1024 < j then knotSearch j 31 0
  else 2 ^ 31 + knotSearch (2048 - j) 31 0

/-- The activations of R75 (the FUNC codes of ATM_ACT, Table 7-8). -/
inductive Act where
  | relu
  | gelu
  | silu
  | sigmoid
  | tanh
  | exp
deriving DecidableEq, Repr

/-- The magnitude (a fixed-point value) and sign of an activation of a nonzero finite x = (-1)^neg * m * 2^e; values beyond
every finite result of the input formats, or below every nonzero one, are replaced by one that rounds the same way. -/
def actValue (a : Act) (neg : Bool) (m : Nat) (e : Int) : Bool × Nat :=
  let x := ofDyadic m e
  let tiny := 2 ^ 100
  let big := 2 ^ 200 * one
  let isBig := decide (one * 160 ≤ x)
  match a with
  | .relu => (false, if neg then 0 else x)
  | .exp =>
    (false, if isBig then (if neg then tiny else big) else if neg then expNeg x else expPos x)
  | .sigmoid =>
    let en := if isBig then tiny else expNeg x
    -- 1 / (1 + e^-x), or e^x / (1 + e^x) below zero
    (false, if neg then en * one / (one + en) else one * one / (one + en))
  | .silu =>
    let en := if isBig then 0 else expNeg x
    (neg, if neg then (if isBig then tiny else mulFx x (en * one / (one + en))) else x * one / (one + en))
  | .tanh =>
    -- (1 - e^-2x) / (1 + e^-2x)
    let en := if decide (one * 80 ≤ x) then 0 else expNeg (2 * x)
    (neg, if decide (x * 2 ^ 100 < one) then x else (one - en) * one / (one + en))
  | .gelu =>
    if decide (one * 16 ≤ x) then (neg, if neg then tiny else x)
    else
      let ph := phiHalf x
      (neg, if neg then mulFx x (one / 2 - ph) else mulFx x (one / 2 + ph))

end Sys2Proof.Exact
end

