-- ==== Sys2Proof/Machine/Sillage.lean ====
section
/-! DEFINITION. Sillage (08_sillage.md): the mixer and its key, the word of an element, the variates of UNI and NRM, and the
lane bits of the Atomizers. -/

namespace Sys2Proof.Sillage

open Sys2Proof.Bits Sys2Proof.Fp

/-- Four 32-bit words, as numbers below 2^32. -/
structure Quad where
  w0 : Nat
  w1 : Nat
  w2 : Nat
  w3 : Nat
deriving DecidableEq, Repr

/-- The four words of a 128-bit value, least significant first. -/
def Quad.ofNat (x : Nat) : Quad := ⟨field x 0 32, field x 32 32, field x 64 32, field x 96 32⟩

/-- The 128-bit value of four words. -/
def Quad.toNat (q : Quad) : Nat := q.w0 + q.w1 * 2 ^ 32 + q.w2 * 2 ^ 64 + q.w3 * 2 ^ 96

/-- Rotate a 32-bit word left. -/
def rotl (v n : Nat) : Nat := (v * 2 ^ n + v / 2 ^ (32 - n)) % 2 ^ 32

/-- Word (i mod 4) of a quad. -/
def Quad.get (q : Quad) (i : Nat) : Nat :=
  match i % 4 with
  | 0 => q.w0
  | 1 => q.w1
  | 2 => q.w2
  | _ => q.w3

/-- Round key i (R229). -/
def roundKey (k : Quad) (i : Nat) : Quad :=
  let f := fun j => (rotl (k.get (i + j)) (8 * i) + i * 0x6A5D39E1) % 2 ^ 32
  ⟨f 0, f 1, f 2, f 3⟩

/-- The rotation amounts ra and rb (Table 8-2). -/
def ra (r : Nat) : Nat := [7, 19, 13, 25].getD (r % 4) 0
def rb (r : Nat) : Nat := [11, 3, 29, 17].getD (r % 4) 0

/-- One round of the mixer, its word rotation and round-key injection included (R229). -/
def mixRound (k : Quad) (x : Quad) (r : Nat) : Quad :=
  let x0 := (x.w0 + rotl x.w3 (ra r)) % 2 ^ 32
  let x2 := Nat.xor x.w2 x0
  let x1 := (x.w1 + rotl x2 (rb r)) % 2 ^ 32
  let x3 := Nat.xor x.w3 x1
  if r % 4 = 3 then
    let ks := roundKey k ((r + 1) / 4)
    ⟨Nat.xor x1 ks.w0, Nat.xor x2 ks.w1, Nat.xor x3 ks.w2, Nat.xor x0 ks.w3⟩
  else ⟨x1, x2, x3, x0⟩

/-- The keyed permutation mix(k, c) (R229). -/
def mix (k c : Quad) : Quad :=
  let ks := roundKey k 0
  let x : Quad := ⟨(c.w0 + ks.w0) % 2 ^ 32, (c.w1 + ks.w1) % 2 ^ 32, (c.w2 + ks.w2) % 2 ^ 32, (c.w3 + ks.w3) % 2 ^ 32⟩
  (List.range 12).foldl (mixRound k) x

/-- The derivation key kd (Table 8-2). -/
def kd : Quad := ⟨0x8F3B2C61, 0x1D9E47A5, 0xC26AF019, 0x7B04D3E8⟩

/-- The Sillage key of a 128-bit run seed (R226). -/
def keyOfSeed (seed : Nat) : Nat := (mix kd (Quad.ofNat seed)).toNat

/-- The counter of step t, stream d and group g (R228, Table 8-1). -/
def counter (t d g : Nat) : Quad :=
  ⟨field g 0 32, field g 32 32, d % 2 ^ 16 + t % 2 ^ 16 * 2 ^ 16, field t 16 32⟩

/-- The 32-bit word of the element with GEI e at step t on stream d (R228). -/
def word (key t d e : Nat) : Nat := (mix (Quad.ofNat key) (counter t d (e / 4))).get e

/-- UNI (R232): (w >> 8) * 2^-24, a binary32 code. -/
def uni (w : Nat) : Nat := (roundIeee binary32 .nearestEven false (w / 2 ^ 8) (-24)).1

/-- NRM (R233): inverse-CDF interpolation over the knot table, a binary32 code. -/
def nrm (w : Nat) : Nat :=
  let j := field w 21 11
  let f := (roundIeee binary32 .nearestEven false (w % 2 ^ 21) (-21)).1
  let t0 := Exact.knot j
  let d := (addV binary32 .nearestEven (decode binary32 (Exact.knot (j + 1))) (negV (decode binary32 t0))).1
  let z := (fmaV binary32 .nearestEven (decode binary32 f) (decode binary32 d) (decode binary32 t0)).1
  (minMax binary32 false (minMax binary32 true z 0xC0C00000).1 0x40C00000).1

/-- n steps of the Galois LFSR (R234). -/
def lfsrSteps : Nat → Nat → Nat
  | 0, s => s
  | n + 1, s => lfsrSteps n (if s % 2 = 1 then Nat.xor (s / 2) 0xD800000000000000 else s / 2)

/-- The next 8 output bits of the LFSR, the first the most significant (R234). -/
def lfsrByte (s : Nat) : Nat :=
  (List.range 8).foldl (fun a n => 2 * a + lfsrSteps n s % 2) 0

/-- The segment seed of GEI segment q at step t on stream d (R234). -/
def segmentSeed (key t d q : Nat) : Nat :=
  let y := mix (Quad.ofNat key) (counter t d (16 * q))
  let s := y.w0 + y.w1 * 2 ^ 32
  if s = 0 then 0xC3A5C85C97CB3127 else s

/-- The 8 random bits of the element with GEI e (R234). -/
def atmBits (key t d e : Nat) : Nat := lfsrByte (lfsrSteps (8 * (e % 64)) (segmentSeed key t d (e / 64)))

end Sys2Proof.Sillage
end

