-- ==== Sys2Proof/Machine/Accord.lean ====
section
/-! DEFINITION. Accords (04_stills_and_accords.md): the micro-op word and header, what one micro-op and one program do with one
element, the built-in programs, the tree of SQACC and the running maxima, and the depth and rate of a program. -/

namespace Sys2Proof.Accord

open Sys2Proof.Bits Sys2Proof.Fp Sys2Proof.Convert

/-- The fields of a micro-op word (R94, Table 4-5). -/
structure Op where
  opc : Nat
  rm : Nat := 0
  w64 : Bool := false
  dst : Nat := 0
  a : Nat := 0
  b : Nat := 0
  c : Nat := 0
  sub : Nat := 0
  imm : Nat := 0
  omask : Nat := 0
  last : Bool := false
deriving DecidableEq, Repr

/-- Read a micro-op word (Table 4-5). -/
def Op.ofWord (w : Nat) : Op :=
  { opc := field w 0 6, rm := field w 6 2, w64 := bit w 8, dst := field w 9 7, a := field w 16 7, b := field w 23 7,
    c := field w 30 7, sub := field w 37 3, imm := field w 40 16, omask := field w 56 7, last := bit w 63 }

/-- An Accord header word (R99, Table 4-8). -/
structure Header where
  code : Nat
  nops : Nat
  nopsA : Nat
  inMask : Nat
  outMask : Nat
  sillage : Bool
  w64 : Bool
deriving DecidableEq, Repr

def Header.ofWord (w : Nat) : Header :=
  { code := field w 0 8, nops := field w 8 6, nopsA := field w 14 6, inMask := field w 20 7, outMask := field w 27 7,
    sillage := bit w 34, w64 := bit w 35 }

/-- A custom Accord of Formula section 0x0D: its header, its phase-A words and its phase-B or single-phase words. -/
structure Custom where
  hdr : Header
  opsA : List Op
  ops : List Op
deriving DecidableEq, Repr

/-! ### Operands and widths -/

/-- How many sources an opcode reads (Table 4-7). -/
def sources (opc : Nat) : Nat :=
  match opc with
  | 0x01 => 2 | 0x02 => 2 | 0x03 => 2 | 0x04 => 3 | 0x05 => 3 | 0x06 => 2 | 0x07 => 1 | 0x08 => 1
  | 0x09 => 2 | 0x0A => 2 | 0x0B => 1 | 0x0C => 1 | 0x0D => 1 | 0x0E => 2 | 0x0F => 3 | 0x10 => 3
  | 0x11 => 1 | 0x12 => 1 | 0x15 => 1
  | _ => 0

/-- The opcodes of Table 4-7; every other code is reserved (R96). -/
def opcListed (opc : Nat) : Bool := decide (1 ≤ opc) && decide (opc ≤ 0x15)

/-- Opcodes without a DST (SQACC, AMAX). -/
def noDst (opc : Nat) : Bool := decide (opc = 0x11) || decide (opc = 0x12)

/-- Opcodes that draw Sillage words (UNI, NRM, SRND). -/
def drawsWord (opc : Nat) : Bool := decide (opc = 0x13) || decide (opc = 0x14) || decide (opc = 0x15)

/-- The source operands that an opcode uses. -/
def Op.srcs (o : Op) : List Nat := [o.a, o.b, o.c].take (sources o.opc)

/-- The source operand fields that an opcode does not use, which must be zero (R95). -/
def Op.unused (o : Op) : List Nat := [o.a, o.b, o.c].drop (sources o.opc)

/-- A constant operand (Table 4-6). -/
def constCode (i : Nat) : Nat :=
  match i with
  | 0 => 0
  | 1 => 0x3F800000
  | 2 => 0xBF800000
  | 3 => 0x3F000000
  | 4 => 0x40000000
  | _ => 0x7F800000

/-- Whether an operand code is a source that Table 4-6 lists, given the input mask (R95, R98). -/
def srcListed (w64 : Bool) (inMask code : Nat) : Bool :=
  let i := code % 32
  match code / 32 with
  | 0 => decide (i < 16) && (!w64 || decide (i % 2 = 0))
  | 1 => true
  | 2 => decide (i ≤ 5) && bit inMask i
  | _ => decide (i ≤ 5)

/-- Whether a destination operand is one that Table 4-6 lists for the opcode. -/
def dstListed (o : Op) : Bool :=
  if noDst o.opc then decide (o.dst = 0)
  else if o.opc = 0x15 then
    decide (o.dst / 32 = 2) && (decide (o.dst % 32 ≤ 2) || (decide (4 ≤ o.dst % 32) && decide (o.dst % 32 ≤ 6)))
  else decide (o.dst < 16) && (!o.w64 || decide (o.dst % 2 = 0))

/-- What is known of a lane register while a program is checked: unwritten, binary32 or binary64 (R80, R82). -/
inductive RegW where
  | undef
  | w32
  | w64
deriving DecidableEq, Repr

/-- The lane registers after a write: a binary64 value takes the pair, and a binary32 write into half of a pair ends the pair
(Table 4-1; log entry 14). -/
def writeWidth (ws : List RegW) (w64 : Bool) (i : Nat) : List RegW :=
  if w64 then (ws.set i .w64).set (i + 1) .undef
  else
    let pair := i - i % 2
    let ws := if ws.getD pair .undef = .w64 then ws.set pair .undef else ws
    ws.set i .w32

/-- The width that a stream decoder delivers (R82): binary64 for format 0x01, else binary32. -/
def srcWidthOk (fmts : Nat → Nat) (ws : List RegW) (w64 : Bool) (code : Nat) : Bool :=
  let i := code % 32
  match code / 32 with
  | 0 =>
    match ws.getD i .undef with
    | .undef => false
    | .w32 => true
    | .w64 => w64
  | 2 => w64 || decide (fmts i ≠ 0x01)
  | _ => true

/-- Whether one micro-op keeps the rules of R80, R82 and R95 to R98, and the registers after it. -/
def checkOp (fmts : Nat → Nat) (inMask : Nat) (ws : List RegW) (o : Op) : Bool × List RegW :=
  let ok :=
    opcListed o.opc && o.unused.all (fun x => decide (x = 0)) &&
    o.srcs.all (fun x => srcListed o.w64 inMask x && srcWidthOk fmts ws o.w64 x) && dstListed o &&
    (if o.opc = 0x0E then decide (o.sub ≤ 3) else if o.opc = 0x11 then decide (o.sub ≤ 1) else decide (o.sub = 0)) &&
    (if drawsWord o.opc then true else if o.opc = 0x12 then decide (o.imm < 256) else decide (o.imm = 0)) &&
    !bit o.omask 3 && (decide (o.omask = 0) || !(noDst o.opc || decide (o.opc = 0x15))) &&
    (!(decide (o.opc = 0x13) || decide (o.opc = 0x14)) || !o.w64)
  (ok, if noDst o.opc || decide (o.opc = 0x15) then ws else writeWidth ws o.w64 o.dst)

/-- How often a program writes an output stream (R92). -/
def writesOf (ops : List Op) (i : Nat) : Nat :=
  (ops.filter (fun o => bit o.omask i || (decide (o.opc = 0x15) && decide (o.dst = 64 + i)))).length

/-- Whether a program (one phase) is one that admission accepts: every micro-op legal, LAST on the last one only, every stream
of the output mask written once and no other (R92, R94 to R99, R231). -/
def checkProgram (fmts : Nat → Nat) (inMask outMask : Nat) (ops : List Op) : Bool :=
  let r := ops.foldl (fun acc o =>
    let c := checkOp fmts inMask acc.2 o
    (acc.1 && c.1, c.2)) (true, List.replicate 16 RegW.undef)
  r.1 && decide (1 ≤ ops.length) && decide (ops.length ≤ 48) &&
  (ops.zipIdx.all (fun oi => oi.1.last == decide (oi.2 + 1 = ops.length))) &&
  ((List.range 7).all (fun i => decide (writesOf ops i = if bit outMask i then 1 else 0))) &&
  decide ((ops.filter (fun o => drawsWord o.opc)).length ≤ 4)

/-! ### One element -/

/-- What the stream decoders and the scalar registers give one element. -/
structure ElemIn where
  streams : List (Nat × Lane)
  scalars : List Nat
deriving DecidableEq, Repr

/-- What one element's program did: the values it wrote to output streams (with the word of an SRND), its SQACC and AMAX
operands, and the exceptions it signalled. -/
structure ElemOut where
  outs : List (Nat × Lane × Option Nat) := []
  sq : List (Nat × Lane) := []
  amax : List (Nat × Lane) := []
  exc : Exc := {}
deriving DecidableEq, Repr

/-- Widen a lane value to binary64 exactly (R81, R82); a signalling NaN still signals (R57). -/
def toW64 (l : Lane) : Lane :=
  if l.w64 then l
  else if isNan (decode binary32 l.code) then
    ⟨true, l.code / 2 ^ 31 % 2 * 2 ^ 63 + 0x7FF * 2 ^ 52 + l.code % 2 ^ 23 * 2 ^ 29⟩
  else ⟨true, widen binary32 binary64 l.code⟩

/-- Read a source operand (Table 4-6). -/
def readSrc (inp : ElemIn) (regs : List Lane) (w64 : Bool) (code : Nat) : Lane :=
  let i := code % 32
  let v := match code / 32 with
    | 0 => regs.getD i (lane32 0)
    | 1 => lane32 (inp.scalars.getD i 0)
    | 2 => ((inp.streams.find? (fun s => s.1 = i)).map Prod.snd).getD (lane32 0)
    | _ => lane32 (constCode i)
  if w64 then toW64 v else v

/-- The all-ones predicate of a width (Table 3-3). -/
def predCode (w64 b : Bool) : Nat := if b then (if w64 then 2 ^ 64 - 1 else 2 ^ 32 - 1) else 0

/-- Whether a lane value is all ones in its own width: a predicate that holds (R96). -/
def allOnes (l : Lane) : Bool := decide (l.code = if l.w64 then 2 ^ 64 - 1 else 2 ^ 32 - 1)

/-- The result and the exceptions of a micro-op that computes a lane value (R55 to R58); `w` gives the Sillage word of a stream id. -/
def compute (w : Nat → Nat) (o : Op) (rd : Nat → Lane) (rdRaw : Nat → Lane) : Lane × Exc :=
  let f := if o.w64 then binary64 else binary32
  let rm := Rm.ofCode o.rm
  let ca := (rd o.a).code
  let cb := (rd o.b).code
  let cc := (rd o.c).code
  let va := decode f ca
  let vb := decode f cb
  let vc := decode f cc
  let inv (v : Val) : Exc := { invalid := decide (v = .nan true) }
  let r : Nat × Exc := match o.opc with
    | 0x01 => addV f rm va vb
    | 0x02 => addV f rm va (negV vb)
    | 0x03 => mulV f rm va vb
    | 0x04 => fmaV f rm va vb vc
    | 0x05 => fmaV f rm va vb (negV vc)
    | 0x06 => divV f rm va vb
    | 0x07 => sqrtV f rm va
    | 0x08 => rsqrtV f rm va
    | 0x09 => minMax f false ca cb
    | 0x0A => minMax f true ca cb
    | 0x0B => (if isNan va then f.nanCode else ca % 2 ^ f.magBits, {})
    | 0x0C => (if isNan va then f.nanCode else Nat.xor ca (2 ^ f.magBits), {})
    | 0x0D =>
      match va with
      | .nan _ => (f.nanCode, inv va)
      | .inf n => (widen binary32 f (if n then 0xBF800000 else 0x3F800000), {})
      | .fin n m _ => (if m = 0 then ca else widen binary32 f (if n then 0xBF800000 else 0x3F800000), {})
    | 0x0E =>
      let c := compareRel f o.sub ca cb
      (predCode o.w64 c.1, c.2)
    | 0x0F => (if allOnes (rdRaw o.a) then cb else cc, {})
    | 0x10 =>
      if isNan va then (f.nanCode, (inv va).or ((inv vb).or (inv vc)))
      else
        let t := minMax f true ca cb
        let u := minMax f false t.1 cc
        (u.1, t.2.or u.2)
    | 0x13 => (Sillage.uni (w o.imm), {})
    | _ => (Sillage.nrm (w o.imm), {})
  (⟨o.w64, r.1⟩, r.2)

/-- The output streams that a mask names, as a list. -/
def maskList (m : Nat) : List Nat := (List.range 7).filter (fun i => bit m i)

/-- One micro-op of one element (R94 to R98). SQACC, AMAX and OUTE signal no IEEE exception: whether the binary64 square and additions of
SQACC signal any that count for the element the manual leaves open (R56, R59; DESIGN CHOICE, log entry 122). -/
def stepOp (w : Nat → Nat) (inp : ElemIn) (s : List Lane × ElemOut) (o : Op) : List Lane × ElemOut :=
  let rd := readSrc inp s.1 o.w64
  match o.opc with
  | 0x11 => (s.1, { s.2 with sq := s.2.sq ++ [(o.sub, rd o.a)] })
  | 0x12 => (s.1, { s.2 with amax := s.2.amax ++ [(o.imm, rd o.a)] })
  | 0x15 => (s.1, { s.2 with outs := s.2.outs ++ [(o.dst % 32, rd o.a, some (w o.imm))] })
  | _ =>
    let r := compute w o rd (readSrc inp s.1 false)
    (s.1.set o.dst r.1,
      { s.2 with exc := s.2.exc.or r.2, outs := s.2.outs ++ (maskList o.omask).map (fun i => (i, r.1, none)) })

/-- One program over one element (R80, R97). -/
def runElem (w : Nat → Nat) (ops : List Op) (inp : ElemIn) : ElemOut :=
  (ops.foldl (stepOp w inp) (List.replicate 16 (lane32 0), {})).2

/-! ### SQACC, AMAX and counts -/

/-- A binary64 addition, to nearest (R59). -/
def add64 (a b : Nat) : Nat := (addV binary64 .nearestEven (decode binary64 a) (decode binary64 b)).1

/-- One level of the tree of R59. -/
def treeLevel : List Nat → List Nat
  | a :: b :: l => add64 a b :: treeLevel l
  | l => l

/-- tree(v, w) of R59 over a list of 2^k codes. -/
def tree : Nat → List Nat → Nat
  | 0, l => l.headD 0
  | k + 1, l => tree k (treeLevel l)

/-- The exponent of the least power of two at or above n. -/
def log2Ceil (n : Nat) : Nat := if n ≤ 1 then 0 else bitLen (n - 1)

/-- sq of R59: the square of an SQACC operand in binary64, rounded to nearest. -/
def sqOf (l : Lane) : Nat :=
  let v := decode binary64 (toW64 l).code
  (mulV binary64 .nearestEven v v).1

/-- The square that one element adds to accumulator q: +0 when no SQACC names it. -/
def elemSq (q : Nat) (e : ElemOut) : Nat :=
  match (e.sq.filter (fun p => p.1 = q)).map Prod.snd with
  | [] => 0
  | [l] => sqOf l
  | ls => (Config.manySqacc (ls.map (fun l => (toW64 l).code))).toNat

/-- grp of R59: the tree over one group of at most 256 elements, padded with +0. -/
def groupValue (q : Nat) (es : List ElemOut) : Nat :=
  tree 8 ((es.map (elemSq q)) ++ List.replicate (256 - es.length) 0)

/-- Q of R59 from the group values in index order. -/
def shardNorm (grps : List Nat) : Nat :=
  let k := log2Ceil grps.length
  tree k (grps ++ List.replicate (2 ^ k - grps.length) 0)

/-- The magnitude of a finite lane value as a binary64 code; none for a NaN or an infinity (R60). -/
def finiteMag (l : Lane) : Option Nat :=
  match l.val with
  | .fin _ _ _ => some ((toW64 l).code % 2 ^ 63)
  | _ => none

/-- Whether an SQACC or AMAX operand is a NaN or an infinity (NONFINITE_IN, Table 3-7). -/
def elemNonFinite (e : ElemOut) : Bool :=
  (e.sq.map Prod.snd ++ e.amax.map Prod.snd).any (fun l => (finiteMag l).isNone)

/-- The counts of Table 3-7, with the overflow exception that the record has no field for (R56, R78). -/
structure Counts where
  nan : Nat := 0
  overflow : Nat := 0
  saturated : Nat := 0
  flushed : Nat := 0
  zeroBlock : Nat := 0
  invalid : Nat := 0
  divzero : Nat := 0
  underflowEx : Nat := 0
  inexact : Nat := 0
  nonfiniteIn : Nat := 0
  overflowEx : Nat := 0
deriving DecidableEq, Repr

/-- Add two sets of counts; each stops at 0xFFFF_FFFF (R78). -/
def Counts.add (a b : Counts) : Counts :=
  { nan := satAdd 32 a.nan b.nan, overflow := satAdd 32 a.overflow b.overflow, saturated := satAdd 32 a.saturated b.saturated,
    flushed := satAdd 32 a.flushed b.flushed, zeroBlock := satAdd 32 a.zeroBlock b.zeroBlock,
    invalid := satAdd 32 a.invalid b.invalid, divzero := satAdd 32 a.divzero b.divzero,
    underflowEx := satAdd 32 a.underflowEx b.underflowEx, inexact := satAdd 32 a.inexact b.inexact,
    nonfiniteIn := satAdd 32 a.nonfiniteIn b.nonfiniteIn, overflowEx := satAdd 32 a.overflowEx b.overflowEx }

/-- The counts of a list of categories (R54). -/
def countCats (cs : List Cat) : Counts :=
  let n := fun (c : Cat) => (cs.filter (fun x => x = c)).length
  { nan := n .nan, overflow := n .overflow, saturated := n .saturated, flushed := n .flushed }

/-- The exception counts of a list of elements: each element once per exception (R56). -/
def countExc (es : List ElemOut) : Counts :=
  let n := fun (p : Exc → Bool) => (es.filter (fun e => p e.exc)).length
  { invalid := n Exc.invalid, divzero := n Exc.divzero, underflowEx := n Exc.underflow, inexact := n Exc.inexact,
    overflowEx := n Exc.overflow, nonfiniteIn := (es.filter elemNonFinite).length }

/-- Merge a group maximum into a list of group maxima (R60). -/
def addMax (ms : List (Nat × Nat)) (g m : Nat) : List (Nat × Nat) :=
  if ms.any (fun p => p.1 = g) then ms.map (fun p => if p.1 = g then (g, max p.2 m) else p) else ms ++ [(g, m)]

/-! ### The built-in Accords -/

def v (i : Nat) : Nat := i
def sc (i : Nat) : Nat := 32 + i
def sP : Nat := 64
def sM1 : Nat := 65
def sM2 : Nat := 66
def sG : Nat := 67
def sE : Nat := 69

/-- The OMASK of P and D, of M1, of M2, of E and D, of D, and of every stored stream (Tables 4-14 to 4-22). -/
def oPD : Nat := 0x41
def oM1 : Nat := 0x02
def oM2 : Nat := 0x04
def oED : Nat := 0x60
def oD : Nat := 0x40
def oAll : Nat := 0x77

def fmul (d a b : Nat) (o : Nat := 0) : Op := { opc := 0x03, dst := d, a := a, b := b, omask := o }
def fma (d a b c : Nat) (o : Nat := 0) : Op := { opc := 0x04, dst := d, a := a, b := b, c := c, omask := o }

/-- Tables 4-14 to 4-18: SGD with momentum, AdamW, Lion, EMA, normal and uniform initialisation, Decant copy, zero. -/
def opsSgd : List Op := [fmul 0 sG (sc 24), fma 0 sP (sc 10) 0, fma 1 sM1 (sc 11) 0 oM1, fma 2 1 (sc 7) sP oPD]

def opsAdamHead : List Op :=
  [fmul 0 sG (sc 24), fmul 1 sM1 (sc 0), fma 1 0 (sc 1) 1 oM1, fmul 2 sM2 (sc 2), fmul 3 0 0, fma 2 3 (sc 3) 2 oM2,
    fmul 4 2 (sc 5), { opc := 0x07, dst := 4, a := 4 }, { opc := 0x01, dst := 4, a := 4, b := sc 6 }]

def opsAdamW : List Op :=
  opsAdamHead ++ [{ opc := 0x06, dst := 5, a := 1, b := 4 }, fma 6 5 (sc 8) sP, fma 6 sP (sc 9) 6 oPD]

def opsLion : List Op :=
  [fmul 0 sG (sc 24), fmul 1 sM1 (sc 0), fma 1 0 (sc 1) 1, { opc := 0x0D, dst := 2, a := 1 }, fma 3 sP (sc 9) sP,
    fma 3 2 (sc 7) 3 oPD, fmul 4 sM1 (sc 2), fma 4 0 (sc 3) 4 oM1]

def opsEma : List Op := [fmul 0 sE (sc 12), fma 0 sP (sc 13) 0 oED]
def opsNormal : List Op := [{ opc := 0x14, dst := 0, imm := 1 }, fma 0 0 (sc 15) (sc 14) oPD]
def opsUniform : List Op := [{ opc := 0x13, dst := 0, imm := 2 }, fma 0 0 (sc 15) (sc 14) oPD]
def opsDecant : List Op := [fmul 0 sP 97 oD]
def opsZero : List Op := [{ opc := 0x01, dst := 0, a := 96, b := 96, omask := oAll }]

/-- Tables 4-19 and 4-20: LAMB. -/
def opsLambShared : List Op :=
  opsAdamHead ++ [fmul 5 1 (sc 4), { opc := 0x06, dst := 5, a := 5, b := 4 }, fma 5 sP (sc 10) 5]

def opsLambA : List Op :=
  opsLambShared.map (fun o => { o with omask := 0 }) ++
    [{ opc := 0x11, a := sP, sub := 0 }, { opc := 0x11, a := 5, sub := 1 }]

def opsLambB : List Op := opsLambShared ++ [fma 6 5 (sc 25) sP oPD]

/-- Table 4-21: phase A of global-norm clipping. -/
def opsClipA : List Op := [fmul 0 sG (sc 24), { opc := 0x11, a := 0, sub := 0 }]

/-- Mark the last micro-op (LAST). -/
def markLast (ops : List Op) : List Op :=
  ops.zipIdx.map (fun oi => { oi.1 with last := decide (oi.2 + 1 = ops.length) })

/-- Drop from every OMASK the streams that the shard's descriptors do not mark WR (R119). -/
def maskWr (wr : Nat) (ops : List Op) : List Op := ops.map (fun o => { o with omask := Nat.land o.omask wr })

/-- The single-phase or phase-B program of a built-in (Table 4-13). -/
def builtinOps (code : Nat) : List Op :=
  match code with
  | 0x01 => opsSgd
  | 0x02 => opsAdamW
  | 0x03 => opsLion
  | 0x04 => opsLambB
  | 0x05 => opsEma
  | 0x06 => opsNormal
  | 0x07 => opsUniform
  | 0x08 => opsDecant
  | 0x09 => opsZero
  | _ => []

/-- The phase-A program of a built-in: LAMB's, or the clipping program of a CLIP shard (R121). -/
def builtinOpsA (code : Nat) (clip : Bool) : List Op :=
  if code = 0x04 then opsLambA
  else if clip && (decide (code = 0x01) || decide (code = 0x02) || decide (code = 0x03)) then opsClipA
  else []

/-- The streams that a built-in reads and writes, as masks (Table 4-13). -/
def builtinIn (code : Nat) : Nat :=
  match code with
  | 0x01 => 0x0B
  | 0x02 => 0x0F
  | 0x03 => 0x0B
  | 0x04 => 0x0F
  | 0x05 => 0x21
  | 0x08 => 0x01
  | _ => 0

def builtinOut (code : Nat) : Nat :=
  match code with
  | 0x01 => 0x43
  | 0x02 => 0x47
  | 0x03 => 0x43
  | 0x04 => 0x47
  | 0x05 => 0x60
  | 0x06 => 0x41
  | 0x07 => 0x41
  | 0x08 => 0x40
  | 0x09 => 0x77
  | _ => 0

/-- The latency of a micro-op (Table 4-7). -/
def latency (o : Op) : Nat :=
  match o.opc with
  | 0x06 | 0x07 | 0x08 => if o.w64 then 24 else 12
  | 0x01 | 0x02 | 0x03 | 0x04 | 0x05 => if o.w64 then 8 else 4
  | 0x11 => 4
  | 0x13 => 6
  | 0x14 => 10
  | 0x15 => 3
  | _ => 1

/-- The depth of a program: 6 + Lc cycles (R101). -/
def depth (ops : List Op) : Nat :=
  let r := ops.foldl (fun (acc : List Nat × Nat) o =>
    let at0 := o.srcs.foldl (fun t x => if x < 16 then max t (acc.1.getD x 0) else t) 0
    let fin := at0 + latency o
    (if noDst o.opc || decide (o.opc = 0x15) then acc.1 else acc.1.set o.dst fin, max acc.2 fin))
    (List.replicate 16 0, 0)
  6 + r.2

/-- Cycles per element per lane (R100). -/
def rate (w64 : Bool) (n : Nat) : Nat := (if w64 then 4 else 1) * ceilDiv n 12

/-- Cycles of a pass over a stripe of t elements (R101). -/
def passCycles (w64 : Bool) (ops : List Op) (t : Nat) : Nat :=
  ceilDiv t 24 * rate w64 ops.length + depth ops

end Sys2Proof.Accord
end

