-- ==== Sys2Proof/Formula.lean ====
section
/-! DEFINITION. A Formula as data (06_formula_and_timing_contract.md): the header, the entries of the fourteen sections, and the
whole. Fields bear the manual's names; numbers are natural numbers unless the manual reads them in two's complement. -/

namespace Sys2Proof

/-- Formula header (Table 6-1). -/
structure FHeader where
  target : Nat := 0
  nfGuard : Bool := false
  spill : Bool := false
  atomizer : Bool := false
  nearFlacon : Bool := false
  spacing : Nat := 0
  blotCompl : Bool := false
  blotErr : Bool := false
  imageLen : Nat := 0
  aptBase : Nat := 0
  aptSize : Nat := 0
  blotBase : Nat := 0
  blotMib : Nat := 0
  stageBase : Nat := 0
  stageMib : Nat := 0
  nearBase : Nat := 0
  nearMib : Nat := 0
  flaconInterval : Nat := 0
  spillRate : Nat := 0
  spillLat : Nat := 0
  spillEa : Nat := 0
  epoch : Nat := 0
  members : Nat := 0
deriving DecidableEq, Repr

/-- Channel-mode timeline segment (Table 6-4). -/
structure Segment where
  chmask : Nat
  start : Nat
  length : Nat
  proc : Bool
deriving DecidableEq, Repr

/-- Refresh cadence (Table 6-5), also the derived cadence of R171. -/
structure Cadence where
  period : Nat
  offset : Nat
  spacing : Nat
deriving DecidableEq, Repr

/-- Background reservation (Table 6-6). -/
structure Reservation where
  kind : Nat
  chmask : Nat
  start : Nat
  length : Nat
  budget : Nat
deriving DecidableEq, Repr

/-- Still slot-list entry (Table 6-7). -/
structure SlotEntry where
  shard : Nat
  prefetch : Nat
  phase : Nat
  publish : Bool
deriving DecidableEq, Repr

/-- Shard table entry (Table 6-8). -/
structure ShardEntry where
  gei : Nat
  n : Nat
  owner : Nat
  accord : Nat
  clip : Bool
  wx : Bool
  wtrack : Bool
  pfmtBf16s : Bool
  spill : Bool
  fanin : Nat
  wexp : Int
  envGroup : Nat
  normGroup : Nat
  descFirst : Nat
  descCount : Nat
  readyOff : Nat
  pfx : Nat
  pfxLen : Nat
deriving DecidableEq, Repr

/-- Stream descriptor (Table 4-4). -/
structure Desc where
  stream : Nat
  fmt : Nat
  sat : Bool
  rd : Bool
  wr : Bool
  dbuf : Bool
  scaleGroup : Nat
  ebase0 : Nat
  sbase0 : Nat
  ebase1 : Nat
  sbase1 : Nat
deriving DecidableEq, Repr

/-- Window table entry (Table 5-2). -/
structure WinEntry where
  kind : Nat
  enable : Bool
  issued : Nat
  base : Nat
  firstShard : Nat
  lastShard : Nat
  localRanks : Nat
deriving DecidableEq, Repr

/-- Intake slot-plan entry (Table 6-9). -/
structure PlanEntry where
  shard : Nat
  openTick : Nat
  pages : Nat
deriving DecidableEq, Repr

/-- Norm-group entry (Table 6-10). -/
structure NormEntry where
  group : Nat
  clipping : Bool
  clipnorm : Nat
deriving DecidableEq, Repr

/-- Scalar constants record (Table 6-11). -/
structure Consts where
  b1 : Nat := 0
  b2 : Nat := 0
  eps : Nat := 0
  wd : Nat := 0
  mu : Nat := 0
  be : Nat := 0
  initA : Nat := 0
  initB : Nat := 0
  lrPeak : Nat := 0
  lrMin : Nat := 0
  tw : Nat := 0
  td : Nat := 0
  lrKind : Nat := 0
  lInit : Int := 0
  lMin : Int := 0
  lMax : Int := 0
  lDown : Nat := 0
  lUp : Nat := 0
  lGrow : Nat := 1
  wxH : Nat := 1
  wxM : Nat := 0
deriving DecidableEq, Repr

/-- Custom scalar entry (Table 6-12). -/
structure CustomScalar where
  reg : Nat
  kind : Nat
  value : Nat
deriving DecidableEq, Repr

/-- Scale-group entry (Table 6-13). -/
structure ScaleEntry where
  h : Nat
  margin : Int
  kInit : Int
  e5m2 : Bool
deriving DecidableEq, Repr

/-- Arrival envelope entry (Table 6-14). -/
structure EnvEntry where
  rate : Nat
  burst : Nat
  openTick : Nat
  closeTick : Nat
deriving DecidableEq, Repr

/-- Atomizer operand descriptor (Table 7-5). -/
structure AtmOperand where
  gei : Nat
  foot : Nat
  trows : Nat
  fmt : Nat
  layout : Nat
  slot : Nat
  strideK : Nat
  shard : Nat
deriving DecidableEq, Repr

/-- Atomizer command word (Table 7-7). -/
structure AtmCmd where
  cmd : Nat
  dst : Nat
  srcA : Nat
  srcB : Nat
  srcC : Nat
  bscal : Bool
  sat : Bool
  func : Nat
  sub : Nat
  fmtR : Nat
  fmtA : Nat
  fmtB : Nat
  scal : Nat
  opnd : Nat
  param : Nat
deriving DecidableEq, Repr

/-- Atomizer program: header (Table 7-9), operand descriptors and body. -/
structure AtmProgram where
  prog : Nat
  runOnSkip : Bool
  sillage : Bool
  chmask : Nat
  start : Nat
  after : Nat
  niter : Nat
  segiter : Nat
  streamBase : Nat
  operands : List AtmOperand
  body : List AtmCmd
deriving DecidableEq, Repr

/-- A Formula: its header, its digest (48 bytes as a big-endian number, so that byte 0 of the hash is the most significant), and
its sections. -/
structure Formula where
  hdr : FHeader := {}
  digest : Nat := 0
  timeline : List Segment := []
  cadence : Cadence := ⟨0, 0, 0⟩
  slotLists : List (List SlotEntry) := []
  shards : List ShardEntry := []
  descs : List Desc := []
  windows : List WinEntry := []
  plan : List PlanEntry := []
  norms : List NormEntry := []
  envs : List EnvEntry := []
  consts : Consts := {}
  customScalars : List CustomScalar := []
  reservations : List Reservation := []
  programs : List AtmProgram := []
  accords : List Accord.Custom := []
  scaleGroups : List ScaleEntry := []
deriving DecidableEq, Repr

end Sys2Proof
end

