-- ==== Sys2Proof/Machine/State.lean ====
section
/-! DEFINITION. The state of the block as plain data: what each chapter of the manual gives it, the queue of waiting commands, and
the state after power-on reset. -/

namespace Sys2Proof.Machine

/-! ### Time, resets and domains -/

/-- What the spec's Table 3-7 counts are (R78). -/
abbrev Counts := Accord.Counts

/-- Channel mode (R18): MEM, PROC, or a TRANSIT into one of them. -/
inductive Mode where
  | mem
  | proc
  | toProc
  | toMem
deriving DecidableEq, Repr

/-! ### Intake (chapter 5) -/

/-- Readiness word (Table 4-11). -/
structure Ready where
  version : Nat := 0
  stepLo : Nat := 0
  skipped : Bool := false
  poison : Bool := false
  frozen : Bool := false
  tscale : Nat := 0x7F
deriving DecidableEq, Repr

/-- A landing or EGRESS page that holds something: its place in the running page count of its window, the granules written
(32 bytes each, index rising), RETURNED when the first of them landed, and when each write landed that no header has claimed yet (R178). -/
structure Page where
  num : Nat
  gran : List (Nat × BitVec 256) := []
  ret0 : Nat := 0
  times : List Nat := []
deriving DecidableEq, Repr

/-- The header fields of a contribution (Table 5-4). -/
structure ContribHdr where
  magic : Nat
  version : Nat
  fmt : Nat
  shard : Nat
  step : Nat
  rank : Nat
  count : Nat
  scale : Nat
  pcrc : Nat
  rsv : Nat
  crcOk : Bool
deriving DecidableEq, Repr

/-- What the engine knows of a contribution or batch in its landing pages. -/
inductive LandState where
  | receiving
  | waiting
  | consumed
deriving DecidableEq, Repr

/-- A contribution or batch in its landing pages: first page (running count), span in pages, where it stands, and when its last byte
landed (R132). -/
structure Landed where
  first : Nat
  span : Nat
  st : LandState
  hdr : ContribHdr
  accepted : Bool := false
  last : Nat := 0
deriving DecidableEq, Repr

/-- One intake or egress window at run time (R127 to R130, R246). Page counts run on since admission; the words that the host
reads show them modulo 2^32 or 2^24. -/
structure Win where
  fenced : Bool := false
  begun : Nat := 0
  returned : Nat := 0
  consumed : Nat := 0
  landed : List Landed := []
  pages : List Page := []
  clearing : Bool := false
deriving DecidableEq, Repr

/-- A contribution chunk of at most 512 elements that waits in a slot's hold space (R139, R145): its rank, its chunk, its element
format, its scale (binary32 SCALE of a contribution, k of a BF16S chunk as an 8-bit code) and its element codes. -/
structure Held where
  rank : Nat
  chunk : Nat
  fmt : Nat
  scale : Nat
  codes : List Nat
deriving DecidableEq, Repr

/-- An open accumulation slot (R137 to R140). -/
structure Slot where
  step : Nat
  pages : Nat
  h : Nat
  k : Nat
  accepted : List (Nat × Nat) := []
  rcvd : List (Nat × Nat) := []
  empties : List Nat := []
  next : List Nat := []
  held : List Held := []
  acc : List Nat := []
  wx : List Int := []
  w : Int := 0
  eMax : Option Int := none
  poisoned : Bool := false
  counts : Counts := {}
  result : Option (List Nat) := none
deriving DecidableEq, Repr

/-- One shard at run time (badUntil: the last step for which a window fence since cleared poisons it): readiness word, intake step, slot,
window exponent and history (R141), phase-A group values and norms (R59, R120), phase-B entry (R122), the readiness VERSION that an image
holds (R285), the result kept for the step's digest (R291: step and binary32 codes), what the step in progress has reported, the
contributions accepted for the intake step (rank and PCRC, R135), and the chunks accepted for the steps whose slots have closed (step,
contributor and chunk, R146). -/
structure Shard where
  ready : Ready := {}
  intakeStep : Nat := 1
  slot : Option Slot := none
  w : Int := 0
  whist : List Int := []
  groups : List (Nat × Nat × Nat) := []
  norm : Option (Nat × Nat) := none
  entry : Option (List Nat) := none
  entryAt : Nat := 0
  imageVersion : Nat := 0
  lastByte : Nat := 0
  lastByteStep : Nat := 0
  envReported : Bool := false
  gKept : Option (Nat × List Nat) := none
  windowFence : Bool := false
  badUntil : Nat := 0
  taken : List (Nat × Nat) := []
  rcvdPast : List (Nat × Nat × Nat) := []
deriving DecidableEq, Repr

/-- The arrival book of an envelope group (R178, R189): the bytes that landed since the step's anchor by their times, in ascending time,
whether a byte of the step landed too early, the same for the next step, and the first reason that applied in the step before. -/
structure EnvBook where
  arrivals : List (Nat × Nat) := []
  early : Bool := false
  next : List (Nat × Nat) := []
  nextEarly : Bool := false
  before : Option Nat := none
deriving DecidableEq, Repr

/-! ### Stills (chapter 4) -/

/-- Prefetch state of a stripe (R108, R109). -/
inductive Prefetch where
  | idle
  | reading
  | clean
  | poisoned
  | streams
deriving DecidableEq, Repr

/-- One stripe of a pass on one logical Still: its prefetch, the operand buffer's plane bytes (stream, element bytes, scale
bytes), whether the reads were poisoned, and the blocks committed. -/
structure Stripe where
  still : Nat
  pre : Prefetch := .idle
  buffer : List (Nat × List Byte × List Byte) := []
  bad : Bool := false
  blocks : Nat := 0
deriving DecidableEq, Repr

/-- A pass in progress or in prefetch (R107 to R112), with the time of its last block commit and the G stream that was released to it. -/
structure Pass where
  shard : Nat
  phase : Nat
  step : Nat
  started : Bool := false
  late : Bool := false
  poisoned : Bool := false
  remapped : Bool := false
  commitAt : Option Nat := none
  counts : Counts := {}
  g : List Nat := []
  stripes : List Stripe := []
deriving DecidableEq, Repr

/-- Per-step scalar record (Table 4-9), with the binary64 values s7w and s24w of R122. -/
structure StepRecord where
  step : Nat
  updates : Nat
  regs : List Nat
  s7w : Nat
  s24w : Nat
deriving DecidableEq, Repr

/-- A scale group at run time (R76): k for the step in progress, the history (most recent first) and the step's maximum, both
binary64 magnitudes. -/
structure ScaleGroup where
  k : Int := 0
  hist : List Nat := []
  cur : Nat := 0
deriving DecidableEq, Repr

/-- The Still array: the map word's eight fields (Table 4-2), fenced Stills, the spare (R87), the position of
each logical Still in its slot list and the step it works on, passes, the two record buffers (R103), shards held at a Still
takeover, and the logical Stills whose last pass started late (R189). -/
structure Stills where
  map : List Nat := [0, 1, 2, 3, 4, 5, 6, 7]
  fenced : List Nat := []
  noCarrier : Bool := false
  spare : Nat := 8
  pos : List (Nat × Nat) := []
  passes : List Pass := []
  current : Option StepRecord := none
  nextRec : Option StepRecord := none
  takeover : List (Nat × Nat × Nat) := []
  lateK : List Nat := []
deriving DecidableEq, Repr

/-! ### Atomizers (chapter 7) -/

/-- A row latch of an Atomizer: 1 KiB as a little-endian number, and its poison bits, one per ECC word. -/
structure Latch where
  val : Nat := 0
  poison : Nat := 0
deriving DecidableEq, Repr

/-- One Atomizer: channel, pseudo-channel, pair, four latches, running maximum (binary32 magnitude, none before a finite value). -/
structure Atomizer where
  ch : Nat
  pc : Nat
  pair : Nat
  x : List Latch := [{}, {}, {}, {}]
  amax : Option Nat := none
deriving DecidableEq, Repr

/-- The counts of a half-set's segment, which its report carries (R220). -/
structure AtmCounts where
  nan : Nat := 0
  overflow : Nat := 0
  saturated : Nat := 0
  flushed : Nat := 0
  nonfiniteIn : Nat := 0
  corrected : Nat := 0
  poisonRead : Nat := 0
  poisonStored : Nat := 0
deriving DecidableEq, Repr

/-- A segment that runs on a channel (R211, R219): program, step and segment number, the commands each half-set has started (counted
over the segment) and completed, the report fields that each has delivered (as a mask), what each has counted, the nominal time of the
next start, and the operands through which a poisoned word was stored (R224). -/
structure AtmSegment where
  prog : Nat
  step : Nat
  seg : Nat
  goes : List Nat := [0, 0]
  dones : List Nat := [0, 0]
  rpts : List Nat := [0, 0]
  tally : List AtmCounts := [{}, {}]
  nominal : Nat := 0
  told : List Nat := []
deriving DecidableEq, Repr

/-- One beat of a channel's broadcast bus: the engine's outputs of Table 7-12, at their reset values when it is idle. -/
structure AtmBeat where
  kind : Nat := 0
  hset : Nat := 0
  bank : Nat := 0
  row : Nat := 0
  word : Nat := 0
  par : Nat := 0
deriving DecidableEq, Repr

/-- One channel's Atomizer side: token bucket and refills since admission (R216), the macro's key register (R236), fenced Atomizers
(pseudo-channel, pair) and whether the channel runs no program (R221), the running segment, the next segment of the program at hand, the
Atomizers, and the beats that the engine drove on the broadcast bus for its last command (R218): the bus is idle after them. -/
structure AtmChannel where
  bucket : Nat := 500
  refills : Nat := 0
  keyOk : Bool := false
  key : Nat := 0
  fenced : List (Nat × Nat) := []
  blocked : Bool := false
  seg : Option AtmSegment := none
  segIdx : Nat := 0
  units : List Atomizer := []
  bus : List AtmBeat := []
deriving DecidableEq, Repr

/-- What a program of the step has reported so far, over its channels (R220, R225): chDone
has the bit of each channel that has finished it, doneAt is when the last did. -/
structure AtmResult where
  prog : Nat
  step : Nat := 0
  counts : AtmCounts := {}
  amax : Option Nat := none
  late : Bool := false
  poison : Bool := false
  refused : Bool := false
  skipped : Bool := false
  chDone : Nat := 0
  doneAt : Nat := 0
  scalarCount : Counts := {}
deriving DecidableEq, Repr

/-! ### Fabric (chapter 9) -/

/-- A fabric packet: its 32-byte header as a 256-bit little-endian number, and its payload (Table 9-3). -/
abbrev Pkt := Packet

/-- Link states (Table 9-8, R260). -/
inductive LinkSt where
  | down
  | bringup
  | up
  | fenced
deriving DecidableEq, Repr

/-- A peer link (R253 to R262): state, sequence counters and credit books per lane, transmit queues, bring-up and heartbeat books. -/
structure Link where
  st : LinkSt := .down
  pinUp : Bool := false
  seqTx : List Nat := [0, 0, 0]
  seqRx : List Nat := [0, 0, 0]
  credits : List Nat := [0, 0, 0]
  owed : List Nat := [0, 0, 0]
  inBuf : List Nat := [0, 0, 0]
  granted : Bool := false
  queue : List (List Pkt) := [[], [], []]
  discovers : Nat := 0
  discoverAt : Nat := 0
  ackSent : Bool := false
  ackRcvd : Bool := false
  silent : Bool := false
  peer : Option Nat := none
  topo : Option (List Byte) := none
  lastTx : Nat := 0
  helloAt : Option Nat := none
  rxSince : Bool := false
  misses : Nat := 0
  checkAt : Nat := 0
  owedAt : Nat := 0
  topoAt : Nat := 0
  sent : List Pkt := []
  retrain : Bool := false
deriving DecidableEq, Repr

/-- Where a packet came from: a link, or a batch page of a CARRY window (window, page count). -/
inductive Via where
  | link (p : Nat)
  | carried (win page : Nat)
deriving DecidableEq, Repr

/-- A packet held for a later epoch (R252). -/
structure HeldPkt where
  pkt : Pkt
  via : Via
  since : Nat
deriving DecidableEq, Repr

/-- An open or waiting batch for one next hop (R245). -/
structure Batch where
  dst : Nat
  win : Nat
  since : Nat
  pkts : List Pkt
  closed : Bool := false
deriving DecidableEq, Repr

/-- Receive record of one source's batches (R247): HIGH and the accepted values behind it. -/
structure BseqRx where
  src : Nat
  high : Nat
  seen : List Nat
deriving DecidableEq, Repr

/-- A scalar round at this node (R270). -/
structure Round where
  kind : Nat
  step : Nat
  group : Nat
  own : Option (Nat × Nat) := none
  kids : List (Nat × Nat × Nat) := []
  poison : Bool := false
  up : Bool := false
  total : Option (Nat × Nat) := none
deriving DecidableEq, Repr

/-- The fabric state of the engine. -/
structure Fabric where
  epoch : Nat := 0
  assigned : Bool := false
  tray : Nat := 0xFFF
  chip : Nat := 7
  members : List Nat := []
  routes : List (BitVec 64) := List.replicate 64 0
  links : Vector Link 2 := Vector.replicate 2 {}
  fences : List Nat := []
  notices : List (Nat × Nat) := []
  held : List HeldPkt := []
  egrHeld : List HeldPkt := []
  batches : List Batch := []
  bseqTx : List (Nat × Nat) := []
  bseqRx : List BseqRx := []
  rounds : List Round := []
  lastTopo : List Byte := []
deriving DecidableEq, Repr

/-! ### Flacons, Blotter, egress (chapter 10) -/

/-- A piece of far image waiting for a page: image offset and bytes. -/
structure FarPiece where
  off : Nat
  bytes : List Byte
deriving DecidableEq, Repr

/-- An emission in progress (R276 to R279): the metadata frozen at the cut, what is still to capture (shard, stream, still), the
captured data by (shard, stream, still), pages in flight and keeper progress. -/
structure Emission where
  gen : Nat
  step : Nat
  header : List Byte
  nearHeader : List Byte
  toCapture : List (Nat × Nat × Nat)
  data : List (Nat × Nat × Nat × List Byte × List Byte)
  farDone : Bool := false
  farLast : Nat := 0
  near : Bool := false
  nearSent : Nat := 0
  nearAcked : Bool := false
  holdEnd : Nat := 0
  nearTime : Nat := 0
  farTime : Nat := 0
deriving DecidableEq, Repr

/-- The near region this engine keeps for its ward (R278, R281): generation, bytes written, DONE answered, whether the ward's header is
there, whether a byte lay beyond NEAR_MIB, NEAR_BASE of the Formula that the region belongs to, and data-map bytes that wait for the header
(group, NOFF, bytes). -/
structure Near where
  ward : Nat := 0
  gen : Nat := 0
  base : Nat := 0
  bytes : Nat := 0
  done : Bool := false
  header : Bool := false
  dropped : Bool := false
  wait : List (Nat × Nat × List Byte) := []
deriving DecidableEq, Repr

/-- What the images of one generation that an engine restores or adopts must have in common (R284): GEN, KEY, STEP, UPDATES, LOSS_EXP
and GOOD. -/
structure Restored where
  gen : Nat
  key : Nat
  step : Nat
  updates : Nat
  lossExp : Nat
  good : Nat
deriving DecidableEq, Repr

/-- The Blotter (R288): next RSEQ, drained point, the MC's buffer, the lost ranges that wait for an overrun record, the ranges of RSEQ
that never reached the ring, the point up to which records lie in the ring, and the ring of the last admitted Formula. -/
structure Blotter where
  base : Nat := 0
  mib : Nat := 0
  rseq : Nat := 0
  drained : Nat := 0
  buffer : List (Nat × List Byte) := []
  lost : List (Nat × Nat) := []
  gaps : List (Nat × Nat) := []
  inRing : Nat := 0
deriving DecidableEq, Repr

/-- A page that waits for the EGRESS window of stream pages: kind, GEN, STEP, OFFSET, SHARD, payload (Table 10-10). -/
structure OutPage where
  kind : Nat
  gen : Nat
  step : Nat
  off : Nat
  shard : Nat
  payload : List Byte
deriving DecidableEq, Repr

/-- Times of the step record (Table 10-8) and its flags (Table 10-7). -/
structure StepTimes where
  p0 : Nat := 0
  p1 : Nat := 0
  p2 : Nat := 0
  p3 : Nat := 0
  p4 : Nat := 0
  p5 : Nat := 0
  p6 : Nat := 0
  skipped : Bool := false
  cut : Bool := false
  short : Bool := false
  env : Bool := false
deriving DecidableEq, Repr

/-- Selections of DIGEST_SELECT and GRAD_CAPTURE (R291, R293) are stored as the request gave them. -/
structure Selection where
  first : Nat := 0
  last : Nat := 0
  every : Nat := 0
  mode : Nat := 0
  shardFirst : Nat := 0
  shardLast : Nat := 0
  active : Bool := false
deriving DecidableEq, Repr

/-- What this engine knows of one step in flight: its own non-finite count and whether it went up (R151), whether the decision is
made and how (R152), the run's u, loss exponent and good count after it, and its cut round (R272, R273): contributed, with which
value, returned; whether a gradient capture of the step was missed (R293, R395); its anchor, and when its cut round returned (R273). -/
structure StepSt where
  step : Nat
  u : Nat := 0
  l : Int := 0
  good : Nat := 0
  nf : Nat := 0
  nfSent : Bool := false
  decided : Bool := false
  skipped : Bool := false
  cutSent : Bool := false
  cutValue : Nat := 0
  cutDone : Bool := false
  captureMiss : Bool := false
  decidedAt : Nat := 0
  anchorAt : Nat := 0
  cutAt : Nat := 0
deriving DecidableEq, Repr

/-- EVAL window state (R295). -/
inductive EvalSt where
  | closed
  | requested (ema : Bool)
  | decanting
  | opened
  | closing
deriving DecidableEq, Repr

/-- The run (R134, R153, R154, R226, R272 to R274): cutNext is the step that a short cut round made a cut step, 0 when none;
stopHold: a RUN_STOP has ended the run after this step, and RUN_STOPPED waits for the last channel to reach MEM (R341); boundedAt: when the
bounded part of the timeline of the last anchored step ends, openFrom: from when that step's own anchor could be taken (R161). -/
structure Run where
  key : Nat := 0
  setUp : Bool := false
  nextStep : Nat := 1
  lastStep : Nat := 0
  anchorTime : Nat := 0
  boundedAt : Nat := 0
  openFrom : Nat := 0
  anchored : Bool := false
  stepBegin : Bool := false
  arrived : Bool := false
  updates : Nat := 0
  lossExp : Int := 0
  good : Nat := 0
  gen : Nat := 0
  steps : List StepSt := []
  cutNext : Nat := 0
  status0 : Nat := 0
  status1 : Nat := 0
  stopping : Bool := false
  stopHold : Option Nat := none
  eval : EvalSt := .closed
  times : StepTimes := {}
deriving DecidableEq, Repr

/-! ### Management port (chapter 12) -/

/-- A queued event (Table 12-12) as a 256-bit number. -/
abbrev Event := BitVec 256

/-- One mailbox (Tables 12-7, 12-8, R333 to R337): buffers, flags, session, sequence. The MC keeps token, LAST, the stored
response and the expiry timer in its settings record (R374). -/
structure Mailbox where
  req : BitVec 512 := 0
  taken : BitVec 512 := 0
  rsp : BitVec 512 := 0
  busy : Bool := false
  rspValid : Bool := false
  held : Bool := false
  session : Option (BitVec 32) := none
  prevToken : BitVec 32 := 0
  last : BitVec 16 := 0
  stored : BitVec 512 := 0
  timer : Nat := 0
  heldSince : Nat := 0
deriving DecidableEq, Repr

/-- The registers of PD-AON (Table 12-1) that are not computed from other state, and what the last access answered. -/
structure Smp where
  level : Nat := 0
  req : Nat := 1
  pendingLevel : Bool := false
  fail : Nat := 0
  fellX : Bool := false
  fuseDisabled : Bool := false
  pos : BitVec 3 := 0
  timeHi : Word32 := 0
  temp : Byte := 0
  tempKnown : Bool := false
  irqMask : BitVec 7 := 0
  events : List Event := []
  dropped : Nat := 0
  stageBase : BitVec 20 := 0
  stageMib : BitVec 21 := 0
  rdata : Word32 := 0
  err : Bool := false
  mbx : Vector Mailbox 4 := Vector.replicate 4 {}
deriving DecidableEq, Repr

/-- States of a long operation (Table 12-14). -/
inductive OpSt where
  | running
  | waiting
  | suspending
  | suspended
  | waitInput
  | done
  | failed
  | cancelled
deriving DecidableEq, Repr

/-- A long operation (Tables 12-14 to 12-16): handle, command code, state, status, detail, progress, result bits [511:320] as a
number, the parameters of its request, whether a cancel waits for the suspend point, whether its last cancellable point is past,
and what it has taken in: a far image by RESTORE_PIECE (R341), or staging bytes by loans (R360). -/
structure LongOp where
  handle : Nat
  code : Nat
  st : OpSt
  status : Nat := 0
  detail : Nat := 0
  done : Nat := 0
  total : Nat := 0
  result : Nat := 0
  par : Nat := 0
  cancelling : Bool := false
  committedPoint : Bool := false
  resumeWaiting : Bool := false
  input : List Byte := []
  near : List (Nat × Nat × List Byte) := []
deriving DecidableEq, Repr

/-! ### Power, clocks, channels (chapters 1 and 11) -/

/-- A power domain's handshake (R321): request, acknowledge, present after lock, when the request last rose or fell, whether
PWR_ACK_SLOW was posted for it, whether its loss waits for the acknowledge to fall. -/
structure Dom where
  req : Bool := false
  ack : Bool := false
  present : Bool := false
  since : Nat := 0
  slow : Bool := false
  lost : Bool := false
deriving DecidableEq, Repr

/-- One channel (R18 to R22, R162 to R171, R299 to R304): mode and since when, the host's recorded mode registers, core rows that the host
opened and aperture rows (pseudo-channel, bank, row), aperture rows whose claim has ended (R302), fences, timeline position, refresh books
with the end of the last all-bank refresh of R171, and patrol scrub. -/
structure Channel where
  mode : Mode := .mem
  since : Nat := 0
  mrs : List (Nat × Nat) := []
  rows : List (Nat × Nat × Nat) := []
  marks : List (Nat × Nat × Nat) := []
  stale : List (Nat × Nat × Nat) := []
  fenced : Bool := false
  fencedByFuse : Bool := false
  segIdx : Nat := 0
  catchup : Nat := 0
  refreshed : List (Nat × Nat × Nat) := []
  scrubStart : Nat := 0
  scrubPosts : Nat := 0
  bank1 : Bool := false
  bankPending : Bool := false
  refreshes : Nat := 0
  refabEnd : Nat := 0
deriving DecidableEq, Repr

/-- The outputs of the last command at the channel ports: its channel, what reached CCP (kind as Table 11-3, or 16 + column kind; none when
suppressed), the read beat and its severity, and the write beat that reached CCP with its mask and poison flag. -/
structure PortOut where
  ch : Nat := 0
  ccp : Option (Nat × Nat × Nat × Nat × Nat) := none
  rdata : BitVec 256 := 0
  rvalid : Bool := false
  rsev : Nat := 0
  wd : Option (BitVec 256 × Word32 × Bool) := none
deriving DecidableEq, Repr

/-! ### Fuses and firmware (chapter 13) -/

/-- Stack discovery (R359, Table 13-6) with Table 7-1's record. -/
structure Discovery where
  valid : Bool := false
  rowbits : Nat := 0
  rows : Nat := 0
  nPost : Nat := 0
  aStack : Bool := false
  variant : Bool := false
  isMatch : Bool := false
  pairs : Nat := 0
  atmMask : Nat := 0
  atmCount : Nat := 0
  eccWord : Nat := 0
  tRc : Nat := 0
  tFaw : Nat := 0
  tRfcPb : Nat := 0
  tRfcAb : Nat := 0
  tRefi : Nat := 0
  tRtw : Nat := 0
  tWtr : Nat := 0
  tHact : Nat := 0
  tHpre : Nat := 0
  tHwr : Nat := 0
  rl : Option Nat := none
  wl : Option Nat := none
deriving DecidableEq, Repr

/-- What the ROM start latched (R358): key-slot hashes (none: unusable), device secret, count c, lock bits, boot values of the
words (none: no value), the marginal map, the band of the last full read, and whether a re-read waits for the Fuse Port. -/
structure Fuses where
  read : Bool := false
  key0 : Option Nat := none
  key1 : Option Nat := none
  secret : Option Nat := none
  arb : Nat := 0
  thermo : Nat := 0
  lock : Nat := 0
  boot : List (Option Word32) := []
  marginal : Nat := 0
  stillOff : Nat := 0
  chanOff : Nat := 0
  firstTemp : Bool := false
  band : Nat := 0
  due : Bool := false
deriving DecidableEq, Repr

/-- A full three-margin pass over the fuse words (R355), or the verification of one programmed bit (R312): the next word and
margin, reads so far of the word, tries of the read in progress, and the bit under verification. -/
structure FusePass where
  word : Nat
  margin : Nat
  got : List (Option Word32) := []
  tries : Nat := 0
  verify : Option Nat := none
deriving DecidableEq, Repr

/-- FW_COMMIT in progress (R373): the bits still to burn (word, bit), whether the supply is present, the mailbox that waits. -/
structure Commit where
  bits : List (Nat × Nat)
  mbx : Nat
  since : Nat
  burning : Bool := false
  revoked : Nat := 0xFF
deriving DecidableEq, Repr

/-- Code slot states (Table 13-11). -/
inductive SlotSt where
  | empty
  | loaded
  | probation
  | active
  | committed
  | superseded
  | invalid
deriving DecidableEq, Repr

/-- One image of a slot: kind, version, interface, bytes, and the manifest block of the bundle it came from (R364). -/
structure Image where
  kind : Nat
  version : Nat
  iface : Nat
  bytes : List Byte
  manifest : List Byte
deriving DecidableEq, Repr

/-- A code slot (R364): state, the bytes of its latest bundle, its images (piecewise mode carries some over), fenced or not. -/
structure CodeSlot where
  st : SlotSt := .empty
  bundle : List Byte := []
  images : List Image := []
  fenced : Bool := false
deriving DecidableEq, Repr

/-- Where a hot handover stands (R370, R371). -/
inductive Handover where
  | none
  | booting (slot : Fin 2)
  | ready (slot : Fin 2)
  | held (slot : Fin 2)
deriving DecidableEq, Repr

/-- The MC's firmware life (R363 to R375): ROM mode, active core, slots, which slot runs, what the standby core holds, pending
staged bundle, handover, probation, the fallback slot with the state that it had, boot fetch, core fences, whether the
image that runs was booted with no fallback by RECOVERY_LOAD or from a staged bundle (R366, R375), and the microcode banks of the Still
Dispatchers (R369). -/
structure Firmware where
  romMode : Bool := false
  core : Fin 2 := 0
  running : Option (Fin 2) := none
  standby : Option (Fin 2) := none
  standbyBoot : Option (Fin 2) := none
  slots : Vector CodeSlot 2 := Vector.replicate 2 {}
  pendingStage : Option (Nat × Nat) := none
  handover : Handover := .none
  probationEnd : Nat := 0
  fallback : Option (Fin 2) := none
  fallbackSt : SlotSt := .active
  fetch : List Byte := []
  fetching : Bool := false
  fetchFail : Option Nat := none
  coreFenced : Vector Bool 2 := Vector.replicate 2 false
  dualSettings : Bool := false
  soloBoot : Bool := false
  commit : Option Commit := none
  heldQueue : List Nat := []
  stage : List (Nat × List Nat) := []
  restart : Option RomStart := none
  warmWait : Bool := false
  levelHold : Nat := 0
  bankArmed : Bool := false
  stillBank1 : List Nat := []
  stillBankPending : List Nat := []
deriving DecidableEq, Repr

/-- A loan of the channels (R360): open or not, when the last one ended. -/
structure Loan where
  isOpen : Bool := false
  transferred : Bool := false
  lastEnd : Nat := 0
deriving DecidableEq, Repr

/-- The entropy source (R238 to R240). -/
structure Entropy where
  ready : Bool := false
  failures : Nat := 0
  fenced : Bool := false
  wanted : Bool := false
deriving DecidableEq, Repr

/-! ### Error log and counters (chapter 14) -/

/-- The book of occurrences of one CODE, UNIT and INDEX (R379): last time, and occurrences since the last record. -/
structure Burst where
  code : Nat
  unit : Nat
  index : Nat
  last : Nat
  prior : Nat
deriving DecidableEq, Repr

/-- The error log (R388) and the burst books. Records are 64 bytes as 512-bit numbers. -/
structure ErrLog where
  first : List (BitVec 512) := []
  latest : List (BitVec 512) := []
  dropped : Nat := 0
  rnum : Nat := 0
  bursts : List Burst := []
deriving DecidableEq, Repr

/-- One counter that is not 0: set, index, number, value, SAT flag (Table 14-5). Counters not listed read 0 with SAT 0. -/
structure Counter where
  set : Nat
  index : Nat
  num : Nat
  value : Nat
  sat : Bool
deriving DecidableEq, Repr

/-- Why the machine stops with a fault. -/
inductive Fault where
  /-- Raised by a command on a channel, link or Still that the configuration does not have (Table 0-2): safe, the port does not exist. -/
  | noSuchUnit
deriving DecidableEq, Repr

/-- Why a command has no meaning. -/
inductive Refusal where
  /-- Raised by an arm of exec whose command is not modelled yet: safe. -/
  | notModelled (mnemonic : String)
  /-- Raised when a port of the block is used while a wrapper instruction is in effect for which the manual makes no promise (R5, R313):
  safe. -/
  | noPromise
deriving DecidableEq, Repr

/-- The state of the block: everything the manual gives it, and the queue of waiting commands. -/
structure State where
  cfg : Cfg
  pending : List Instr
  free : Nat
  time : Nat
  porst : Bool
  wrst : Bool
  wir : Nat
  fall : Bool
  testPending : Nat
  smp : Smp
  ops : List LongOp
  retained : List LongOp
  nextHandle : Nat
  doms : Vector Dom 13
  clocks : List Nat
  chans : Vector Channel 32
  out : PortOut
  dram : List Host.Cell
  poisonWords : List Nat
  disc : Discovery
  fuses : Fuses
  fusePass : Option FusePass
  fw : Firmware
  loan : Loan
  entropy : Entropy
  keyPresent : Bool
  keyFenced : Bool
  log : ErrLog
  counters : List Counter
  formula : Option Formula
  bounds : List Nat
  waits : List (Nat × Nat)
  latest : List (Nat × Nat)
  admitTime : Nat
  anchorBlocked : Bool
  run : Run
  cursors : List (Nat × List Byte)
  digestSel : Selection
  captureSel : Selection
  shards : List Shard
  wins : List Win
  envs : List EnvBook
  pagesFenced : List Nat
  stills : Stills
  scales : List ScaleGroup
  atm : Vector AtmChannel 32
  atmResults : List AtmResult
  fabric : Fabric
  emission : Option Emission
  near : Near
  restored : Option Restored
  blotter : Blotter
  outPages : List OutPage
deriving DecidableEq, Repr

/-- The state right after power-on reset: PORST_N at 0, nothing powered but PD-AON, every register of PD-AON at its reset value
(R319, Tables 12-3 to 12-7), empty queue. Log entry 1 names the values that the manual leaves open. -/
def State.reset : State :=
  { cfg := .izL
    pending := []
    free := 0
    time := 0
    porst := true
    wrst := false
    wir := 0
    fall := false
    testPending := 0
    smp := {}
    ops := []
    retained := []
    nextHandle := 1
    doms := Vector.replicate 13 {}
    clocks := List.replicate 32 1600000
    chans := Vector.replicate 32 {}
    out := {}
    dram := []
    poisonWords := []
    disc := {}
    fuses := {}
    fusePass := none
    fw := {}
    loan := {}
    entropy := {}
    keyPresent := false
    keyFenced := false
    log := {}
    counters := []
    formula := none
    bounds := []
    waits := []
    latest := []
    admitTime := 0
    anchorBlocked := false
    run := {}
    cursors := []
    digestSel := {}
    captureSel := {}
    shards := []
    wins := []
    envs := []
    pagesFenced := []
    stills := {}
    scales := []
    atm := Vector.replicate 32 {}
    atmResults := []
    fabric := {}
    emission := none
    near := {}
    restored := none
    blotter := {}
    outPages := [] }

end Sys2Proof.Machine
end

