-- ==== Sys2Proof/Machine/Ops.lean ====
section
/-! DEFINITION. The named operations over the state that the meanings share: the shape of a meaning, the configuration's counts, stack
memory and its addresses, free values, counters, events, error records and Blotter records. -/

namespace Sys2Proof.Machine

open Sys2Proof.Bits

/-- What a meaning answers. -/
abbrev Res := Host.Outcome State Fault Refusal

/-! ### The shape of a meaning -/

/-- Whether a test instruction of the wrapper is in effect (R313). -/
def State.testing (s : State) : Bool := decide (s.wir = 1) || decide (s.wir = 3) || decide (s.wir = 5)

/-- What no command but the rows of PORST_N changes: the configuration, the queue of waiting commands, PORST_N itself. -/
def State.hold (s t : State) : State := { t with cfg := s.cfg, pending := s.pending, porst := s.porst }

/-- A command at a port that works whatever PORST_N is: the bypass (R319), while the manual's statements hold (R313). -/
def port (s : State) (f : State → State) : Res := if s.testing then .refused .noPromise else .next (s.hold (f s))

/-- A command that the engine takes while the manual's statements hold (R313). While PORST_N is 0 the units are in reset, and nothing
happens (R319). -/
def act (s : State) (f : State → State) : Res :=
  if s.testing then .refused .noPromise else if s.porst then .next s else .next (s.hold (f s))

/-- The number of channels (Table 0-2). -/
def channels (c : Cfg) : Nat := match c with | .izL => 32 | .izS => 16

/-- Physical Stills (Table 0-2). -/
def physicals (c : Cfg) : Nat := match c with | .izL => 9 | .izS => 5

/-- Logical Stills, Ls (Table 0-2). -/
def logicals (c : Cfg) : Nat := match c with | .izL => 8 | .izS => 4

/-- Peer links (Table 0-2). -/
def links (c : Cfg) : Nat := match c with | .izL => 2 | .izS => 1

/-- Intake pages of 64 KiB (Table 0-2, R125, R137). -/
def intakePages (c : Cfg) : Nat := match c with | .izL => 768 | .izS => 384

/-- Slots that exist (R137). -/
def slotLimit (c : Cfg) : Nat := match c with | .izL => 512 | .izS => 256

/-- g of R159. -/
def gBits (c : Cfg) : Nat := match c with | .izL => 3 | .izS => 2

/-- A command on channel ch. -/
def onChan (s : State) (ch : Nat) (f : State → State) : Res :=
  if channels s.cfg ≤ ch then .fault .noSuchUnit else act s f

/-- A command at the port of channel ch. -/
def onPort (s : State) (ch : Nat) (f : State → State) : Res :=
  if channels s.cfg ≤ ch then .fault .noSuchUnit else port s f

/-- A command on peer link p. -/
def onLink (s : State) (p : Nat) (f : State → State) : Res :=
  if links s.cfg ≤ p then .fault .noSuchUnit else act s f

/-- A command on logical Still k. -/
def onLogical (s : State) (k : Nat) (f : State → State) : Res :=
  if logicals s.cfg ≤ k then .fault .noSuchUnit else act s f

/-- A command on physical Still i. -/
def onPhysical (s : State) (i : Nat) (f : State → State) : Res :=
  if physicals s.cfg ≤ i then .fault .noSuchUnit else act s f

/-- The effect of a command when its precondition holds; otherwise nothing happens (log entry 5). -/
def when (p : Bool) (f : State → State) (s : State) : State := if p then f s else s

/-! ### Free values -/

/-- Advance the counter of free values. -/
def State.tickFree (s : State) : State := { s with free := s.free + 1 }

/-! ### Stack memory -/

/-- The byte at a stack address; an address that nothing has written reads 0 (log entry 2). -/
def readMem : List Host.Cell → Nat → Byte
  | [], _ => 0
  | (k, b) :: m, a => if a = k then b else if a < k then 0 else readMem m a

/-- Write a byte and keep the canonical form: addresses rising, no entry 0. -/
def writeMem : List Host.Cell → Nat → Byte → List Host.Cell
  | [], a, v => if v = 0 then [] else [(a, v)]
  | (k, b) :: m, a, v =>
    if a = k then (if v = 0 then m else (k, v) :: m)
    else if a < k then (if v = 0 then (k, b) :: m else (a, v) :: (k, b) :: m)
    else (k, b) :: writeMem m a v

/-- Write consecutive bytes. -/
def writeMemList : List Host.Cell → Nat → List Byte → List Host.Cell
  | m, _, [] => m
  | m, a, v :: vs => writeMemList (writeMem m a v) (a + 1) vs

/-- The canonical form of stack memory: addresses strictly rising, no entry 0. -/
def memSorted : List Host.Cell → Bool
  | [] => true
  | [(_, v)] => decide (v ≠ 0)
  | (a, v) :: (b, w) :: m => decide (v ≠ 0) && decide (a < b) && memSorted ((b, w) :: m)

/-- Memory.wf of the design: the canonical form holds. -/
abbrev Memory.wf (m : List Host.Cell) : Prop := memSorted m = true

/-- The byte of DRAM at a stack address. -/
def State.dramByte (s : State) (a : Nat) : Byte := readMem s.dram a

/-- n bytes of DRAM from a stack address. -/
def State.dramBytes (s : State) (a n : Nat) : List Byte := (List.range n).map (fun i => s.dramByte (a + i))

/-- Write bytes to DRAM from a stack address. -/
def State.writeDram (s : State) (a : Nat) (bs : List Byte) : State := { s with dram := writeMemList s.dram a bs }

/-- The stack address of channel-group address a of group k (R159). -/
def stackAddr (c : Cfg) (k a : Nat) : Nat := a % 256 + k * 256 + a / 256 * 2 ^ (8 + gBits c)

/-- The channel group of a stack address (R159). -/
def groupOf (c : Cfg) (x : Nat) : Nat := x / 256 % 2 ^ gBits c

/-- The channel-group address of a stack address (R159). -/
def cgAddr (c : Cfg) (x : Nat) : Nat := x % 256 + x / 2 ^ (8 + gBits c) * 256

/-- The channel-group address of byte 0 of a column access (Table 6-2): pseudo-channel, channel of the group, column, bank, row. -/
def cgOf (pc ch col bank row : Nat) : Nat := pc * 32 + ch * 64 + col * 256 + bank * 2 ^ 13 + row * 2 ^ 18

/-- The stack address of byte 0 of a column access of channel ch. -/
def columnAddr (c : Cfg) (ch pc bank row col : Nat) : Nat := stackAddr c (ch / 4) (cgOf pc (ch % 4) col bank row)

/-- The channel that a channel-group address of group k names (Table 6-2). -/
def chanOf (k a : Nat) : Nat := 4 * k + a / 64 % 4

/-- Bytes of a plane from a channel-group address of group k. -/
def State.planeBytes (s : State) (k a n : Nat) : List Byte :=
  (List.range n).map (fun i => s.dramByte (stackAddr s.cfg k (a + i)))

/-- Write plane bytes from a channel-group address of group k. -/
def writePlaneList (c : Cfg) (k : Nat) : List Host.Cell → Nat → List Byte → List Host.Cell
  | m, _, [] => m
  | m, a, v :: vs => writePlaneList c k (writeMem m (stackAddr c k a) v) (a + 1) vs

def State.writePlane (s : State) (k a : Nat) (bs : List Byte) : State :=
  { s with dram := writePlaneList s.cfg k s.dram a bs }

/-- The bytes of the stack that discovery found (R359). -/
def State.capacity (s : State) : Nat := channels s.cfg * 2 * 32 * s.disc.rows * 1024

/-- Bytes of one ECC word (ECC_WORD in units of 32 bits, Table 7-1). -/
def State.eccBytes (s : State) : Nat := max 1 (s.disc.eccWord * 4)

/-- Whether a channel-group address of group k lies in a word that carries the poison code (R222). -/
def State.wordPoisoned (s : State) (k a : Nat) : Bool :=
  s.poisonWords.any (fun w => decide (w = stackAddr s.cfg k (a / s.eccBytes * s.eccBytes)))

/-- Clear the poison code of words that are written whole, and set it on others (R222). -/
def State.setPoison (s : State) (k a : Nat) (p : Bool) : State :=
  let w := stackAddr s.cfg k (a / s.eccBytes * s.eccBytes)
  { s with poisonWords := if p then (if s.poisonWords.contains w then s.poisonWords else w :: s.poisonWords)
                          else s.poisonWords.filter (fun x => decide (x ≠ w)) }

/-! ### Counters (R390 to R392) -/

/-- The width of a set's counters (Table 14-5). -/
def counterWidth (set : Nat) : Nat := if set = 1 then 64 else 32

/-- The value and SAT flag of a counter. -/
def findCounter (cs : List Counter) (set index num : Nat) : Nat × Bool :=
  match cs.find? (fun c => decide (c.set = set) && decide (c.index = index) && decide (c.num = num)) with
  | some c => (c.value, c.sat)
  | none => (0, false)

/-- Set a counter; one at 0 without SAT is not listed. -/
def putCounter (cs : List Counter) (set index num value : Nat) (sat : Bool) : List Counter :=
  let rest := cs.filter (fun c => !(decide (c.set = set) && decide (c.index = index) && decide (c.num = num)))
  if value = 0 ∧ sat = false then rest else rest ++ [⟨set, index, num, value, sat⟩]

/-- Add to a counter, which stops at its maximum and then keeps SAT (R392). -/
def State.count (s : State) (set index num n : Nat) : State :=
  let c := findCounter s.counters set index num
  let w := counterWidth set
  { s with counters := putCounter s.counters set index num (satAdd w c.1 n) (c.2 || decide (2 ^ w - 1 < c.1 + n)) }

/-- Set a counter that is a state rather than a count (TIMING, debts). -/
def State.setCounter (s : State) (set index num v : Nat) : State :=
  let c := findCounter s.counters set index num
  let w := counterWidth set
  { s with counters := putCounter s.counters set index num (min v (2 ^ w - 1)) (c.2 || decide (2 ^ w - 1 < v)) }

/-- Add a completion-record count, whose stop at 0xFFFF_FFFF sets the flag (R79). -/
def State.countRecord (s : State) (num n : Nat) : State :=
  let s := s.count 1 0 num n
  if n = 2 ^ 32 - 1 then
    let c := findCounter s.counters 1 0 num
    { s with counters := putCounter s.counters 1 0 num c.1 true }
  else s

/-- Add every count of a record to the cumulative NUMERIC counters (R79, R56). -/
def State.countAll (s : State) (k : Counts) : State :=
  ((((((((((s.countRecord 1 k.nan).countRecord 2 k.overflow).countRecord 3 k.saturated).countRecord 4 k.flushed).countRecord 5
    k.zeroBlock).countRecord 6 k.invalid).countRecord 7 k.divzero).countRecord 8 k.underflowEx).countRecord 9
    k.inexact).countRecord 10 k.nonfiniteIn).countRecord 11 k.overflowEx

/-! ### Events (R343, R344) -/

/-- An event record (Table 12-12). -/
def mkEvent (code cat cls a0 a1 a2 time : Nat) : Event :=
  BitVec.ofNat 256 (code % 2 ^ 16 + cat % 8 * 2 ^ 16 + cls % 8 * 2 ^ 20 + a0 % 2 ^ 32 * 2 ^ 32 + a1 % 2 ^ 64 * 2 ^ 64 +
    a2 % 2 ^ 64 * 2 ^ 128 + time % 2 ^ 64 * 2 ^ 192)

/-- Post an event: queued, or discarded and counted when the queue of 256 is full (R343). -/
def Smp.post (m : Smp) (e : Event) : Smp :=
  if m.events.length < 256 then { m with events := m.events ++ [e] } else { m with dropped := satAdd 16 m.dropped 1 }

def State.post (s : State) (code cat cls a0 a1 a2 : Nat) : State :=
  { s with smp := s.smp.post (mkEvent code cat cls a0 a1 a2 s.time) }

/-! ### The Blotter's buffer (R288, R289) -/

/-- Add a range to a rising list of ranges, joined to the last one when it follows it. -/
def addRange : List (Nat × Nat) → Nat → Nat → List (Nat × Nat)
  | [], a, b => [(a, b)]
  | [(f, l)], a, b => if l + 1 = a then [(f, b)] else [(f, l), (a, b)]
  | x :: y :: r, a, b => x :: addRange (y :: r) a b

/-- n records find no room in the MC's buffer: they are lost and never reach the ring (R288). -/
def Blotter.lose (b : Blotter) (n : Nat) : Blotter :=
  { b with rseq := b.rseq + n,
           lost := addRange b.lost b.rseq (b.rseq + n - 1), gaps := addRange b.gaps b.rseq (b.rseq + n - 1) }

/-- Hand one record of 64 bytes to the MC's Blotter buffer of 4,096; a record that finds no room is lost (R288). -/
def Blotter.push (b : Blotter) (r : List Byte) : Blotter :=
  if b.buffer.length < 4096 then { b with rseq := b.rseq + 1, buffer := b.buffer ++ [(b.rseq, r)] } else b.lose 1

/-- A Blotter record from its fields (R289): type, flags, step, and the bits from 64 up. -/
def blotRecord (type flags step rest : Nat) : List Byte :=
  leBytes 64 (type % 256 + flags % 256 * 2 ^ 8 + step % 2 ^ 48 * 2 ^ 16 + rest * 2 ^ 64)

/-- Place a record in the Blotter; there is one while a Formula is admitted. -/
def State.blot (s : State) (r : List Byte) : State :=
  if s.formula.isSome then { s with blotter := s.blotter.push r } else s

/-- A record of two slots, whose halves are kept or lost together (R289). -/
def State.blotPair (s : State) (a b : List Byte) : State :=
  if s.formula.isSome then
    if s.blotter.buffer.length + 2 ≤ 4096 then { s with blotter := (s.blotter.push a).push b }
    else { s with blotter := s.blotter.lose 2 }
  else s

/-! ### Error records (R379 to R381, R388) -/

/-- Error classes (Table 14-1). -/
inductive Class where
  | c
  | f
  | sh
  | j
  | x
deriving DecidableEq, Repr

/-- The encoding of a class. -/
def Class.code : Class → Nat
  | .c => 0
  | .f => 1
  | .sh => 2
  | .j => 3
  | .x => 4

/-- What an error names (Table 14-2). -/
structure ErrSpec where
  code : Nat
  cls : Class
  unit : Nat
  index : Nat := 0
  shard : Nat := 0xFFFFFFFF
  arg0 : Nat := 0
  arg1 : Nat := 0
deriving DecidableEq, Repr

/-- An error record (Table 14-2). -/
def errRecord (e : ErrSpec) (time step epoch rnum prior : Nat) : Nat :=
  e.code % 2 ^ 16 + e.cls.code * 2 ^ 16 + e.unit % 2 ^ 16 * 2 ^ 32 + e.index % 2 ^ 16 * 2 ^ 48 + time % 2 ^ 64 * 2 ^ 64 +
    step % 2 ^ 48 * 2 ^ 128 + e.shard % 2 ^ 32 * 2 ^ 192 + epoch % 2 ^ 32 * 2 ^ 224 + e.arg0 % 2 ^ 64 * 2 ^ 256 +
    e.arg1 % 2 ^ 64 * 2 ^ 320 + rnum % 2 ^ 64 * 2 ^ 384 + prior % 2 ^ 32 * 2 ^ 448

/-- Append a record: the first 64 after PORST_N, then the latest 192 (R388). -/
def ErrLog.append (l : ErrLog) (r : BitVec 512) : ErrLog :=
  if l.first.length < 64 then { l with first := l.first ++ [r], rnum := l.rnum + 1 }
  else if l.latest.length < 192 then { l with latest := l.latest ++ [r], rnum := l.rnum + 1 }
  else { l with latest := l.latest.drop 1 ++ [r], dropped := satAdd 32 l.dropped 1, rnum := l.rnum + 1 }

/-- The book of a CODE, UNIT and INDEX. -/
def ErrLog.find (l : ErrLog) (e : ErrSpec) : Option Burst :=
  l.bursts.find? (fun b => decide (b.code = e.code) && decide (b.unit = e.unit) && decide (b.index = e.index))

def ErrLog.put (l : ErrLog) (e : ErrSpec) (last prior : Nat) : ErrLog :=
  { l with bursts := l.bursts.filter (fun b => !(decide (b.code = e.code) && decide (b.unit = e.unit) &&
      decide (b.index = e.index))) ++ [⟨e.code, e.unit, e.index, last, prior⟩] }

/-- Record one occurrence (R379): a class C occurrence within 1 µs of the previous one of its CODE, UNIT and INDEX writes no record.
A record is logged, posted as an ERROR event and, while a Formula is admitted, placed in the Blotter (classes C and F only with BLOT_ERR). -/
def State.error (s : State) (e : ErrSpec) : State :=
  let b := s.log.find e
  let within := match b with
    | some b => decide (s.time < b.last + 1000)
    | none => false
  let prior := (b.map Burst.prior).getD 0
  if e.cls = .c ∧ within = true then { s with log := s.log.put e s.time (satAdd 32 prior 1) }
  else
    let r := errRecord e s.time s.run.lastStep s.fabric.epoch s.log.rnum prior
    let rn := s.log.rnum
    let s := { s with log := (s.log.put e s.time 0).append (BitVec.ofNat 512 r) }
    let s := s.post 0x0501 3 e.cls.code e.code (e.unit % 2 ^ 16 + 2 ^ 16 * e.index) rn
    let always := decide (e.cls = .sh) || decide (e.cls = .j) || decide (e.cls = .x)
    let keep := match s.formula with
      | some f => always || f.hdr.blotErr
      | none => false
    if keep then
      s.blot (blotRecord 0x03 e.cls.code s.run.lastStep
        (e.code % 2 ^ 16 + e.unit % 2 ^ 16 * 2 ^ 16 + e.shard % 2 ^ 32 * 2 ^ 32 + s.time % 2 ^ 64 * 2 ^ 64 +
          r % 2 ^ 320 * 2 ^ 128))
    else s

end Sys2Proof.Machine
end

