-- ==== Sys2Proof/Machine/Operands.lean ====
section
/-! DEFINITION. The operand forms of the commands: fields of a mailbox request (Tables 12-8, 12-10), of a response, of a fabric packet
(Table 9-3), of register words, and the unit numbers of power domains. -/

namespace Sys2Proof.Machine

open Sys2Proof.Bits

/-! ### Mailbox requests -/

/-- The parameter field of n bytes at byte offset off of the request (offsets of Table 12-10 count from the request's byte 0). -/
def par (q : BitVec 448) (off n : Nat) : Nat := field q.toNat (8 * (off - 8)) (8 * n)

/-- The parameter bytes off to off + n - 1 in order of address. -/
def parBytes (q : BitVec 448) (off n : Nat) : List Byte := leBytes n (par q off n)

end Sys2Proof.Machine

namespace Sys2Proof

open Sys2Proof.Bits

/-- The 64 request bytes of a request with a CODE (Table 12-8). -/
def Req.word (code : Nat) (q : Req) : BitVec 512 :=
  BitVec.ofNat 512 (code % 2 ^ 16 + q.seq.toNat * 2 ^ 16 + q.token.toNat * 2 ^ 32 + q.par.toNat * 2 ^ 64)

end Sys2Proof

namespace Sys2Proof.Machine

open Sys2Proof.Bits

/-- CODE of a request word. -/
def reqCode (w : BitVec 512) : Nat := field w.toNat 0 16

/-- The rest of a request word. -/
def reqOf (w : BitVec 512) : Req :=
  ⟨BitVec.ofNat 16 (field w.toNat 16 16), BitVec.ofNat 32 (field w.toNat 32 32), BitVec.ofNat 448 (field w.toNat 64 448)⟩

/-- A used parameter field: byte offset, bytes, and the mask of bits that it may set (all ones: the whole field). -/
structure ParField where
  off : Nat
  n : Nat
  mask : Nat
deriving DecidableEq, Repr

/-- A whole field. -/
def whole (off n : Nat) : ParField := ⟨off, n, 2 ^ (8 * n) - 1⟩

/-- The bits of the parameters that a command uses, as a 448-bit mask. -/
def usedMask (fs : List ParField) : Nat := fs.foldl (fun a f => Nat.lor a (f.mask * 2 ^ (8 * (f.off - 8)))) 0

/-- The lowest bit of a number, found by structural search. -/
def lowestBit (x : Nat) : Nat → Nat → Nat
  | 0, i => i
  | fuel + 1, i => if x.testBit i then i else lowestBit x fuel (i + 1)

/-- The byte offset of the first reserved bit that a request sets (R7, R334), if any. -/
def reservedSet (fs : List ParField) (q : BitVec 448) : Option Nat :=
  let x := Nat.xor (Nat.land q.toNat (usedMask fs)) q.toNat
  if x = 0 then none else some (8 + lowestBit x 448 0 / 8)

/-- What the MC answers: a status, its detail, and the result bytes from byte 8 on as a number (Table 12-8). -/
structure Rsp where
  status : Nat
  detail : Nat := 0
  body : Nat := 0
deriving DecidableEq, Repr

/-- A result field of n bytes at byte offset off of the response. -/
def res (off n v : Nat) : Nat := v % 2 ^ (8 * n) * 2 ^ (8 * (off - 8))

/-- The 64 response bytes (Table 12-8). -/
def Rsp.word (code seq : Nat) (r : Rsp) : BitVec 512 :=
  BitVec.ofNat 512 (code % 2 ^ 16 + seq % 2 ^ 16 * 2 ^ 16 + r.status % 2 ^ 16 * 2 ^ 32 + r.detail % 2 ^ 16 * 2 ^ 48 +
    r.body % 2 ^ 448 * 2 ^ 64)

/-! ### Status codes (Table 12-11, Table 13-9) -/

def stOk : Nat := 0x0000
def stOpStarted : Nat := 0x0001
def stBadCode : Nat := 0x0010
def stWrongMailbox : Nat := 0x0011
def stNoSession : Nat := 0x0012
def stSeqGap : Nat := 0x0013
def stSeqOld : Nat := 0x0014
def stSessionBusy : Nat := 0x0015
def stWrongLevel : Nat := 0x0016
def stBadField : Nat := 0x0017
def stBadPointer : Nat := 0x0018
def stWrongState : Nat := 0x0019
def stConflict : Nat := 0x001A
def stNoResource : Nat := 0x001B
def stNoHandle : Nat := 0x001C
def stTooLate : Nat := 0x001D
def stNotReady : Nat := 0x0020
def stEsFail : Nat := 0x0021
def stAdmission : Nat := 0x0030
def stEpoch : Nat := 0x0031
def stRoute : Nat := 0x0032
def stCheckFailed : Nat := 0x0033
def stMismatch : Nat := 0x0034
def stNotHeld : Nat := 0x0035
def stCancelled : Nat := 0x0036
def stLevelLost : Nat := 0x0037
def stOverrun : Nat := 0x0038
def stInternal : Nat := 0x003F

/-- A status alone. -/
def Rsp.of (st : Nat) : Rsp := ⟨st, 0, 0⟩

/-- OK. -/
def Rsp.ok : Rsp := Rsp.of stOk

/-- BAD_FIELD with the parameter byte offset. -/
def Rsp.badField (off : Nat) : Rsp := ⟨stBadField, off, 0⟩

/-! ### Fabric packets (Table 9-3) -/

end Sys2Proof.Machine

namespace Sys2Proof

open Sys2Proof.Bits

/-- A field of a packet header. -/
def Packet.fld (k : Packet) (lo n : Nat) : Nat := field k.head.toNat lo n

end Sys2Proof

namespace Sys2Proof.Machine

open Sys2Proof.Bits

/-! ### Power domains -/

/-- The index of a domain in State.doms: MC, INTAKE, PEER, KEY, then the physical Stills. -/
def domIndex : Domain → Nat
  | .mc => 0
  | .intake => 1
  | .peer => 2
  | .key => 3
  | .still i => 4 + i.toNat

/-- Whether the configuration has the domain. -/
def domExists (c : Cfg) : Domain → Bool
  | .still i => decide (i.toNat < physicals c)
  | _ => true

/-- The domain at an index. -/
def State.dom (s : State) (i : Nat) : Dom := getV s.doms i {}

/-- Change one domain. -/
def State.modDom (s : State) (i : Nat) (f : Dom → Dom) : State := { s with doms := modV s.doms i f }

/-- Whether the domain at an index reports present (R27). -/
def State.present (s : State) (i : Nat) : Bool := (s.dom i).present

/-! ### Channels and links -/

def State.chan (s : State) (i : Nat) : Channel := getV s.chans i {}

def State.modChan (s : State) (i : Nat) (f : Channel → Channel) : State := { s with chans := modV s.chans i f }

def State.link (s : State) (p : Nat) : Link := getV s.fabric.links p {}

def State.modLink (s : State) (p : Nat) (f : Link → Link) : State :=
  { s with fabric := { s.fabric with links := modV s.fabric.links p f } }

def State.mbx (s : State) (m : Nat) : Mailbox := getV s.smp.mbx m {}

def State.modMbx (s : State) (m : Nat) (f : Mailbox → Mailbox) : State :=
  { s with smp := { s.smp with mbx := modV s.smp.mbx m f } }

def State.win (s : State) (w : Nat) : Win := s.wins.getD w {}

def State.modWin (s : State) (w : Nat) (f : Win → Win) : State := { s with wins := modAt s.wins w f }

def State.shard (s : State) (i : Nat) : Shard := s.shards.getD i {}

def State.modShard (s : State) (i : Nat) (f : Shard → Shard) : State := { s with shards := modAt s.shards i f }

/-- Change the run. -/
def State.modRun (s : State) (f : Run → Run) : State := { s with run := f s.run }

/-- Change the Still array. -/
def State.modStills (s : State) (f : Stills → Stills) : State := { s with stills := f s.stills }

/-- Change the firmware life. -/
def State.modFw (s : State) (f : Firmware → Firmware) : State := { s with fw := f s.fw }

/-- Whether an MC core is fenced (Table 14-4). -/
def Firmware.coreOut (w : Firmware) (i : Nat) : Bool := getV w.coreFenced i false

/-- Change the fabric state. -/
def State.modFabric (s : State) (f : Fabric → Fabric) : State := { s with fabric := f s.fabric }

/-- Change the management port. -/
def State.modSmp (s : State) (f : Smp → Smp) : State := { s with smp := f s.smp }

/-- Apply an operation for each entry of a list, in order. -/
def eachIn {α : Type} (l : List α) (f : State → α → State) (s : State) : State := l.foldl f s

end Sys2Proof.Machine
end

