-- ==== Sys2Proof/Machine/Flags.lean ====
section
/-! DEFINITION. The flags and status words: SMP register values (Tables 12-1 to 12-7), CH_OWN, SM_IRQ, the service level in force, and
the words of an access. -/

namespace Sys2Proof.Machine

open Sys2Proof.Bits

/-- The CH_OWN bit of a channel: 0 in MEM mode, 1 in TRANSIT and PROC mode (R19). -/
def chOwn (c : Channel) : Bool := decide (c.mode ≠ .mem)

/-- The service level that commands meet: 0 from the moment of a class X error (R30, R387), else SM_LEVEL.LEVEL. -/
def State.level (s : State) : Nat := if s.fall then 0 else s.smp.level

/-- Whether the SMP answers accesses (R306). -/
def State.smpOpen (s : State) : Bool := !s.porst

/-- Own EA (R242): tray in [17:6], chip in [5:3], engine position in [2:0]. -/
def State.ea (s : State) : Nat := s.smp.pos.toNat + s.fabric.chip % 8 * 8 + s.fabric.tray % 4096 * 64

/-- SM_IDENT (R327). -/
def smIdent (c : Cfg) : Nat := match c with | .izL => 0x13201C2A | .izS => 0x23201C2A

/-- SM_FRU (Table 12-5). -/
def smFru (s : State) : Nat := s.ea + ofBool (!s.fabric.assigned) * 2 ^ 20

/-- SM_STATUS (Table 12-3); a field whose source domain is unpowered reads 0 (R328). -/
def smStatus (s : State) : Nat :=
  let mc := s.present 0
  let keyOk := s.present 3 && s.keyPresent
  let up := fun p => s.present 2 && decide ((s.link p).st = .up)
  ofBool (mc && s.fw.romMode) + (if mc then s.fw.core.toNat else 0) * 2 +
    ofBool (mc && (match s.fw.handover with | .held _ => true | _ => false)) * 4 +
    ofBool (mc && s.formula.isSome) * 8 + ofBool (mc && s.run.anchored) * 16 +
    ofBool (mc && (decide (s.run.eval = .opened) || decide (s.run.eval = .decanting))) * 32 + ofBool keyOk * 64 +
    ofBool (s.present 3 && s.entropy.ready && !s.entropy.fenced) * 128 + ofBool (s.present 1) * 256 +
    ofBool (up 0) * 512 + ofBool (up 1 && decide (s.cfg = .izL)) * 1024 + ofBool s.smp.fuseDisabled * 2048 +
    ofBool s.smp.fellX * 4096

/-- SM_LEVEL (Table 12-4). -/
def smLevel (s : State) : Nat :=
  s.smp.level % 4 + s.smp.req % 4 * 16 + ofBool s.smp.pendingLevel * 64 + s.smp.fail % 16 * 256

/-- SM_TEMP (Table 12-5). -/
def smTemp (s : State) : Nat := s.smp.temp.toNat + ofBool s.smp.tempKnown * 256

/-- SM_EVQ_COUNT (Table 12-5). -/
def smEvqCount (s : State) : Nat := s.smp.events.length % 512 + s.smp.dropped % 2 ^ 16 * 2 ^ 16

/-- SM_EVENTi: word i of the head event; an empty queue reads as zeros (R343). -/
def smEvent (s : State) (i : Nat) : Nat :=
  match s.smp.events with
  | e :: _ => field e.toNat (32 * i) 32
  | [] => 0

/-- SM_MBXm_STAT (Table 12-7). -/
def mbxStat (b : Mailbox) : Nat :=
  ofBool b.busy + ofBool b.rspValid * 2 + ofBool b.session.isSome * 4 + ofBool b.held * 8 + b.last.toNat * 2 ^ 16

/-- The category of an event record. -/
def eventCat (e : Event) : Nat := field e.toNat 16 3

/-- SM_IRQ: 1 exactly while an unmasked event is pending (R307). -/
def smIrq (s : State) : Bool := s.smp.events.any (fun e => bit s.smp.irqMask.toNat (eventCat e))

/-- Registers of the SMP map by kind (Table 12-1). -/
inductive SmpReg where
  | ident
  | status
  | level
  | fru
  | timeLo
  | timeHi
  | temp
  | irqMask
  | evqCount
  | evqPop
  | event (i : Nat)
  | stageBase
  | stageMib
  | egrAck
  | mbxReq (m i : Nat)
  | mbxRsp (m i : Nat)
  | mbxDoorbell (m : Nat)
  | mbxStat (m : Nat)
deriving DecidableEq, Repr

/-- The register at a byte address (Table 12-1); SM_ADDR carries bits [15:2] only (Table 11-4). -/
def smpReg (addr : Nat) : Option SmpReg :=
  let a := addr / 4 * 4
  if a = 0x00 then some .ident
  else if a = 0x04 then some .status
  else if a = 0x08 then some .level
  else if a = 0x0C then some .fru
  else if a = 0x10 then some .timeLo
  else if a = 0x14 then some .timeHi
  else if a = 0x18 then some .temp
  else if a = 0x20 then some .irqMask
  else if a = 0x24 then some .evqCount
  else if a = 0x28 then some .evqPop
  else if 0x40 ≤ a ∧ a ≤ 0x5C then some (.event ((a - 0x40) / 4))
  else if a = 0x80 then some .stageBase
  else if a = 0x84 then some .stageMib
  else if a = 0x90 then some .egrAck
  else if 0x1000 ≤ a ∧ a < 0x1400 then
    let m := (a - 0x1000) / 0x100
    let o := a % 0x100
    if o < 0x40 then some (.mbxReq m (o / 4))
    else if o < 0x80 then some (.mbxRsp m ((o - 0x40) / 4))
    else if o = 0x80 then some (.mbxDoorbell m)
    else if o = 0x84 then some (.mbxStat m)
    else none
  else none

/-- Whether the register's domain is powered: SM_EGR_ACK lies in PD-INTAKE, every other register in PD-AON (Table 12-1). -/
def regPowered (s : State) : SmpReg → Bool
  | .egrAck => s.present 1
  | _ => true

/-- The value that a read of a register returns; write-only and reserved bits read 0 (Table 0-6, R11). -/
def regValue (s : State) : SmpReg → Nat
  | .ident => smIdent s.cfg
  | .status => smStatus s
  | .level => smLevel s
  | .fru => smFru s
  | .timeLo => s.time % 2 ^ 32
  | .timeHi => s.smp.timeHi.toNat
  | .temp => smTemp s
  | .irqMask => s.smp.irqMask.toNat
  | .evqCount => smEvqCount s
  | .evqPop => 0
  | .event i => smEvent s i
  | .stageBase => s.smp.stageBase.toNat
  | .stageMib => s.smp.stageMib.toNat
  | .egrAck => 0
  | .mbxReq m i => field (s.mbx m).req.toNat (32 * i) 32
  | .mbxRsp m i => field (s.mbx m).rsp.toNat (32 * i) 32
  | .mbxDoorbell _ => 0
  | .mbxStat m => mbxStat (s.mbx m)

/-- The bits of a register that are not reserved (Tables 12-2 to 12-7). -/
def regMask : SmpReg → Nat
  | .ident => 2 ^ 30 - 1
  | .status => 2 ^ 13 - 1
  | .level => 0xF73
  | .fru => 2 ^ 21 - 1
  | .timeLo => 2 ^ 32 - 1
  | .timeHi => 2 ^ 32 - 1
  | .temp => 2 ^ 9 - 1
  | .irqMask => 0x7F
  | .evqCount => 0xFFFF01FF
  | .evqPop => 1
  | .event i => if i = 0 then 0x0077FFFF else 2 ^ 32 - 1
  | .stageBase => 2 ^ 20 - 1
  | .stageMib => 2 ^ 21 - 1
  | .egrAck => 2 ^ 32 - 1
  | .mbxReq _ _ => 2 ^ 32 - 1
  | .mbxRsp _ _ => 2 ^ 32 - 1
  | .mbxDoorbell _ => 1
  | .mbxStat _ => 0xFFFF000F

/-- Whether a written word sets a reserved bit of the register (R11). -/
def reservedBits (r : SmpReg) (w : Nat) : Bool := decide (Nat.land w (regMask r) ≠ w % 2 ^ 32)

/-- Record what an SMP access answers: SM_RDATA and SM_ERR of the SM_RDY cycle (R305). -/
def State.answer (s : State) (rdata : Nat) (err : Bool) : State :=
  s.modSmp (fun m => { m with rdata := BitVec.ofNat 32 rdata, err := err })

/-- A read at an SMP address: the register's value, or SM_ERR with 0 where no register stands or its domain is unpowered (R306). The one row
of the table that reads takes the address of SM_TIME_LO. -/
def State.readReg (s : State) (addr : Nat) : State :=
  match smpReg addr with
  | some r => if regPowered s r then s.answer (regValue s r) false else s.answer 0 true
  | none => s.answer 0 true

end Sys2Proof.Machine
end

