-- ==== Sys2Proof/Machine/Layout.lean ====
section
/-! DEFINITION. Where the values of a shard live: ownership, stripes (R88, R89), stream descriptors and planes (R90, R91), and the
reading and writing of stored elements. -/

namespace Sys2Proof.Machine

open Sys2Proof.Bits
open Sys2Proof.Convert
open Sys2Proof.Fp

/-! ### Formula lookups -/

/-- The admitted Formula, or an empty one. -/
def State.form (s : State) : Formula := s.formula.getD {}

/-- The shard table entry of a shard id (the table is in ascending id from 0). -/
def shardEntry (f : Formula) (i : Nat) : Option ShardEntry := f.shards[i]?

/-- The descriptors of a shard (Table 6-8). -/
def descsOf (f : Formula) (e : ShardEntry) : List Desc := slice f.descs e.descFirst e.descCount

/-- The descriptor of a stream of a shard. -/
def descOf (f : Formula) (e : ShardEntry) (stream : Nat) : Option Desc :=
  (descsOf f e).find? (fun d => decide (d.stream = stream))

/-- Whether this engine owns the shard. -/
def State.owns (s : State) (e : ShardEntry) : Bool := decide (e.owner = s.ea)

/-- The ids of the shards that this engine owns, ascending. -/
def State.ownedShards (s : State) : List Nat :=
  (s.form.shards.zipIdx.filter (fun p => s.owns p.1)).map Prod.snd

/-! ### Stripes (R88) -/

/-- Stripe length. -/
def stripeLen (c : Cfg) (n : Nat) : Nat := 256 * ceilDiv n (256 * logicals c)

/-- Elements of the stripe of logical Still k. -/
def stripeCount (c : Cfg) (n k : Nat) : Nat := min ((k + 1) * stripeLen c n) n - min (k * stripeLen c n) n

/-- The logical Stills that hold part of a shard of n elements. -/
def stillsOf (c : Cfg) (n : Nat) : List Nat := (List.range (logicals c)).filter (fun k => decide (0 < stripeCount c n k))

/-- Blocks of 256 elements of a stripe. -/
def stripeBlocks (c : Cfg) (n k : Nat) : Nat := ceilDiv (stripeCount c n k) 256

/-! ### Planes (R91) -/

/-- The element-plane base of a descriptor; D uses the buffer of the version's parity (R113). -/
def ebase (d : Desc) (parity : Nat) : Nat := if parity % 2 = 1 then d.ebase1 else d.ebase0

/-- The scale-plane base of a descriptor. -/
def sbase (d : Desc) (parity : Nat) : Nat := if parity % 2 = 1 then d.sbase1 else d.sbase0

/-- Element-plane bytes of a stripe of t elements. -/
def State.stripeElems (s : State) (d : Desc) (parity k t : Nat) : List Byte :=
  s.planeBytes k (ebase d parity) (elemPlaneBytes d.fmt t)

/-- Scale-plane bytes of a stripe of t elements. -/
def State.stripeScales (s : State) (d : Desc) (parity k t : Nat) : List Byte :=
  s.planeBytes k (sbase d parity) (scalePlaneBytes d.fmt t)

/-- Write both planes of a stripe from its first element. -/
def State.writeStripe (s : State) (d : Desc) (parity k : Nat) (el sc : List Byte) : State :=
  (s.writePlane k (ebase d parity) el).writePlane k (sbase d parity) sc

/-- The tensor-scale exponent that the streams of a scale group use (R36, R76). -/
def State.scaleK (s : State) (g : Nat) : Int := (s.scales.getD g {}).k

/-- The exponent of a descriptor: that of its scale group for E4M3T and E5M2T, else 0. -/
def State.descK (s : State) (d : Desc) : Int := if isTensorScaled d.fmt then s.scaleK d.scaleGroup else 0

/-- A byte of a list, 0 beyond its end. -/
def byteAt (l : List Byte) (i : Nat) : Byte := l.getD i 0

/-- The stored streams of a shard: every stream with a descriptor except G and D, in ascending id (R276). -/
def storedStreams (f : Formula) (e : ShardEntry) : List Desc :=
  [0, 1, 2, 4, 5].filterMap (fun i => descOf f e i)

/-- Decode the elements of one stripe of a stream. -/
def State.stripeLanes (s : State) (d : Desc) (k t : Nat) : List Lane :=
  let el := s.stripeElems d 0 k t
  let sc := s.stripeScales d 0 k t
  (List.range t).map (fun j => (decodeStream d.fmt (s.descK d) (byteAt el) (byteAt sc) j).1)

/-- What the decoder of a stream counts over a stripe: NaN and above-range elements (R45, R78). -/
def State.stripeCats (s : State) (d : Desc) (k t : Nat) : List Cat :=
  let el := s.stripeElems d 0 k t
  let sc := s.stripeScales d 0 k t
  (List.range t).map (fun j => (decodeStream d.fmt (s.descK d) (byteAt el) (byteAt sc) j).2)

/-- The counts of decoded inputs (R78): NaN and above range, once for each input stream. -/
def decodeCounts (cs : List Cat) : Counts :=
  let c := Accord.countCats cs
  { nan := c.nan, overflow := c.overflow }

/-- Whether no EVAL window is open or in preparation: one that is only requested lets the running step go on (R295). -/
def State.evalIdle (s : State) : Bool :=
  match s.run.eval with
  | .closed => true
  | .requested _ => true
  | _ => false

/-! ### Access to a channel -/

/-- Whether the Channel Sequencer knows the latency (0 read, 1 write) of its channel: from the stack descriptor, or from a host MRS that
sets it (R300). -/
def State.latencyKnown (s : State) (ch what : Nat) : Bool :=
  (if what = 0 then s.disc.rl else s.disc.wl).isSome || (s.chan ch).mrs.any (fun (x : Nat × Nat) => Config.mrSets what x.1)

/-- Whether Still and Atomizer accesses may reach a channel: PROC, its catch-up refreshes complete (R22, R165), no all-bank refresh running
(R171), not fenced, latencies known (R300). -/
def State.chanReady (s : State) (ch : Nat) : Bool :=
  let c := s.chan ch
  decide (c.mode = .proc) && decide (c.catchup = 0) && decide (c.refabEnd ≤ s.time) && !c.fenced && s.latencyKnown ch 0 && s.latencyKnown ch 1

/-- Whether a Still access may reach a channel: not while an Atomizer segment runs there (Table 7-3). -/
def State.stillMayAccess (s : State) (ch : Nat) : Bool := s.chanReady ch && (getV s.atm ch {}).seg.isNone

/-- Whether every channel that n bytes from channel-group address a of group k touch may be accessed (Table 6-2: 64 bytes a channel). -/
def State.accessOpen (s : State) (k a n : Nat) : Bool :=
  decide (n = 0) || (List.range (min 4 ((a + n - 1) / 64 + 1 - a / 64))).all (fun i => s.stillMayAccess (4 * k + (a / 64 + i) % 4))

/-- Whether count elements of a stream's stripe from element j0 may be accessed. -/
def State.blockOpen (s : State) (d : Desc) (parity k j0 count : Nat) : Bool :=
  s.accessOpen k (ebase d parity + j0 * elemBits d.fmt / 8) (ceilDiv (count * elemBits d.fmt) 8) &&
    (match blockFmt d.fmt with
     | some bf => s.accessOpen k (sbase d parity + j0 / bf.b * bf.c) (ceilDiv count bf.b * bf.c)
     | none => true)

/-! ### The Decant copy (R285, R295) -/

/-- Write, for every stripe of a shard, the Decant of stream src under the D descriptor with roundTiesToEven (Table 4-18: the value
times +1.0), into the buffer of a parity. The counts of this conversion pass join NUMERIC (R54, R78, R79). -/
def State.writeDecant (s : State) (e : ShardEntry) (src d : Desc) (parity : Nat) : State :=
  eachIn (stillsOf s.cfg e.n) (fun s k =>
    let t := stripeCount s.cfg e.n k
    let lanes := s.stripeLanes src k t
    let enc := encodeRun d.fmt d.sat (s.descK d) (lanes.map (fun _ => .nearest))
      (lanes.map (fun l => (⟨l.w64, (mulV l.fmt .nearestEven l.val (decode l.fmt (widen binary32 l.fmt 0x3F800000))).1⟩ : Lane)))
    let ep := Convert.planeBytes d.fmt (fun i => s.dramByte (stackAddr s.cfg k (ebase d parity + i))) 0 enc.codes
    let sp := match blockFmt d.fmt with
      | some bf => enc.scales.flatMap (fun x => leBytes bf.c x)
      | none => []
    let out := Accord.countCats enc.cats
    let counts := (decodeCounts (s.stripeCats src k t)).add { out with zeroBlock := enc.zeroBlocks }
    (s.writeStripe d parity k ep.2 sp).countAll counts) s

/-- Fill the buffer of a parity of a D stream with undefined bytes (Table 12-16: after a cancelled Decant). -/
def State.undefineDecant (s : State) (e : ShardEntry) (d : Desc) (parity : Nat) : State :=
  eachIn (stillsOf s.cfg e.n) (fun s k =>
    let t := stripeCount s.cfg e.n k
    let ne := elemPlaneBytes d.fmt t
    let ns := scalePlaneBytes d.fmt t
    let s' := s.writeStripe d parity k ((List.range ne).map (fun i => Config.freeByte (s.free + i)))
      ((List.range ns).map (fun i => Config.freeByte (s.free + ne + i)))
    { s' with free := s.free + ne + ns }) s

end Sys2Proof.Machine
end

