-- ==== Sys2Proof/Machine/Refresh.lean ====
section
/-! DEFINITION. Channel modes and refresh on the core side: the beginning of a TRANSIT (R18, R19), the cadence (R164, R171), and the
refreshes that the Channel Sequencer issues before it gives a channel back (R165). -/

namespace Sys2Proof.Machine

open Sys2Proof.Bits

/-- The channels of the configuration. -/
def State.channelList (s : State) : List Nat := List.range (channels s.cfg)

/-! ### Refresh (R164, R165, R171) -/

/-- The first three checks of R166. -/
def cadenceOk (c : Cadence) (d : Discovery) : Bool :=
  decide (c.period * 20 ≤ d.tRefi) && decide (c.offset + 63 * c.spacing < c.period) && decide (d.tRfcPb ≤ 2 * (c.spacing * 20))

/-- The cadence derived from the discovered values (R171). -/
def derivedCadence (d : Discovery) : Cadence := ⟨d.tRefi / 20, 0, ceilDiv d.tRfcPb 40⟩

/-- The cadence in force: that of the admitted Formula, or the derived one. -/
def State.cadence (s : State) : Cadence :=
  match s.formula with
  | some f => f.cadence
  | none => derivedCadence s.disc

/-- Whether refreshes are per bank: always with a Formula, and with the derived cadence when it passes R166 (R171). -/
def State.perBank (s : State) : Bool := s.formula.isSome || cadenceOk (derivedCadence s.disc) s.disc

/-- The tick of a refresh in its period; in all-bank form the two pseudo-channels' REFABs stand under bank 0 (R164, R171). -/
def State.refreshAt (s : State) (pc bank : Nat) : Option Nat :=
  if s.perBank then some (s.cadence.offset + (2 * bank + pc) * s.cadence.spacing)
  else if bank = 0 then some (pc * ceilDiv s.disc.tRfcAb 20)
  else none

/-- The refresh period that runs: with a Formula, periods run back to back from the moment of admission (R164). The manual names no such
moment for the derived cadence of R171: the model counts its periods from the last admission, or from time 0 before any (log entry 118). -/
def State.refreshPeriod (s : State) : Nat := (s.time - s.admitTime) / (20 * max 1 s.cadence.period)

/-- When a refresh of period p is to be issued. -/
def State.refreshTime (s : State) (p pc bank : Nat) : Option Nat :=
  (s.refreshAt pc bank).map (fun t => s.admitTime + 20 * (p * max 1 s.cadence.period + t))

/-- Whether a refresh of period p, whose time has passed and is not before `since`, is still to be issued. -/
def State.refreshOwed (s : State) (ch p since pc bank : Nat) : Bool :=
  (match s.refreshTime p pc bank with
   | some t => decide (since ≤ t) && decide (t ≤ s.time)
   | none => false) && !(s.chan ch).refreshed.contains (pc, bank, p)

/-- Whether a refresh of the current period whose tick has passed is still to be issued. -/
def State.refreshDue (s : State) (ch pc bank : Nat) : Bool := s.refreshOwed ch s.refreshPeriod 0 pc bank

/-- Issue one refresh of period p on the core side: REFPB, or in all-bank form REFAB, for whose time the pseudo-channel takes no access
(R171). The books keep the last two periods. -/
def State.issueRefresh (s : State) (ch p pc bank : Nat) : State :=
  let s := s.modChan ch (fun c => { c with
    refreshes := c.refreshes + 1,
    refabEnd := if s.perBank then c.refabEnd else s.time + s.disc.tRfcAb,
    refreshed := c.refreshed.filter (fun (x : Nat × Nat × Nat) => decide (p ≤ x.2.2 + 1)) ++ [(pc, bank, p)] })
  { s with out := { s.out with ch := ch, ccp := some (if s.perBank then 4 else 5, pc, bank, 0, 0) } }

/-- Issue every refresh of period p that is owed since a time. -/
def State.issuePeriod (s : State) (ch p since : Nat) : State :=
  eachIn (List.range 32) (fun s b => eachIn [0, 1] (fun s pc =>
    if s.refreshOwed ch p since pc b then s.issueRefresh ch p pc b else s) s) s

/-- Issue every refresh of the current period whose tick has passed (R165). -/
def State.issueDue (s : State) (ch : Nat) : State := s.issuePeriod ch s.refreshPeriod 0

/-- Issue what the period before the current one left owed since a time: its end fell within a TRANSIT (R165). -/
def State.issueSince (s : State) (ch since : Nat) : State := s.issuePeriod ch (s.refreshPeriod - 1) since

/-- Whether background work may use a channel on the core side now: the channel is the engine's and not fenced, no refresh is due (R16,
Table 1-4), no all-bank refresh runs (R171), no Atomizer segment runs there (Table 7-3), and its latencies are known (R300). -/
def State.backgroundOpen (s : State) (ch : Nat) : Bool :=
  let c := s.chan ch
  decide (c.mode ≠ .mem) && !c.fenced && decide (c.refabEnd ≤ s.time) && (getV s.atm ch {}).seg.isNone &&
    s.latencyKnown ch 0 && s.latencyKnown ch 1 && !(List.range 32).any (fun b => s.refreshDue ch 0 b || s.refreshDue ch 1 b)

/-- Whether the latencies of every channel that is not fenced are known: the MC reaches no staging byte before (R300). -/
def State.latenciesKnown (s : State) : Bool :=
  s.channelList.all (fun c => (s.chan c).fenced || (s.latencyKnown c 0 && s.latencyKnown c 1))

/-- Whether a background reservation of a kind is in force on a channel (R167). -/
def State.reserved (s : State) (kind ch : Nat) : Bool :=
  let now := s.time - s.run.anchorTime
  s.run.anchored && s.form.reservations.any (fun (r : Reservation) => decide (r.kind = kind) && bit r.chmask ch &&
    decide (20 * r.start ≤ now) && (decide (r.length = 0) || decide (now < 20 * (r.start + r.length))))

/-! ### Modes (R18, R19) -/

/-- tMODE in nanoseconds (R18). -/
def tMode : Nat := 120

/-- A TRANSIT begins: every open row is closed, and CH_OWN is 1 (R18, R19). A fenced channel stays in MEM mode (R385). -/
def Channel.transit (c : Channel) (to' : Mode) (t : Nat) : Channel :=
  match to' with
  | .toProc => if c.fenced || decide (c.mode = .proc) || decide (c.mode = .toProc) then c
      else { c with mode := .toProc, since := t, rows := [] }
  | .toMem => if c.mode = .mem ∨ c.mode = .toMem then c else { c with mode := .toMem, since := t }
  | _ => c

/-- Begin a TRANSIT. Before a channel leaves PROC, every refresh of the current period whose tick has passed is issued (R165). -/
def State.transit (s : State) (ch : Nat) (to' : Mode) : State :=
  let s := if to' = .toMem ∧ (s.chan ch).mode = .proc then s.issueDue ch else s
  s.modChan ch (fun c => c.transit to' s.time)

/-- Begin a TRANSIT on every channel of a list. -/
def State.transitAll (s : State) (chs : List Nat) (to' : Mode) : State := eachIn chs (fun s c => s.transit c to') s

/-- Every channel that the engine owns returns to MEM through TRANSIT (R18, R22). The manual does not say what happens to a channel that is
still in TRANSIT toward PROC: the model turns it at once into a new TRANSIT of tMODE to MEM (log entry 117). -/
def State.channelsToMem (s : State) : State := s.transitAll s.channelList .toMem

end Sys2Proof.Machine
end

