-- ==== Sys2Proof/Machine/Packets.lean ====
section
/-! DEFINITION. Packets and their lanes (R248 to R250), the queue of a link, HELLO (Table 9-7), and TOPO with what makes it due again
(R261). -/

namespace Sys2Proof.Machine

open Sys2Proof.Bits
open Sys2Proof.Hash

/-! ### Packets -/

/-- The lane of a packet type (Table 9-4). -/
def laneOf (type : Nat) : Nat :=
  if type = 0x04 ∨ type = 0x05 then 1 else if type = 0x06 ∨ type = 0x07 ∨ type = 0x09 then 2 else 0

/-- Whether a type is link-local (R249). -/
def linkLocal (type : Nat) : Bool := decide (type = 0x01) || decide (type = 0x02) || decide (type = 0x03)

/-- The fields of a header that sending fills in (Table 9-3). -/
def headOf (type src dst : Nat) (poison : Bool) (epoch hops len : Nat) : Nat :=
  0x03 + type * 2 ^ 8 + src % 2 ^ 20 * 2 ^ 16 + laneOf type * 2 ^ 36 + dst % 2 ^ 20 * 2 ^ 40 + ofBool poison * 2 ^ 60 +
    epoch % 2 ^ 32 * 2 ^ 64 + hops % 16 * 2 ^ 108 + len % 2 ^ 13 * 2 ^ 112

/-- The CRC of a packet: header bytes 0 to 27 followed by the payload (Table 9-3). -/
def packetCrc (head : Nat) (payload : List Byte) : Nat := crc32c (leBytes 28 head ++ payload)

/-- Set the hop-local fields and the CRC of a packet (R250): SEQ and the credit returns. -/
def stampPacket (k : Packet) (seq : Nat) (cret : List Nat) : Packet :=
  let h := k.head.toNat % 2 ^ 96 + seq % 4096 * 2 ^ 96 + field k.head.toNat 108 20 * 2 ^ 108 + cret.getD 0 0 % 256 * 2 ^ 128 +
    cret.getD 1 0 % 256 * 2 ^ 136 + cret.getD 2 0 % 256 * 2 ^ 144
  { k with head := BitVec.ofNat 256 (h + packetCrc h k.payload * 2 ^ 224) }

end Sys2Proof.Machine

namespace Sys2Proof

open Sys2Proof.Bits

/-- A header field (Table 9-3). -/
def Packet.type (k : Packet) : Nat := k.fld 8 8
/-- A header field (Table 9-3). -/
def Packet.src (k : Packet) : Nat := k.fld 16 20
/-- A header field (Table 9-3). -/
def Packet.dst (k : Packet) : Nat := k.fld 40 20
/-- A header field (Table 9-3). -/
def Packet.epoch (k : Packet) : Nat := k.fld 64 32
/-- A header field (Table 9-3). -/
def Packet.seq (k : Packet) : Nat := k.fld 96 12
/-- A header field (Table 9-3). -/
def Packet.hops (k : Packet) : Nat := k.fld 108 4
/-- A header field (Table 9-3). -/
def Packet.len (k : Packet) : Nat := k.fld 112 13
/-- A header field (Table 9-3). -/
def Packet.poison (k : Packet) : Bool := bit k.head.toNat 60

/-- The credit units of a packet (R253). -/
def Packet.cost (k : Packet) : Nat := ceilDiv (32 + k.payload.length) 256

end Sys2Proof

namespace Sys2Proof.Machine

open Sys2Proof.Bits
open Sys2Proof.Hash

/-- A packet that this engine originates (15 hops; 1 for a link-local type). -/
def State.packet (s : State) (type dst : Nat) (poison : Bool) (payload : List Byte) : Packet :=
  ⟨BitVec.ofNat 256 (headOf type s.ea dst poison s.fabric.epoch (if linkLocal type then 1 else 15) payload.length), payload⟩

/-! ### Links -/

/-- The credits granted per lane (Table 9-6). -/
def laneGrant : List Nat := [32, 32, 1024]

/-- Queue a packet on a link, in its lane. -/
def State.enqueue (s : State) (p : Nat) (k : Packet) : State :=
  s.modLink p (fun l => { l with queue := modAt l.queue (laneOf k.type) (fun q => q ++ [k]) })

/-- A packet leaves its receive buffer: its credits are owed to the transmitter (R253). -/
def State.leave (s : State) (v : Via) (k : Packet) : State :=
  match v with
  | .carried _ _ => s
  | .link p =>
    if k.type = 0x01 ∨ k.type = 0x02 then s
    else
      let ln := laneOf k.type
      s.modLink p (fun l => { l with inBuf := modAt l.inBuf ln (fun x => x - k.cost), owed := modAt l.owed ln (fun x => x + k.cost),
                                     owedAt := if l.owed.all (fun x => decide (x = 0)) then s.time else l.owedAt })

/-- HELLO and HELLO_ACK payload (Table 9-7). -/
def helloPayload (s : State) (kind p : Nat) (ack : Bool) : List Byte :=
  let crd := fun (i : Nat) => if ack then laneGrant.getD i 0 else 0
  leBytes 32 (kind + ofBool s.fabric.assigned * 2 ^ 8 + (if s.cfg = .izS then 1 else 0) * 2 ^ 9 + ofBool s.disc.aStack * 2 ^ 10 +
    p * 2 ^ 16 + 0x030200 * 2 ^ 32 + s.fabric.epoch % 2 ^ 32 * 2 ^ 64 + crd 0 * 2 ^ 96 + crd 1 * 2 ^ 112 + crd 2 * 2 ^ 128)

/-- Queue a HELLO of a kind (0 DISCOVER, 1 HEARTBEAT, 2 CREDIT) or a HELLO_ACK. -/
def State.sendHello (s : State) (p kind : Nat) (ack : Bool) : State :=
  s.enqueue p (s.packet (if ack then 0x02 else 0x01) 0 false (helloPayload s kind p ack))

/-- The link state as TOPO reports it (Table 9-8). -/
def topoLink (s : State) (p : Nat) : Nat :=
  if links s.cfg ≤ p then 3
  else match (s.link p).st with
    | .down => 0
    | .bringup => 0
    | .up => 1
    | .fenced => 2

/-- The digest excerpt of the admitted Formula: bytes 0 to 7 of the DIGEST as they lie in memory (R9, R261). -/
def digest64 (s : State) : Nat :=
  match s.formula with
  | some f => leVal ((beBytes 48 f.digest).take 8)
  | none => 0

/-- This engine's TOPO payload (Table 9-8). -/
def topoPayload (s : State) : List Byte :=
  let peer := fun (p : Nat) => ((s.link p).peer).getD 0xFFFFF
  leBytes 32 (s.ea + ofBool s.fabric.assigned * 2 ^ 20 + s.smp.level % 4 * 2 ^ 24 + s.fabric.epoch % 2 ^ 32 * 2 ^ 32 +
    topoLink s 0 * 2 ^ 64 + topoLink s 1 * 2 ^ 66 + peer 0 % 2 ^ 20 * 2 ^ 96 + peer 1 % 2 ^ 20 * 2 ^ 128 + digest64 s * 2 ^ 192)

/-- Queue TOPO on one link. -/
def State.sendTopo (s : State) (p : Nat) : State := s.enqueue p (s.packet 0x03 0 false (topoPayload s))

/-- Queue TOPO on every UP link. -/
def State.sendTopoAll (s : State) : State :=
  eachIn ((List.range (links s.cfg)).filter (fun p => decide ((s.link p).st = .up))) State.sendTopo s

/-- Send TOPO again on each UP link when a field of it has changed (R261). -/
def State.topoIfChanged (s : State) : State :=
  let t := topoPayload s
  if s.fabric.lastTopo = t then s else (s.sendTopoAll).modFabric (fun f => { f with lastTopo := t })

end Sys2Proof.Machine
end

