-- ==== Sys2Proof/Machine/LongOps.lean ====
section
/-! DEFINITION. Long operations (R345 to R350): start, end, what a cancel leaves (Table 12-16); the end of an admission; the fall of a
class X error (R30, R387). -/

namespace Sys2Proof.Machine

open Sys2Proof.Bits

/-! ### Command codes (Table 12-10) -/

def cAdmit : Nat := 0x0103
def cEvalOpen : Nat := 0x0107
def cFlaconWrite : Nat := 0x0301
def cRestore : Nat := 0x0302
def cAdopt : Nat := 0x0304
def cDecantFull : Nat := 0x0305
def cInitRegion : Nat := 0x0501
def cBlotterDump : Nat := 0x0502
def cSelfTest : Nat := 0x0503
def cScrubPass : Nat := 0x0504
def cFwLoad : Nat := 0x0601
def cFwCommit : Nat := 0x0603
def cRecoveryLoad : Nat := 0x0604

/-- The level that Table 12-10 gives for a long operation. -/
def opLevel (code : Nat) : Nat :=
  if code = cAdopt then 3 else if code = cFwLoad ∨ code = cRecoveryLoad then 1 else 2

/-! ### Lookup -/

/-- A live operation. -/
def State.findOp (s : State) (h : Nat) : Option LongOp := s.ops.find? (fun o => decide (o.handle = h))

/-- A live or retained operation. -/
def State.anyOp (s : State) (h : Nat) : Option LongOp :=
  match s.findOp h with
  | some o => some o
  | none => s.retained.find? (fun o => decide (o.handle = h))

/-- Change a live operation. -/
def State.modOp (s : State) (h : Nat) (f : LongOp → LongOp) : State :=
  { s with ops := s.ops.map (fun o => if o.handle = h then f o else o) }

/-- Whether an operation of a code is live. -/
def State.live (s : State) (code : Nat) : Bool := s.ops.any (fun o => decide (o.code = code))

/-- Codes of Table 12-14. -/
def OpSt.code : OpSt → Nat
  | .running => 1
  | .waiting => 2
  | .suspending => 3
  | .suspended => 4
  | .waitInput => 5
  | .done => 6
  | .failed => 7
  | .cancelled => 8

/-- A parameter of the request that started an operation. -/
def LongOp.p (o : LongOp) (off n : Nat) : Nat := field o.par (8 * (off - 8)) (8 * n)

/-! ### Start (R345, R349) -/

/-- The next handle that is neither 0 nor the handle of a live or retained operation (R345). -/
def freshHandle (used : List Nat) : Nat → Nat → Nat
  | 0, h => h
  | fuel + 1, h => if h = 0 ∨ used.contains h then freshHandle used fuel ((h + 1) % 2 ^ 16) else h

/-- The operations that exclude one another (R349). -/
def exclusive (code : Nat) : Bool := [cAdmit, cRestore, cAdopt, cFlaconWrite].contains code

/-- The Decant copy operations: DECANT_FULL and the EMA Decant of EVAL_OPEN (R295). -/
def decantCode (code : Nat) : Bool := decide (code = cDecantFull) || decide (code = cEvalOpen)

/-- Whether two byte ranges of INIT_REGION overlap. -/
def initOverlap (a b : LongOp) : Bool := overlap (a.p 8 8) (a.p 16 8) (b.p 8 8) (b.p 16 8)

/-- Whether R349 refuses the start of an operation. -/
def State.opConflict (s : State) (o : LongOp) : Bool :=
  (exclusive o.code && s.ops.any (fun x => exclusive x.code)) ||
  (decantCode o.code && (s.live cRestore || s.live cAdopt || s.ops.any (fun x => decantCode x.code))) ||
  (decide (o.code = cSelfTest) && !s.ops.isEmpty) || s.live cSelfTest ||
  (decide (o.code = cInitRegion) && s.ops.any (fun x => decide (x.code = cInitRegion) && initOverlap o x)) ||
  (decide (o.code ≠ cInitRegion) && s.live o.code)

/-- Start an operation: CONFLICT, then NO_RESOURCE at eight live operations (R345), else the new state with its handle. -/
def State.startOp (s : State) (code par total result : Nat) (st : OpSt) : Except Nat (State × Nat) :=
  let o : LongOp := { handle := 0, code := code, st := st, total := total, result := result, par := par }
  if s.opConflict o then .error stConflict
  else if 8 ≤ s.ops.length then .error stNoResource
  else
    let used := s.ops.map LongOp.handle ++ s.retained.map LongOp.handle
    let h := freshHandle used 32 s.nextHandle
    .ok ({ s with ops := s.ops ++ [{ o with handle := h }], nextHandle := (h + 1) % 2 ^ 16 }, h)

/-! ### End (R345) -/

/-- Whether an operation holds channels in PROC with no Formula admitted (R170). -/
def LongOp.holdsChannels (o : LongOp) : Bool := [cInitRegion, cBlotterDump, cScrubPass].contains o.code

/-- Keep the 16 operations that ended most recently (R345). -/
def retain (l : List LongOp) (o : LongOp) : List LongOp := (l ++ [o]).drop (l.length + 1 - 16)

/-- The channels that an operation names (R170): SCRUB_PASS those of its mask; a region of INIT_REGION and a copy of the Blotter ring reach
every channel. -/
def State.opChannels (s : State) (o : LongOp) : List Nat :=
  if o.code = cScrubPass then s.channelList.filter (fun c => bit (o.p 8 4) c) else s.channelList

/-- The operations that run only within LONGOP reservations (R170). -/
def inReservation (code : Nat) : Bool := [cInitRegion, cDecantFull, cBlotterDump, cScrubPass, cSelfTest].contains code

/-- The bytes that an operation reads from the staging region at its request's PTR: the image of ADMIT, the bundle of FW_LOAD and
RECOVERY_LOAD. -/
def LongOp.reads (o : LongOp) : Nat := if [cAdmit, cFwLoad, cRecoveryLoad].contains o.code then o.p 16 4 else 0

/-- Whether an operation takes bytes from the staging region: those of its own pointer, or the pieces of RESTORE FAR (R360). -/
def LongOp.stages (o : LongOp) : Bool :=
  [cAdmit, cFwLoad, cRecoveryLoad].contains o.code || (decide (o.code = cRestore) && decide (o.p 12 1 = 1))

/-- The staging bytes that an operation has read: with a Formula admitted as they stand, with none what loans have brought (R360). -/
def State.staged (s : State) (o : LongOp) : List Byte := if s.formula.isSome then s.dramBytes (o.p 8 8) (o.p 16 4) else o.input

/-- Whether a channel belongs to the CHMASK of a LONGOP reservation of the admitted Formula. -/
def State.longopChannel (s : State) (ch : Nat) : Bool :=
  s.form.reservations.any (fun (r : Reservation) => decide (r.kind = 4) && bit r.chmask ch)

/-- Whether an operation can have done its work: with a Formula admitted, LONGOP reservations reach every channel that it names (R167, R170)
or that holds the staging bytes which it takes (R360); with none, loans have brought those bytes (R360), and the channels that it holds are in
PROC with their catch-up paid and their latencies known (R300). A fenced channel takes no work. -/
def State.opReady (s : State) (o : LongOp) : Bool :=
  if s.formula.isSome then
    !(inReservation o.code || o.stages) || (s.opChannels o).all (fun c => (s.chan c).fenced || s.longopChannel c)
  else decide (o.reads ≤ o.input.length) &&
    (!o.holdsChannels || (s.opChannels o).all (fun c => (s.chan c).fenced || s.chanReady c))

/-- The channels that no live operation holds any more, of those that an ended one held. -/
def State.freedChannels (s : State) (o : LongOp) : List Nat :=
  (s.opChannels o).filter (fun c => !s.ops.any (fun x => x.holdsChannels && (s.opChannels x).contains c))

/-- End an operation: it is retained with its final state and OP_DONE is posted (R345). With no Formula admitted, channels that it alone
held return to MEM (R170). -/
def State.endOp (s : State) (o : LongOp) (st : OpSt) (status detail result : Nat) : State :=
  let o := { o with st := st, status := status, detail := detail, result := result }
  let s := { s with ops := s.ops.filter (fun x => decide (x.handle ≠ o.handle)), retained := retain s.retained o }
  let s := if o.holdsChannels && s.formula.isNone && !s.loan.isOpen then s.transitAll (s.freedChannels o) .toMem else s
  s.post 0x0401 4 7 o.handle status o.code

/-! ### What a cancel leaves (Table 12-16) -/

/-- Record the end of a generation's emission: FLACON_EMITTED and the Flacon record (R279). -/
def State.emissionEnd (s : State) (gen : Nat) (failed : Bool) (cause : Nat) : State :=
  let em := s.emission
  let t := fun (g : Emission → Nat) => (em.map g).getD 0
  let near := (em.map Emission.near).getD false
  let s := s.post 0x0303 2 7 gen (ofBool failed) cause
  let s := s.blot (blotRecord 0x07 (ofBool near + 2 * ofBool failed) s.run.lastStep
    (gen % 2 ^ 32 + t Emission.holdEnd * 2 ^ 32 + t Emission.nearTime * 2 ^ 96 + t Emission.farTime * 2 ^ 160))
  let s := if failed then s else s.modRun (fun r => { r with times := { r.times with p4 := s.time } })
  { s with emission := none, outPages := s.outPages.filter (fun p => decide (p.kind ≠ 1 ∨ p.gen ≠ gen)) }

/-- Poison a shard (R112): POISON = 1 in its readiness word. -/
def State.poison (s : State) (i : Nat) : State :=
  s.modShard i (fun h => { h with ready := { h.ready with poison := true }, windowFence := false })

/-- Poison a shard with an error record of class S. -/
def State.poisonWith (s : State) (i : Nat) (e : ErrSpec) : State := (s.poison i).error e

/-- The SHARD_POISONED record of a shard (Table 14-3). -/
def shardPoisoned (i cause : Nat) : ErrSpec :=
  { code := 0x0602, cls := .sh, unit := 0x000A, index := 0, shard := i, arg0 := cause }

/-- The parity of the buffer that a Decant operation writes: a full copy writes that of the image's VERSION while the readiness word
shows 0; in every other case it is (VERSION + 1) mod 2 (R285, R341, R295). -/
def State.decantParity (s : State) (ema : Bool) (i : Nat) : Nat :=
  let h := s.shard i
  (if h.ready.version = 0 ∧ ema = false then h.imageVersion else h.ready.version + 1) % 2

/-- The owned shards and the source stream that a Decant operation copies: P of the shards FIRST to LAST with D, or E of every shard
with E and D. -/
def State.decantWork (s : State) (o : LongOp) : List (Nat × ShardEntry × Desc × Desc) :=
  let src := if o.code = cEvalOpen then 5 else 0
  s.ownedShards.filterMap (fun i =>
    match shardEntry s.form i with
    | none => none
    | some e =>
      match descOf s.form e src, descOf s.form e 6 with
      | some p, some d =>
        if o.code = cEvalOpen ∨ (o.p 8 4 ≤ i ∧ i ≤ o.p 12 4) then some (i, e, p, d) else none
      | _, _ => none)

/-- Bytes of a repeated 8-byte pattern. -/
def patternBytes (pat len : Nat) : List Byte := (List.range len).map (fun i => BitVec.ofNat 8 (pat / 256 ^ (i % 8)))

/-- Fill a range with the pattern; its words no longer carry the poison code (R222). -/
def State.fillRegion (s : State) (base len pat : Nat) : State :=
  { s.writeDram base (patternBytes pat len) with
    poisonWords := s.poisonWords.filter (fun w => decide (w < base) || decide (base + len ≤ w)) }

/-- Ring slots of the Blotter (R288). -/
def ringSlots (b : Blotter) : Nat := b.mib * 16384

/-- The stack address of the ring slot of a record. -/
def ringAddr (b : Blotter) (r : Nat) : Nat := b.base + r % (ringSlots b) * 64

/-- The oldest record that the ring holds: records lie in the ring up to the count written, at most one ring back (R288). -/
def State.oldestRecord (s : State) : Nat := s.blotter.inRing - ringSlots s.blotter

/-- The records from RSEQ r on that the ring holds. -/
def State.ringRecords (s : State) (r : Nat) : List Nat :=
  let d := max r s.oldestRecord
  ((List.range (s.blotter.inRing - d)).map (fun i => d + i)).filter (fun i =>
    !s.blotter.gaps.any (fun (g : Nat × Nat) => decide (g.1 ≤ i) && decide (i ≤ g.2)))

/-- Copy n Blotter records from RSEQ r on to a stack address. -/
def State.copyRecords (s : State) (ptr r n : Nat) : State :=
  eachIn (((s.ringRecords r).take n).zipIdx) (fun s x => s.writeDram (ptr + 64 * x.2) (s.dramBytes (ringAddr s.blotter x.1) 64)) s

/-- What the cancel of an operation leaves (Table 12-16). -/
def State.cancelLeaves (s : State) (o : LongOp) : State :=
  if o.code = cFlaconWrite then s.emissionEnd (o.result % 2 ^ 32) true 0
  else if o.code = cRestore then
    let s := eachIn s.ownedShards (fun s i => s.poisonWith i (shardPoisoned i 2)) s
    { s with anchorBlocked := true }
  else if decantCode o.code then
    eachIn (s.decantWork o) (fun s w => s.undefineDecant w.2.1 w.2.2.2 (s.decantParity (decide (o.code = cEvalOpen)) w.1)) s
  else if o.code = cInitRegion then s.fillRegion (o.p 8 8) o.done (o.p 24 8)
  else if o.code = cBlotterDump then s.copyRecords (o.p 16 8) (o.p 8 8) o.done
  else if (o.code = cFwLoad ∧ o.p 20 1 = 0) ∨ o.code = cRecoveryLoad then
    s.modFw (fun w => { w with slots := modV w.slots (o.result % 256) (fun c => { c with st := .invalid }) })
  else s

/-- End an operation CANCELLED (R347). -/
def State.cancelOp (s : State) (o : LongOp) : State := (s.cancelLeaves o).endOp o .cancelled stCancelled 0 o.result

/-- End an operation FAILED, leaving what its cancel leaves (R350, R385). -/
def State.failOp (s : State) (o : LongOp) (status : Nat) : State := (s.cancelLeaves o).endOp o .failed status 0 o.result

/-- End every live operation whose level exceeds a level, with LEVEL_LOST (R350). -/
def State.levelLost (s : State) (level : Nat) : State :=
  eachIn (s.ops.filter (fun o => decide (level < opLevel o.code))) (fun s o => s.failOp o stLevelLost) s

/-! ### Answers of the MC (R333, R337) -/

/-- Write a response: RSP_VALID, BUSY clear, MBX_DONE (R333). -/
def State.deliver (s : State) (m : Nat) (w : BitVec 512) : State :=
  let s := s.modMbx m (fun b => { b with rsp := w, rspValid := true, busy := false, held := false })
  s.post 0x0001 6 7 m (field w.toNat 16 16) (field w.toNat 32 16)

/-- Answer the request that a mailbox has taken. When the request was accepted into the sequence the response is stored and the
session timer restarts (R335, R337). -/
def State.respond (s : State) (m : Nat) (sequenced : Bool) (r : Rsp) : State :=
  let t := (s.mbx m).taken.toNat
  let w := r.word (field t 0 16) (field t 16 16)
  let s := if sequenced then s.modMbx m (fun b => { b with stored := w, timer := s.time }) else s
  s.deliver m w

/-- Whether the request taken by a mailbox was accepted into its sequence: it carries the token of the open session (R338). -/
def Mailbox.sequenced (b : Mailbox) : Bool :=
  match b.session with
  | some t => decide (field b.taken.toNat 32 32 = t.toNat)
  | none => false

/-- Whether a mailbox's request is being executed: taken, not answered, and not waiting in the doorbell queue (R339, R340). -/
def State.executing (s : State) (m : Nat) : Bool := (s.mbx m).busy && !s.fw.heldQueue.contains m

/-- Answer a request that still waits in the doorbell queue: checks 1 and 2 of R338 come first, so a replay gets the stored response and
only an accepted request moves LAST and the stored response (R335). -/
def State.answerQueued (s : State) (m : Nat) (r : Rsp) : State :=
  let b := s.mbx m
  let t := b.taken.toNat
  let d := (field t 16 16 + 65536 - b.last.toNat) % 65536
  if b.sequenced && decide (field t 0 16 ≠ 2) then
    if d = 0 then s.deliver m b.stored
    else if d = 1 then (s.modMbx m (fun b => { b with last := BitVec.ofNat 16 (field t 16 16) })).respond m true r
    else s.respond m false r
  else s.respond m false r

/-- Every request that a mailbox has taken ends with LEVEL_LOST (R350). -/
def State.requestsLost (s : State) : State :=
  eachIn [0, 1, 2, 3] (fun s m =>
    if s.executing m then s.respond m (s.mbx m).sequenced (Rsp.of stLevelLost)
    else if (s.mbx m).busy then s.answerQueued m (Rsp.of stLevelLost) else s) s

/-! ### The end of an admission, and the fall -/

/-- Aperture marks of an admission that ends: their banks answer as on an owned channel until the next precharge (R302). -/
def Channel.endClaims (c : Channel) : Channel := { c with stale := c.stale ++ c.marks, marks := [] }

/-- With the windows gone no EGRESS window is full any more: packets that waited in its buffers give their credits back (R246). -/
def State.egressLeave (s : State) : State :=
  (eachIn s.fabric.egrHeld (fun s (h : HeldPkt) => s.leave h.via h.pkt) s).modFabric (fun f => { f with egrHeld := [] })

/-- The admission ends: the aperture closes and the run ends (R341, R387), and TOPO shows no DIGEST any more (R261). What the run counts
(NEXT, u, the generation) stays. -/
def State.endAdmission (s : State) : State :=
  let s := s.egressLeave
  let s := { s with formula := none, chans := mapV Channel.endClaims s.chans, bounds := [], waits := [], latest := [], shards := [], wins := [], envs := [], atmResults := [],
                    emission := none, outPages := [], anchorBlocked := false }
  let s := s.modRun (fun r => { r with
    anchored := false, stepBegin := false, arrived := false, stopping := false, eval := .closed, steps := [], cutNext := 0 })
  let s := s.modStills (fun t => { t with passes := [], pos := [], current := none, nextRec := none, takeover := [] })
  let s := { s with atm := mapV (fun (a : AtmChannel) => { a with seg := none, segIdx := 0, units := [] }) s.atm }
  (s.modFabric (fun f => { f with rounds := [] })).topoIfChanged

/-- The fall to S0 begins (R30, R387): operations and requests end with LEVEL_LOST, the admission, the aperture and the run end, the
channels return to MEM. -/
def State.startFall (s : State) : State :=
  let s := (s.levelLost 0).requestsLost
  let s := s.endAdmission.channelsToMem
  let s := s.modFw (fun w => { w with handover := .none, commit := none, heldQueue := [], stage := [], fetching := false, fetch := [], warmWait := false })
  { s with fall := true, loan := { s.loan with isOpen := false, transferred := false } }

/-- A class X error (R387): recorded; a second one during a fall changes nothing else. -/
def State.classX (s : State) (e : ErrSpec) : State :=
  let s := s.error e
  if s.fall then s else s.startFall

end Sys2Proof.Machine
end

