-- ==== Sys2Proof/Machine/Carrier.lean ====
section
/-! DEFINITION. Logical and physical Stills: the map, the spare, the fence of a physical Still and the change of carrier (R83 to R87),
ENVELOPE reports (R189), requests for power (R27, R321). -/

namespace Sys2Proof.Machine

open Sys2Proof.Bits

/-! ### Requests for power -/

/-- Request power for a domain: PWR_REQ rises only while it equals PWR_ACK (R321). -/
def Dom.request (d : Dom) (t : Nat) : Dom :=
  if !d.req && !d.ack then { d with req := true, since := t, slow := false, lost := false } else d

def State.requestDom (s : State) (i : Nat) : State := s.modDom i (fun d => d.request s.time)

/-! ### The map -/

/-- The map word (Table 4-2). -/
def mapWord (c : Cfg) (t : Stills) : Nat :=
  (List.range 8).foldl (fun a k => a + (if k < logicals c then t.map.getD k 0xF % 16 else 0xF) * 16 ^ k) 0

/-- Whether a physical Still is healthy: not fenced, whether by fuse or fault. -/
def healthyStill (c : Cfg) (t : Stills) (i : Nat) : Bool := decide (i < physicals c) && !t.fenced.contains i

/-- How many logical Stills a physical Still carries. -/
def carries (c : Cfg) (t : Stills) (i : Nat) : Nat := ((t.map.take (logicals c)).filter (fun x => decide (x = i))).length

/-- The healthy physical Stills, ascending. -/
def healthyStills (c : Cfg) (t : Stills) : List Nat := (List.range (physicals c)).filter (healthyStill c t)

/-- The spare: a healthy physical Still that carries nothing; the one cleared last first (R87), else the highest-numbered. -/
def spareStill (c : Cfg) (t : Stills) : Option Nat :=
  let free := (healthyStills c t).filter (fun i => decide (carries c t i = 0))
  if free.contains t.spare then some t.spare else free.getLast?

/-- The new carrier of a logical Still (R85): the spare, else the lowest-numbered healthy Still that carries exactly one. -/
def newCarrier (c : Cfg) (t : Stills) : Option Nat :=
  match spareStill c t with
  | some i => some i
  | none => (healthyStills c t).find? (fun i => decide (carries c t i = 1))

/-- Whether some physical Still carries two logical Stills (R86). -/
def anyDoubled (c : Cfg) (t : Stills) : Bool := (healthyStills c t).any (fun i => decide (2 ≤ carries c t i))

/-- The map that an admission sets (R83, R84), or none when doubling cannot give every logical Still a carrier. -/
def admissionMap (c : Cfg) (t : Stills) : Option (List Nat) :=
  let h := healthyStills c t
  let ls := logicals c
  if h.length < ceilDiv ls 2 then none
  else some ((List.range 8).map (fun k => if k < ls then (if k < h.length then h.getD k 0xF else h.getD (k - h.length) 0xF) else 0xF))

/-! ### ENVELOPE (R189) -/

def envRemap : Nat := 0x05

/-- Report an ENVELOPE event, once for each shard and step, counted in BACKGROUND (R189, R395). -/
def State.envelope (s : State) (shard step reason : Nat) : State :=
  if (s.shard shard).envReported then s
  else
    let s := s.modShard shard (fun h => { h with envReported := true })
    let s := (s.post 0x0101 0 7 shard step reason).count 8 32 4 1
    s.modRun (fun r => { r with times := { r.times with env := true } })

/-! ### The fence of a physical Still -/

/-- Move one logical Still to its new carrier: passes on it are marked REMAPPED and wait for STILL_TAKEOVER (R86, R111). -/
def State.moveStill (s : State) (k : Nat) : State :=
  match newCarrier s.cfg s.stills with
  | some j =>
    let run := s.formula.isSome
    let s := s.modStills (fun t => { t with map := t.map.set k j, takeover := if run then t.takeover ++ [(k, j, s.time)] else t.takeover })
    let s := if run then s.requestDom (4 + j) else s
    let hit := s.stills.passes.filter (fun p => p.stripes.any (fun x => decide (x.still = k)))
    let s := eachIn hit (fun s p => s.envelope p.shard p.step envRemap) s
    s.modStills (fun t => { t with
      passes := t.passes.map (fun p => if p.stripes.any (fun x => decide (x.still = k)) then { p with remapped := true } else p) })
  | none => s.modStills (fun t => { t with map := t.map.set k 0xF, noCarrier := true })

/-- The logical Stills that a physical Still carries. -/
def carriedBy (c : Cfg) (t : Stills) (i : Nat) : List Nat :=
  (List.range (logicals c)).filter (fun k => decide (t.map.getD k 0xF = i))

/-- Take a physical Still out: each logical Still that it carried goes to a new carrier (R85). -/
def State.dropStill (s : State) (i : Nat) : State :=
  if s.stills.fenced.contains i then s
  else
    let ks := carriedBy s.cfg s.stills i
    let s := s.modStills (fun t => { t with fenced := t.fenced ++ [i], map := t.map.map (fun x => if x = i then 0xF else x) })
    eachIn ks (fun s k => s.moveStill k) s

/-- Fence a physical Still (R85); when a logical Still finds no carrier, every pass stops and the error is NO_CARRIER of class J. One record
whose class is the last consequence (R379): it is made from the new map word and the shard of a pass that ran there. -/
def State.fenceStillBy (s : State) (i : Nat) (mk : Nat → Nat → ErrSpec) : State :=
  if s.stills.fenced.contains i then s.error (mk (mapWord s.cfg s.stills) 0xFFFFFFFF)
  else
    let ks := carriedBy s.cfg s.stills i
    let s := s.dropStill i
    let lost := ks.find? (fun k => decide (s.stills.map.getD k 0xF = 0xF))
    match lost with
    | some k => s.error { code := 0x0302, cls := .j, unit := 0x0001, index := i, arg0 := k }
    | none =>
      let shard := ((s.stills.passes.find? (fun p => p.started && p.stripes.any (fun x => ks.contains x.still))).map Pass.shard)
      s.error (mk (mapWord s.cfg s.stills) (shard.getD 0xFFFFFFFF))

/-- Fence a physical Still after a fault of its own (R110, SELF_TEST). -/
def State.fenceStill (s : State) (i : Nat) : State :=
  s.fenceStillBy i (fun map shard => { code := 0x0301, cls := .f, unit := 0x0001, index := i, shard := shard, arg0 := map })

/-- Fence the key island (class F, KEY_LOST): Accords and programs that use Sillage bits stop (R382). -/
def State.fenceKey (s : State) (cause : Nat) : State :=
  let s := { s with keyFenced := true }
  s.error { code := 0x0705, cls := .f, unit := 0x0007, index := 0, arg0 := cause }

end Sys2Proof.Machine
end

