-- ==== Sys2Proof/Machine/Fabric.lean ====
section
/-! DEFINITION. The fabric's sending side (09_engine_fabric.md): routes, batches, and the trees of R142 and R149. -/

namespace Sys2Proof.Machine

open Sys2Proof.Bits
open Sys2Proof.Hash

/-! ### Routing (R257, R258) -/

/-- A field of a route entry (Table 9-11). -/
def routeFld (e : BitVec 64) (lo n : Nat) : Nat := field e.toNat lo n

/-- Whether an entry matches a destination: the top LEN bits agree. -/
def routeMatch (e : BitVec 64) (dst : Nat) : Bool :=
  let len := routeFld e 20 5
  decide (routeFld e 0 20 / 2 ^ (20 - len) = dst / 2 ^ (20 - len))

/-- Whether some EGRESS window is enabled. -/
def State.egressEnabled (s : State) : Bool := s.form.windows.any (fun w => w.enable && decide (w.kind = 2))

/-- Whether a port is down (R258); port 3 drops and is never down. -/
def State.portDown (s : State) (port : Nat) : Bool :=
  if port = 2 then !s.egressEnabled
  else if port = 3 then false
  else decide (links s.cfg ≤ port) || decide ((s.link port).st ≠ .up)

/-- The route of a destination: the entry chosen, and how many ROUTE_DUP matches were met, by ascending index. -/
def routeWalk (down : Nat → Bool) (dst : Nat) : List (BitVec 64 × Nat) → Option (BitVec 64) → List Nat → Option (BitVec 64) × List Nat
  | [], best, dups => (best, dups)
  | (e, i) :: es, best, dups =>
    if !bit e.toNat 25 || !routeMatch e dst || down (routeFld e 26 2) then routeWalk down dst es best dups
    else match best with
      | none => routeWalk down dst es (some e) dups
      | some b =>
        if routeFld b 20 5 < routeFld e 20 5 then routeWalk down dst es (some e) dups
        else if routeFld b 20 5 = routeFld e 20 5 then routeWalk down dst es best (dups ++ [i])
        else routeWalk down dst es best dups

/-- A drop for want of a route (class C). -/
def State.noRoute (s : State) (dst : Nat) : State :=
  (s.count 4 2 11 1).error { code := 0x0506, cls := .c, unit := 0x000F, arg0 := dst }

/-! ### Batches (R245) -/

/-- Bytes of a batch with its packets: each packet at the next 64-byte boundary after the previous one. -/
def batchBytes (ps : List Packet) : Nat := ps.foldl (fun b k => roundUp b 64 + 32 + k.payload.length) 64

/-- The lowest-indexed enabled EGRESS window. -/
def State.egressWindow (s : State) : Nat := (s.form.windows.findIdx? (fun w => w.enable && decide (w.kind = 2))).getD 0

/-- Close the open batch of a next hop; it waits to be published in its EGRESS window. -/
def State.closeBatch (s : State) (dst : Nat) : State :=
  s.modFabric (fun f => { f with batches := f.batches.map (fun b => if b.dst = dst ∧ b.closed = false then { b with closed := true } else b) })

/-- Append a packet to the open batch of its next hop; a VL0 or VL1 packet closes it, and one that would not fit opens the next. -/
def State.appendBatch (s : State) (dst : Nat) (k : Packet) : State :=
  let k := stampPacket k 0 [0, 0, 0]
  let openB := s.fabric.batches.find? (fun b => decide (b.dst = dst) && !b.closed)
  let fits := match openB with
    | some b => decide (batchBytes (b.pkts ++ [k]) ≤ 65536)
    | none => false
  let s := if fits then
      s.modFabric (fun f => { f with batches := f.batches.map (fun b =>
        if b.dst = dst ∧ b.closed = false then { b with pkts := b.pkts ++ [k] } else b) })
    else
      (s.closeBatch dst).modFabric (fun f => { f with
        batches := f.batches ++ [{ dst := dst, win := s.egressWindow, since := s.time, pkts := [k] }] })
  if laneOf k.type = 2 then s else s.closeBatch dst

/-- Route a packet that is not for this engine (R258). -/
def State.routePacket (s : State) (k : Packet) : State :=
  let r := routeWalk s.portDown k.dst s.fabric.routes.zipIdx none []
  let s := eachIn r.2 (fun s i => (s.count 4 2 10 1).error { code := 0x0507, cls := .c, unit := 0x000F, arg0 := i }) s
  match r.1 with
  | none => s.noRoute k.dst
  | some e =>
    let port := routeFld e 26 2
    if port = 3 then s.noRoute k.dst
    else if port = 2 then s.appendBatch (if routeFld e 32 20 = 0xFFFFF then k.dst else routeFld e 32 20) k
    else s.enqueue port k

/-- Send a packet that this engine originates: none leaves an unassigned engine (R243) or goes to a fenced EA (R263). -/
def State.send (s : State) (type dst : Nat) (poison : Bool) (payload : List Byte) : State :=
  if !s.fabric.assigned || s.fabric.fences.contains dst then s else s.routePacket (s.packet type dst poison payload)

/-! ### Trees (R142, R149) -/

/-- The reduction group of a tree plan: the members whose EA matches the prefix. -/
def treeGroup (members : List Nat) (pfx pfxLen : Nat) : List Nat :=
  members.filter (fun m => decide (m / 2 ^ (20 - pfxLen) = pfx / 2 ^ (20 - pfxLen)))

/-- The order of a bulk tree: the sorted group, rotated so that the owner comes first. -/
def treeOrder (members : List Nat) (owner : Nat) : List Nat :=
  match members.findIdx? (fun m => decide (m = owner)) with
  | some p => members.drop p ++ members.take p
  | none => members

/-- The parent of an engine in a tree order of fan-in f; none at the root. -/
def treeParent (order : List Nat) (f me : Nat) : Option Nat :=
  match order.findIdx? (fun m => decide (m = me)) with
  | some 0 => none
  | some i => order[(i - 1) / f]?
  | none => none

/-- The children of an engine in a tree order, in ascending child index. -/
def treeChildren (order : List Nat) (f me : Nat) : List Nat :=
  match order.findIdx? (fun m => decide (m = me)) with
  | some i => slice order (f * i + 1) f
  | none => []

/-- The bulk tree of a shard. -/
def State.shardOrder (s : State) (e : ShardEntry) : List Nat :=
  treeOrder (treeGroup s.fabric.members e.pfx e.pfxLen) e.owner

def State.shardParent (s : State) (e : ShardEntry) : Option Nat := treeParent (s.shardOrder e) e.fanin s.ea
def State.shardChildren (s : State) (e : ShardEntry) : List Nat := treeChildren (s.shardOrder e) e.fanin s.ea

/-- The scalar tree (R149): fan-in 16 over the whole membership, rooted at the lowest EA. -/
def State.scalarParent (s : State) : Option Nat := treeParent s.fabric.members 16 s.ea
def State.scalarChildren (s : State) : List Nat := treeChildren s.fabric.members 16 s.ea

end Sys2Proof.Machine
end

