-- ==== Sys2Proof/Machine/Landing.lean ====
section
/-! DEFINITION. Landing pages and their return (R128 to R130), envelope books (R178, R189), the reduction's lookups: GRAD windows, ranks
and chunks (R137, R143, R145), and the promotion of contributions that were early (R133, R136). -/

namespace Sys2Proof.Machine

open Sys2Proof.Bits
open Sys2Proof.Hash
open Sys2Proof.Convert

/-! ### Intake counters and errors (Table 5-5) -/

def iHdrBad : Nat := 1
def iPcrcBad : Nat := 2
def iStale : Nat := 3
def iFarEarly : Nat := 4
def iEarly : Nat := 5
def iDuplicate : Nat := 6
def iPoisonDrop : Nat := 7
def iMultiMatch : Nat := 8
def iCredit : Nat := 9
def iBatchBad : Nat := 10
def iBatchDup : Nat := 11

/-- Count an intake case of a window and log it as a class C record (Table 5-5). -/
def State.intakeError (s : State) (w num code arg shard : Nat) : State :=
  (s.count 2 w num 1).error { code := code, cls := .c, unit := 0x0005, index := w, shard := shard, arg0 := arg }

/-! ### Pages -/

/-- A granule of a page. -/
def Page.find (p : Page) (g : Nat) : Option (BitVec 256) := (p.gran.find? (fun e => decide (e.1 = g))).map Prod.snd

/-- Write a granule; one written twice keeps the last write (R130). -/
def Page.put (p : Page) (g : Nat) (d : BitVec 256) : Page :=
  { p with gran := p.gran.filter (fun e => decide (e.1 ≠ g)) ++ [(g, d)] }

/-- The page with a running count, if it holds anything. -/
def Win.page (w : Win) (n : Nat) : Option Page := w.pages.find? (fun p => decide (p.num = n))

/-- Granule g of the span that begins at page first: 2,048 granules per page. -/
def Win.gran (w : Win) (first g : Nat) : Option (BitVec 256) := (w.page (first + g / 2048)).bind (fun p => p.find (g % 2048))

/-- Whether every granule of the first len bytes of a span has been written. -/
def Win.filled (w : Win) (first len : Nat) : Bool :=
  (List.range (ceilDiv len 32)).all (fun g => (w.gran first g).isSome)

/-- Bytes off to off + len - 1 of a span. -/
def Win.bytes (w : Win) (first off len : Nat) : List Byte :=
  (List.range len).map (fun i =>
    let a := off + i
    BitVec.ofNat 8 (field ((w.gran first (a / 32)).getD 0).toNat (8 * (a % 32)) 8))

/-- Write a granule of the page with a running count; the first granule of a page notes RETURNED. -/
def Win.write (w : Win) (n g : Nat) (d : BitVec 256) : Win :=
  match w.page n with
  | some _ => { w with pages := w.pages.map (fun p => if p.num = n then p.put g d else p) }
  | none => { w with pages := w.pages ++ [{ num := n, gran := [(g, d)], ret0 := w.returned }] }

/-- Note when a write landed for which no header stands yet. -/
def Win.noteTime (w : Win) (n t : Nat) : Win :=
  { w with pages := w.pages.map (fun p => if p.num = n then { p with times := p.times ++ [t] } else p) }

/-- The running count of the page with a ring index among the ISSUED pages from RETURNED on. -/
def Win.runningPage (w : Win) (issued ring : Nat) : Nat := w.returned + (ring + issued - w.returned % issued) % issued

/-- The landed entry that holds a page. -/
def Win.holder (w : Win) (n : Nat) : Option Landed :=
  w.landed.find? (fun l => decide (l.first ≤ n) && decide (n < l.first + l.span))

/-- How many pages the consumed entries at the head of the ring span. -/
def consumedPages : List Landed → Nat
  | [] => 0
  | l :: ls => if l.st = .consumed then l.span + consumedPages ls else 0

/-- Return consumed pages in ring order (R129). A return crosses the joint within the command that consumes (log entry 5). -/
def Win.giveBack (w : Win) : Win :=
  let r := w.returned + consumedPages w.landed
  { w with returned := r, landed := w.landed.dropWhile (fun l => decide (l.st = .consumed)),
           pages := w.pages.filter (fun p => decide (r ≤ p.num)) }

/-- Mark an entry consumed and return what can be returned. -/
def Win.consume (w : Win) (first : Nat) : Win :=
  Win.giveBack { w with landed := w.landed.map (fun l => if l.first = first then { l with st := LandState.consumed } else l) }

def State.consume (s : State) (w first : Nat) : State := s.modWin w (fun x => x.consume first)

/-! ### Envelopes (R178, R189) -/

/-- The nanosecond of a tick of the step whose anchor was last taken; a tick is 20 ns (R160). -/
def State.tickTime (s : State) (t : Nat) : Nat := s.run.anchorTime + 20 * t

/-- The tick at which the last bounded segment of a step ends (R161). -/
def boundedEnd (f : Formula) : Nat :=
  f.timeline.foldl (fun a (x : Segment) => if x.length = 0 then a else max a (x.start + x.length)) 0

/-- Whether the end of the last bounded segment of the previous step's timeline has passed: that timeline is the one of the Formula under
which the step was anchored. -/
def State.boundedPassed (s : State) : Bool := decide (s.run.boundedAt ≤ s.time)

/-- Enter bytes that landed at a time into a list in ascending time. -/
def insertArrival (t n : Nat) : List (Nat × Nat) → List (Nat × Nat)
  | [] => [(t, n)]
  | (u, m) :: rest => if t < u then (t, n) :: (u, m) :: rest
      else if t = u then (u, m + n) :: rest
      else (u, m) :: insertArrival t n rest

/-- Book bytes of a shard's envelope group that landed at time t for a step: bytes of a later step are early when its anchor could not be
taken yet or its envelope opens after it (Table 6-18). -/
def State.bookAt (s : State) (shard step bytes t : Nat) : State :=
  match shardEntry s.form shard with
  | none => s
  | some e =>
    match s.form.envs[e.envGroup]? with
    | none => s
    | some v =>
      if step = s.run.lastStep ∧ s.run.anchored then
        { s with envs := modAt s.envs e.envGroup (fun b =>
            if t < s.run.anchorTime then { b with early := b.early || decide (t < s.run.openFrom) || decide (v.openTick ≠ 0) }
            else { b with arrivals := insertArrival t bytes b.arrivals, early := b.early || decide (t < s.tickTime v.openTick) }) }
      else if s.run.nextStep ≤ step then
        { s with envs := modAt s.envs e.envGroup (fun b =>
            { b with next := insertArrival t bytes b.next
                     nextEarly := b.nextEarly || decide (t < s.run.boundedAt) || decide (v.openTick ≠ 0) }) }
      else s

/-- Book bytes that land now. -/
def State.bookArrival (s : State) (shard step bytes : Nat) : State := s.bookAt shard step bytes s.time

/-- Whether arrivals break BURST + RATE × (t2 − t1) between some two moments (R178): level is the excess over RATE in twentieths of a byte
at time upto. -/
def overRate (v : EnvEntry) : List (Nat × Nat) → Nat → Nat → Bool
  | [], _, _ => false
  | (t, n) :: rest, level, upto =>
    let l := level - v.rate * (t - upto) + 20 * n
    decide (20 * v.burst < l) || overRate v rest l t

/-- The first of EARLY, RATE and LATE that the arrivals of the running step have earned an envelope group (Table 6-18). -/
def State.envReason (s : State) (g : Nat) : Option Nat :=
  let b := s.envs.getD g {}
  match s.form.envs[g]? with
  | none => none
  | some v =>
    if b.early then some 1
    else if overRate v b.arrivals 0 s.run.anchorTime then some 2
    else if b.arrivals.any (fun (a : Nat × Nat) => decide (s.tickTime v.closeTick < a.1)) then some 3
    else none

/-- The books at the anchor of the next step: what landed at this very moment counts from the anchor. -/
def State.freshBooks (s : State) : State :=
  { s with envs := s.envs.zipIdx.map (fun (p : EnvBook × Nat) =>
      { arrivals := p.1.next.filter (fun (a : Nat × Nat) => decide (a.1 = s.time)), early := p.1.nextEarly, before := s.envReason p.2 }) }

/-- The last byte of an accepted contribution or chunk of a step: the shard keeps the latest (R132, R189). -/
def State.noteByte (s : State) (i step at' : Nat) : State :=
  s.modShard i (fun h => { h with lastByte := if h.lastByteStep = step then max h.lastByte at' else at', lastByteStep := step })

/-- A contribution or chunk that arrives after its envelope is reported, with the first reason of Table 6-18 that applies (R138). -/
def State.lateArrival (s : State) (i step at' : Nat) : State :=
  match shardEntry s.form i with
  | none => s
  | some e =>
    match s.form.envs[e.envGroup]? with
    | none => s
    | some v =>
      if s.run.anchored ∧ step = s.run.lastStep ∧ s.tickTime v.closeTick < at' then
        s.envelope i step ((s.envReason e.envGroup).getD 3)
      else s

/-! ### Windows, ranks and chunks -/

/-- The GRAD window of a shard: index and entry (R126). -/
def gradWin (f : Formula) (i : Nat) : Option (Nat × WinEntry) :=
  (f.windows.zipIdx.find? (fun p => p.1.enable && decide (p.1.kind = 0) && decide (p.1.firstShard ≤ i) &&
    decide (i ≤ p.1.lastShard))).map (fun p => (p.2, p.1))

/-- h of a shard: its host contributors (R143). -/
def hostRanks (f : Formula) (i : Nat) : Nat :=
  match gradWin f i with
  | some p => p.2.localRanks
  | none => 0

/-- The children of this engine in a shard's tree. -/
def State.childrenOf (s : State) (i : Nat) : List Nat :=
  match shardEntry s.form i with
  | some e => s.shardChildren e
  | none => []

/-- k of a shard: its contributors at this engine (R143). -/
def State.contributors (s : State) (i : Nat) : Nat := hostRanks s.form i + (s.childrenOf i).length

/-- The chunks of a shard of n elements (R145). -/
def chunkCount (n : Nat) : Nat := ceilDiv n 512

/-- Elements of chunk j. -/
def chunkLen (n j : Nat) : Nat := min 512 (n - 512 * j)

/-- Whether the shard is poisoned at this engine: its POISON flag, or its window is fenced (R112, R127). -/
def State.shardBad (s : State) (i : Nat) : Bool := (s.shard i).ready.poison || (s.shard i).windowFence

/-- Whether the shard is poisoned for step n: now, or by a window fence that ended after that step (R384). -/
def State.badAt (s : State) (i n : Nat) : Bool := s.shardBad i || decide (n ≤ (s.shard i).badUntil)

/-! ### Steps in flight -/

/-- What is known of a step; a fresh entry where nothing is. -/
def State.stepSt (s : State) (n : Nat) : StepSt :=
  (s.run.steps.find? (fun (t : StepSt) => decide (t.step = n))).getD { step := n }

/-- Change the entry of a step. -/
def State.modStep (s : State) (n : Nat) (f : StepSt → StepSt) : State :=
  let t := f (s.stepSt n)
  s.modRun (fun r => { r with steps := r.steps.filter (fun (x : StepSt) => decide (x.step ≠ n)) ++ [t] })

/-! ### Acceptance (R132 to R135) -/

/-- The PCRC of the contribution that was accepted for the same SHARD, STEP and RANK; a current contribution is of the intake step. -/
def State.keptPcrc (s : State) (h : ContribHdr) : Option Nat :=
  ((s.shard h.shard).taken.find? (fun (a : Nat × Nat) => decide (a.1 = h.rank))).map Prod.snd

/-- The 16-bit codes of a payload. -/
def codes16 : List Byte → List Nat
  | a :: b :: rest => (a.toNat + 256 * b.toNat) :: codes16 rest
  | _ => []

/-- Whether a GS16 element is a NaN or an infinity. -/
def nonFinite16 (fmt c : Nat) : Bool := match Fp.decode (gs16Fmt fmt) c with
  | .fin _ _ _ => false
  | _ => true

/-- Checks 9 and 10 of R132 on a current contribution: discard with its pages, or accept. The non-finite payload elements of an accepted one
join the step's count (R151). -/
def State.acceptCheck (s : State) (w : Nat) (l : Landed) : State × Bool :=
  let h := l.hdr
  if crc32c ((s.win w).bytes l.first 64 (2 * h.count)) ≠ h.pcrc then
    ((s.intakeError w iPcrcBad 0x0102 h.shard h.shard).consume w l.first, false)
  else match s.keptPcrc h with
    | some p =>
      let s := if p = h.pcrc then s.intakeError w iDuplicate 0x0105 h.shard h.shard
        else (s.count 2 w iDuplicate 1).error
          { code := 0x0106, cls := .j, unit := 0x0005, index := w, shard := h.shard, arg0 := h.rank }
      (s.consume w l.first, false)
    | none =>
      let s := s.modWin w (fun x => { x with landed := x.landed.map (fun y =>
        if y.first = l.first then { y with accepted := true } else y) })
      let s := s.modShard h.shard (fun x => { x with taken := x.taken ++ [(h.rank, h.pcrc)] })
      let codes := codes16 ((s.win w).bytes l.first 64 (2 * h.count))
      let s := s.modStep h.step (fun t => { t with nf := t.nf + (codes.filter (nonFinite16 h.fmt)).length })
      let s := s.modRun (fun r => { r with
        arrived := r.arrived || decide (h.step = r.nextStep),
        times := if h.step = r.lastStep then { r.times with p1 := s.time } else r.times })
      ((s.noteByte h.shard h.step l.last).lateArrival h.shard h.step l.last, true)

/-- Insert a landed entry by the ring index of its first page. -/
def insertRing (issued : Nat) (x : Landed) : List Landed → List Landed
  | [] => [x]
  | y :: ys => if x.first % max 1 issued ≤ y.first % max 1 issued then x :: y :: ys else y :: insertRing issued x ys

/-- Landed entries by the ring index of their first pages: of duplicates that pass in one cycle the lower index is kept (R135). -/
def ringOrder (issued : Nat) (ls : List Landed) : List Landed := ls.foldr (insertRing issued) []

/-- The entries of a shard and step that wait in its window, by ring index. -/
def State.waitingFor (s : State) (i step : Nat) : List (Nat × Landed) :=
  match gradWin s.form i with
  | none => []
  | some p => (ringOrder p.2.issued ((s.win p.1).landed.filter (fun l => decide (l.st = .waiting) && decide (l.hdr.shard = i) &&
      decide (l.hdr.step = step)))).map (fun l => (p.1, l))

/-- Contributions that were early become current when the intake step advances (R133, R136): checks 9 and 10 run now. -/
def State.promote (s : State) (i : Nat) : State :=
  eachIn ((s.waitingFor i (s.shard i).intakeStep).filter (fun p => !p.2.accepted))
    (fun s p => (s.acceptCheck p.1 p.2).1) s

end Sys2Proof.Machine
end

