-- ==== Sys2Proof/Machine/Image.lean ====
section
/-! DEFINITION. Flacon images (10_flacons_adoption_and_replay.md): the image's layout and metadata (R280), the near map (R281), keepers
(R275), and pages for the host (R292). -/

namespace Sys2Proof.Machine

open Sys2Proof.Bits
open Sys2Proof.Hash
open Sys2Proof.Convert
open Sys2Proof.Fp

/-- Round up to 64 bytes. -/
def up64 (n : Nat) : Nat := roundUp n 64

/-- Replace bytes of a list from an offset. -/
def patch (l : List Byte) (off : Nat) (bs : List Byte) : List Byte := l.take off ++ bs ++ l.drop (off + bs.length)

/-- Pad with zero bytes to a length. -/
def padTo (l : List Byte) (n : Nat) : List Byte := l ++ List.replicate (n - l.length) 0

/-! ### Shard data (R280) -/

/-- Bytes of one stored stream of n elements in an image. -/
def streamImageBytes (fmt n : Nat) : Nat := up64 (elemPlaneBytes fmt n) + up64 (scalePlaneBytes fmt n)

/-- DLEN of a shard. -/
def shardImageBytes (f : Formula) (e : ShardEntry) : Nat :=
  (storedStreams f e).foldl (fun a d => a + streamImageBytes d.fmt e.n) 0

/-- The offset of a stored stream within its shard's data. -/
def streamOffset (f : Formula) (e : ShardEntry) (stream : Nat) : Nat :=
  ((storedStreams f e).filter (fun d => decide (d.stream < stream))).foldl (fun a d => a + streamImageBytes d.fmt e.n) 0

/-- The metadata bytes before padding, and DATA_OFF. -/
def metaBytes (ngroup nshard : Nat) : Nat := 256 + up64 (80 * ngroup) + 64 * nshard
def dataOff (ngroup nshard : Nat) : Nat := roundUp (metaBytes ngroup nshard) 4096

/-- DOFF of each shard of a list in a far image that starts its data at an offset. -/
def farOffsets (f : Formula) : List Nat → Nat → List (Nat × Nat)
  | [], _ => []
  | i :: is, off =>
    match shardEntry f i with
    | some e => (i, off) :: farOffsets f is (off + shardImageBytes f e)
    | none => farOffsets f is off

/-! ### The near map (R281) -/

/-- Round up to 256 bytes. -/
def up256 (n : Nat) : Nat := roundUp n 256

/-- One placed plane pair of the near map: shard, stream, ebase, sbase. -/
abbrev NearPlace := Nat × Nat × Nat × Nat

/-- Place the stored streams of one shard from an offset. -/
def nearStreams (c : Cfg) (i n : Nat) : List Desc → Nat → List NearPlace × Nat
  | [], o => ([], o)
  | d :: ds, o =>
    let t := stripeLen c n
    let o1 := o + up256 (elemPlaneBytes d.fmt t)
    let o2 := o1 + (if (blockFmt d.fmt).isSome then up256 (scalePlaneBytes d.fmt t) else 0)
    let r := nearStreams c i n ds o2
    ((i, d.stream, o, o1) :: r.1, r.2)

/-- near_map of R281: the places, and doff of each shard. -/
def nearMap (c : Cfg) (f : Formula) : List Nat → Nat → List NearPlace × List (Nat × Nat)
  | [], _ => ([], [])
  | i :: is, o =>
    match shardEntry f i with
    | none => nearMap c f is o
    | some e =>
      let p := nearStreams c i e.n (storedStreams f e) o
      let r := nearMap c f is p.2
      (p.1 ++ r.1, (i, o) :: r.2)

/-- The shards that this engine sends near: owned, with an id that is a multiple of the spacing (R277). -/
def State.nearShards (s : State) : List Nat := s.ownedShards.filter (fun i => decide (i % max 1 s.form.hdr.spacing = 0))

/-- The channel-group address c0 of a near region's data map, for metadata of a length (R281). -/
def nearC0 (c : Cfg) (nearBase metaLen : Nat) : Nat := (nearBase + ceilDiv metaLen (2 ^ 20) * 2 ^ 20) / 2 ^ gBits c

/-! ### Keepers (R275) -/

/-- The largest number of members that share one tray. -/
def largestTray (members : List Nat) : Nat :=
  members.foldl (fun a m => max a ((members.filter (fun x => decide (x / 64 = m / 64))).length)) 0

/-- The member at a signed distance in the ring of the list. -/
def memberAt (members : List Nat) (me d : Nat) : Option Nat :=
  (members.findIdx? (fun m => decide (m = me))).bind (fun i => members[(i + d) % max 1 members.length]?)

/-- The keeper of this engine. -/
def State.keeper (s : State) : Option Nat := memberAt s.fabric.members s.ea (largestTray s.fabric.members)

/-- The ward of this engine. -/
def State.ward (s : State) : Option Nat :=
  let n := s.fabric.members.length
  memberAt s.fabric.members s.ea (n - largestTray s.fabric.members % max 1 n)

/-! ### Metadata (Tables 10-3 to 10-5) -/

/-- A binary64 magnitude as the binary32 that HIST holds (log entry 20). -/
def histCode (b64 : Nat) : Nat := (encodeVal binary32 false (decode binary64 b64)).1 % 2 ^ 32

/-- A scale-group record (Table 10-4). -/
def scaleRecord (g : ScaleGroup) : List Byte :=
  leBytes 80 (toSigned 8 g.k + g.hist.length % 32 * 2 ^ 8 +
    (g.hist.zipIdx.foldl (fun a p => a + histCode p.1 * 2 ^ (64 + 32 * p.2)) 0))

/-- The format code of a stored stream, 0 when not stored. -/
def fmtOf (f : Formula) (e : ShardEntry) (stream : Nat) : Nat :=
  match descOf f e stream with
  | some d => d.fmt
  | none => 0

/-- A directory entry (Table 10-5). -/
def State.dirEntry (s : State) (i doff dcrc : Nat) : List Byte :=
  match shardEntry s.form i with
  | none => leBytes 64 0
  | some e =>
    let h := s.shard i
    let smask := (storedStreams s.form e).foldl (fun a d => a + 2 ^ d.stream) 0
    let wh := if e.wtrack then h.whist.take 16 else []
    leBytes 64 (i % 2 ^ 32 + e.gei % 2 ^ 64 * 2 ^ 32 + e.n % 2 ^ 32 * 2 ^ 96 + h.ready.version % 2 ^ 32 * 2 ^ 128 +
      e.accord % 256 * 2 ^ 160 + smask * 2 ^ 168 + ofBool h.ready.poison * 2 ^ 175 + ofBool e.wtrack * 2 ^ 176 +
      toSigned 8 (if e.wtrack then h.w else e.wexp) * 2 ^ 184 + wh.length * 2 ^ 192 +
      (wh.zipIdx.foldl (fun a p => a + toSigned 8 p.1 * 2 ^ (200 + 8 * p.2)) 0) +
      fmtOf s.form e 0 * 2 ^ 328 + fmtOf s.form e 1 * 2 ^ 336 + fmtOf s.form e 2 * 2 ^ 344 + fmtOf s.form e 4 * 2 ^ 352 +
      fmtOf s.form e 5 * 2 ^ 360 + doff % 2 ^ 40 * 2 ^ 368 + shardImageBytes s.form e % 2 ^ 40 * 2 ^ 408 +
      dcrc % 2 ^ 32 * 2 ^ 448)

/-- The cursor that a cut of step N carries (R274). -/
def State.cursorAt (s : State) (n : Nat) : List Byte :=
  let best := s.cursors.foldl (fun (a : Option (Nat × List Byte)) c =>
    if c.1 ≤ n then (match a with
      | some b => if b.1 ≤ c.1 then some c else a
      | none => some c) else a) none
  match best with
  | some c => padTo (c.2.take 64) 64
  | none => List.replicate 64 0

/-- A far image's length. -/
def State.imageLength (s : State) : Nat :=
  s.ownedShards.foldl (fun a i => a + (match shardEntry s.form i with
    | some e => shardImageBytes s.form e
    | none => 0)) (dataOff s.scales.length s.ownedShards.length)

/-- What the state of a cut takes from its step: generation, step, skipped, u, loss exponent, good count. -/
structure CutVals where
  gen : Nat
  step : Nat
  skipped : Bool
  u : Nat
  l : Int
  good : Nat
deriving DecidableEq, Repr

/-- The image header of a cut, its SCRC and HCRC not yet set (Table 10-3). -/
def State.imageHeader (s : State) (kind : Nat) (v : CutVals) (nshard : Nat) : List Byte :=
  leBytes 256 (0x4E434C46 + 0x0003 * 2 ^ 32 + (match s.cfg with | .izL => 1 | .izS => 2) * 2 ^ 48 + kind % 2 * 2 ^ 56 +
    ofBool v.skipped * 2 ^ 57 + v.gen % 2 ^ 32 * 2 ^ 64 + v.step % 2 ^ 48 * 2 ^ 96 + v.u % 2 ^ 48 * 2 ^ 144 +
    s.ea % 2 ^ 20 * 2 ^ 192 + s.fabric.epoch % 2 ^ 32 * 2 ^ 224 + s.fabric.members.length % 2 ^ 32 * 2 ^ 256 +
    toSigned 8 v.l * 2 ^ 288 + v.good % 2 ^ 16 * 2 ^ 296 + s.run.key % 2 ^ 128 * 2 ^ 320 +
    leVal (s.cursorAt v.step) * 2 ^ 448 + leVal (beBytes 48 s.form.digest) * 2 ^ 960 + nshard % 2 ^ 32 * 2 ^ 1344 +
    s.scales.length % 2 ^ 16 * 2 ^ 1376 + s.imageLength % 2 ^ 64 * 2 ^ 1408 +
    dataOff s.scales.length nshard % 2 ^ 64 * 2 ^ 1472)

/-- The metadata of a cut, bytes 0 to DATA_OFF - 1, with DCRC, SCRC and HCRC zero. -/
def State.metadata (s : State) (kind : Nat) (v : CutVals) (shards : List Nat) (offs : List (Nat × Nat)) : List Byte :=
  let hd := s.imageHeader kind v shards.length
  let gs := padTo (s.scales.flatMap scaleRecord) (up64 (80 * s.scales.length))
  let ds := shards.flatMap (fun i =>
    s.dirEntry i (((offs.find? (fun (p : Nat × Nat) => decide (p.1 = i))).map Prod.snd).getD 0) 0)
  padTo (hd ++ gs ++ ds) (dataOff s.scales.length shards.length)

/-- The metadata of the far image of a cut. -/
def State.farMeta (s : State) (v : CutVals) : List Byte :=
  let os := s.ownedShards
  s.metadata 0 v os (farOffsets s.form os (dataOff s.scales.length os.length))

/-- The metadata of the near copy of a cut. -/
def State.nearMeta (s : State) (v : CutVals) : List Byte :=
  let ns := s.nearShards
  s.metadata 1 v ns (nearMap s.cfg s.form ns 0).2

/-- Fill in the DCRC of the directory entries of metadata, then SCRC and HCRC (R280). -/
def sealMeta (ngroup : Nat) (m : List Byte) (crcs : List Nat) : List Byte :=
  let dir := 256 + up64 (80 * ngroup)
  let m := (crcs.zipIdx).foldl (fun m p => patch m (dir + 64 * p.2 + 56) (leBytes 4 p.1)) m
  let m := patch m 192 (leBytes 4 (crc32c (m.drop 256)))
  patch m 252 (leBytes 4 (crc32c (m.take 252)))

/-! ### Stream pages (R292) -/

/-- A stream page (Table 10-10). -/
def streamPage (src : Nat) (p : OutPage) : List Byte :=
  let h := leBytes 60 (0x5A1F + 0x03 * 2 ^ 16 + p.kind % 256 * 2 ^ 24 + src % 2 ^ 20 * 2 ^ 32 +
    (if p.kind = 1 then p.gen % 2 ^ 32 else 0) * 2 ^ 64 + (if p.kind = 3 then 0 else p.step % 2 ^ 48) * 2 ^ 96 +
    p.off % 2 ^ 64 * 2 ^ 160 + p.payload.length % 2 ^ 32 * 2 ^ 224 + (if p.kind = 2 then p.shard % 2 ^ 32 else 0) * 2 ^ 256 +
    crc32c p.payload * 2 ^ 288)
  h ++ leBytes 4 (crc32c h) ++ p.payload

/-- The capture queue of the egress buffers in bytes (R276). -/
def captureQueue (c : Cfg) : Nat := match c with | .izL => 32 * 2 ^ 20 | .izS => 16 * 2 ^ 20

/-- Bytes that wait in the capture queue: far and gradient-capture pages. -/
def State.queued (s : State) : Nat :=
  (s.outPages.filter (fun p => decide (p.kind ≠ 3))).foldl (fun a p => a + p.payload.length) 0

/-- Queue bytes as pages of at most 65,472 bytes; off grows by `per` for each byte count that `unit` names: KIND 1 counts image
bytes, KIND 2 counts elements of four bytes. -/
def pagesOf (kind gen step off unit shard : Nat) (bs : List Byte) : List OutPage :=
  (chunks 65472 (bs.length / 65472 + 1) bs).zipIdx.map (fun (p : List Byte × Nat) =>
    { kind := kind, gen := gen, step := step, off := off + p.2 * (65472 / unit), shard := shard, payload := p.1 })

end Sys2Proof.Machine
end

