-- ==== Sys2Proof/Machine/Cut.lean ====
section
/-! DEFINITION. Steps in flight, cuts and emissions (R272, R273, R276 to R279): what a cut captures, what it sends to the keeper and to
the host, and when an emission is complete. -/

namespace Sys2Proof.Machine

open Sys2Proof.Bits
open Sys2Proof.Hash
open Sys2Proof.Convert

/-! ### Steps in flight -/

/-- Whether step n is a cut step (R272). -/
def State.cutStep (s : State) (n : Nat) : Bool :=
  decide (0 < s.form.hdr.flaconInterval) &&
    (decide (n % s.form.hdr.flaconInterval = 0) || decide (s.run.cutNext = n))

/-- Whether the cut hold of step m - 1 keeps passes and programs of step m from starting (R273). -/
def State.cutHeld (s : State) (m : Nat) : Bool :=
  match s.run.steps.find? (fun (t : StepSt) => decide (t.step + 1 = m)) with
  | some t => s.cutStep t.step && !t.cutDone
  | none => false

/-- Change the step record's times when the step is the one whose interval runs (R290). -/
def State.mark (s : State) (n : Nat) (f : StepTimes → StepTimes) : State :=
  if n = s.run.lastStep then s.modRun (fun r => { r with times := f r.times }) else s

/-! ### The near copy (R277, R278) -/

/-- A FLACON_DATA or RESTORE_DATA payload (Table 10-1). -/
def flaconData (gen part group : Nat) (last : Bool) (noff total : Nat) (bs : List Byte) : List Byte :=
  leBytes 32 (gen % 2 ^ 32 + part % 4 * 2 ^ 32 + group % 8 * 2 ^ 34 + ofBool last * 2 ^ 37 + noff % 2 ^ 40 * 2 ^ 64 +
    total % 2 ^ 64 * 2 ^ 128) ++ bs

/-- Send bytes as packets of at most 4,064 data bytes. -/
def State.sendData (s : State) (type dst gen part group noff : Nat) (bs : List Byte) : State :=
  eachIn (chunks 4064 (bs.length / 4064 + 1) bs).zipIdx (fun s (p : List Byte × Nat) =>
    s.send type dst false (flaconData gen part group false (noff + 4064 * p.2) 0 p.1)) s

/-- Change the emission in progress. -/
def State.modEmission (s : State) (f : Emission → Emission) : State := { s with emission := s.emission.map f }

/-! ### Captures (R276) -/

/-- Queue far pages, or report that a captured block finds no room in the queue: FLACON_MISS of class J, generation failed (R276). -/
def State.queueFar (s : State) (gen shard : Nat) (paced : Bool) (ps : List OutPage) : State :=
  let n := ps.foldl (fun a p => a + p.payload.length) 0
  if paced || decide (s.queued + n ≤ captureQueue s.cfg) then { s with outPages := s.outPages ++ ps }
  else
    let s := s.error { code := 0x0601, cls := .j, unit := 0x000F, arg0 := gen }
    let s := s.post 0x0302 2 3 gen shard 0
    s.emissionEnd gen true 8

/-- The bytes of a captured stripe that go to the far image: offset and bytes, element plane then scale plane; after the last stripe of a
plane, the zero bytes up to a multiple of 64 (R280). -/
def State.farPieces (s : State) (i : Nat) (e : ShardEntry) (d : Desc) (k : Nat) (el sc : List Byte) : List FarPiece :=
  let os := s.ownedShards
  let base := (((farOffsets s.form os (dataOff s.scales.length os.length)).find? (fun (p : Nat × Nat) =>
    decide (p.1 = i))).map Prod.snd).getD 0 + streamOffset s.form e d.stream
  let sl := stripeLen s.cfg e.n
  let pad := fun (total : Nat) => if (stillsOf s.cfg e.n).getLast? = some k then List.replicate (up64 total - total) 0 else []
  [⟨base + k * elemPlaneBytes d.fmt sl, el ++ pad (elemPlaneBytes d.fmt e.n)⟩,
   ⟨base + up64 (elemPlaneBytes d.fmt e.n) + k * scalePlaneBytes d.fmt sl, sc ++ pad (scalePlaneBytes d.fmt e.n)⟩].filter
     (fun (p : FarPiece) => !p.bytes.isEmpty)

/-- Send a captured stripe of a near shard to the keeper at the places of the near map. -/
def State.sendNear (s : State) (gen i : Nat) (d : Desc) (k : Nat) (el sc : List Byte) : State :=
  match s.keeper with
  | none => s
  | some kp =>
    match (nearMap s.cfg s.form s.nearShards 0).1.find? (fun (p : NearPlace) => decide (p.1 = i) && decide (p.2.1 = d.stream)) with
    | none => s
    | some p =>
      let s := s.sendData 0x07 kp gen 0 k p.2.2.1 el
      let s := s.sendData 0x07 kp gen 0 k p.2.2.2 sc
      s.modEmission (fun e => { e with nearSent := e.nearSent + el.length + sc.length })

/-- The data of a shard in KIND 0 form from the captured stripes. -/
def imageData (c : Cfg) (f : Formula) (i : Nat) (e : ShardEntry) (data : List (Nat × Nat × Nat × List Byte × List Byte)) : List Byte :=
  (storedStreams f e).flatMap (fun d =>
    let part := fun (k : Nat) => ((data.find? (fun (x : Nat × Nat × Nat × List Byte × List Byte) =>
      decide (x.1 = i) && decide (x.2.1 = d.stream) && decide (x.2.2.1 = k))).map (fun x => x.2.2.2)).getD ([], [])
    padTo ((stillsOf c e.n).flatMap (fun k => (part k).1)) (up64 (elemPlaneBytes d.fmt e.n)) ++
      padTo ((stillsOf c e.n).flatMap (fun k => (part k).2)) (up64 (scalePlaneBytes d.fmt e.n)))

/-- DCRC of each shard of a list. -/
def dcrcs (c : Cfg) (f : Formula) (shards : List Nat) (data : List (Nat × Nat × Nat × List Byte × List Byte)) : List Nat :=
  shards.map (fun i => match shardEntry f i with
    | some e => crc32c (imageData c f i e data)
    | none => 0)

/-- When the last stripe is captured, the metadata goes out: to the host, and with NEAR_FLACON to the keeper with LAST (R278). -/
def State.finishCapture (s : State) (paced : Bool) : State :=
  match s.emission with
  | none => s
  | some em =>
    if !em.toCapture.isEmpty || em.farDone then s
    else
      let ng := s.scales.length
      let far := sealMeta ng em.header (dcrcs s.cfg s.form s.ownedShards em.data)
      let s := s.modEmission (fun e => { e with farDone := true })
      let s := s.queueFar em.gen 0xFFFFFFFF paced (pagesOf 1 em.gen em.step 0 1 0 far)
      if em.near && s.emission.isSome then
        match s.keeper with
        | none => s
        | some kp =>
          let m := sealMeta ng em.nearHeader (dcrcs s.cfg s.form s.nearShards em.data)
          let s := s.sendData 0x07 kp em.gen 1 0 0 m
          s.send 0x07 kp false (flaconData em.gen 0 0 true 0 (em.nearSent + m.length) [])
      else s

/-- Capture one stripe of a stored stream, if the emission still wants it. -/
def State.capture (s : State) (paced : Bool) (i stream k : Nat) : State :=
  match s.emission, shardEntry s.form i with
  | some em, some e =>
    if !em.toCapture.contains (i, stream, k) then s
    else match descOf s.form e stream with
      | none => s
      | some d =>
        let t := stripeCount s.cfg e.n k
        let el := s.stripeElems d 0 k t
        let sc := s.stripeScales d 0 k t
        let s := s.modEmission (fun x => { x with toCapture := x.toCapture.filter (fun y => decide (y ≠ (i, stream, k))),
                                                  data := x.data ++ [(i, stream, k, el, sc)] })
        let s := eachIn (s.farPieces i e d k el sc) (fun s (p : FarPiece) =>
          if s.emission.isSome then s.queueFar em.gen i paced (pagesOf 1 em.gen em.step p.off 1 0 p.bytes) else s) s
        let s := if s.emission.isSome && em.near && decide (i % max 1 s.form.hdr.spacing = 0) then s.sendNear em.gen i d k el sc else s
        s.finishCapture paced
  | _, _ => s

/-- Every stripe that a cut captures: stored streams of owned shards (R276). -/
def State.captureList (s : State) : List (Nat × Nat × Nat) :=
  s.ownedShards.flatMap (fun i => match shardEntry s.form i with
    | some e => (storedStreams s.form e).flatMap (fun d => (stillsOf s.cfg e.n).map (fun k => (i, d.stream, k)))
    | none => [])

/-- Begin the emission of a generation. The header of the near copy goes first, so that the keeper knows DATA_OFF and with it the place of
the data map; it is sent again, complete, with the metadata (log entry 24). A poisoned shard runs no pass, so its planes are captured at
once (R280). -/
def State.beginEmission (s : State) (v : CutVals) (near paced : Bool) : State :=
  let l := s.captureList
  let s := { s with emission := some { gen := v.gen, step := v.step, header := s.farMeta v, nearHeader := s.nearMeta v,
                                       toCapture := l, data := [], near := near, holdEnd := s.time } }
  let s := match near, s.keeper, s.emission with
    | true, some kp, some em =>
      (s.sendData 0x07 kp v.gen 1 0 0 (em.nearHeader.take 256)).modEmission (fun e => { e with nearSent := 256 })
    | _, _, _ => s
  let s := eachIn (l.filter (fun (x : Nat × Nat × Nat) => paced || s.shardBad x.1)) (fun s (x : Nat × Nat × Nat) =>
    s.capture paced x.1 x.2.1 x.2.2) s
  s.finishCapture paced

/-- The state of a step as a cut takes it. -/
def State.cutVals (s : State) (n : Nat) : CutVals :=
  let t := s.stepSt n
  { gen := s.run.gen, step := n, skipped := t.skipped, u := t.u, l := t.l, good := t.good }

/-- ENVELOPE with reason SCALAR for each owned shard of a list (R265). -/
def envScalar : Nat := 0x08
def State.scalarHeld (s : State) (shards : List Nat) (step : Nat) : State :=
  eachIn shards (fun s i => s.envelope i step envScalar) s

/-- The total of a cut round returns (R272, R265, R394). -/
def State.cutReturned (s : State) (n total : Nat) (poison : Bool) : State :=
  if poison then s.scalarHeld s.ownedShards (n + 1)
  else
    let own := (s.stepSt n).cutValue
    let s := s.modStep n (fun t => { t with cutDone := true, cutAt := s.time })
    let s := s.mark n (fun t => { t with p6 := s.time })
    if total = s.fabric.members.length then
      if 2 ^ 32 - 1 ≤ s.run.gen then s.error { code := 0x0604, cls := .j, unit := 0x000F, arg0 := s.run.gen }
      else
        let s := s.modRun (fun r => { r with gen := r.gen + 1 })
        let s := s.mark n (fun t => { t with cut := true })
        s.beginEmission (s.cutVals n) s.form.hdr.nearFlacon false
    else
      let s := s.count 8 32 3 1
      let s := if own = 0 then s.post 0x0301 2 7 (s.run.gen + 1) n 0 else s
      let s := s.mark n (fun t => { t with short := true })
      s.modRun (fun r => { r with cutNext := n + 1 })

/-- Whether far pages of a generation still wait for a page. -/
def State.farWaiting (s : State) (gen : Nat) : Bool := s.outPages.any (fun p => decide (p.kind = 1) && decide (p.gen = gen))

/-- An emission is complete when every far page is published and consumed and the keeper has answered DONE (R279). -/
def State.emissionCheck (s : State) : State :=
  match s.emission with
  | none => s
  | some em =>
    let consumed := em.farDone && !s.farWaiting em.gen && decide (em.farLast ≤ (s.win s.egressWindow).consumed)
    let s := if consumed && decide (em.farTime = 0) then s.modEmission (fun e => { e with farTime := s.time }) else s
    if consumed && (!em.near || em.nearAcked) then s.emissionEnd em.gen false 0 else s

end Sys2Proof.Machine
end

