-- ==== Sys2Proof/Machine/Scalars.lean ====
section
/-! DEFINITION. Firmware's scalar arithmetic (R77): pow_fixed, the learning rate (R175), the step record (R103, R105, R176), the phase-B
entries (R122), the loss scale (R153), the scale exponents (R76) and the tracked window exponent (R141). -/

namespace Sys2Proof.Machine

open Sys2Proof.Bits
open Sys2Proof.Fp
open Sys2Proof.Convert

/-! ### Binary64 arithmetic (R77) -/

def d64 (x : Nat) : Val := decode binary64 x
def add64 (a b : Nat) : Nat := (addV binary64 .nearestEven (d64 a) (d64 b)).1
def sub64 (a b : Nat) : Nat := (addV binary64 .nearestEven (d64 a) (negV (d64 b))).1
def mul64 (a b : Nat) : Nat := (mulV binary64 .nearestEven (d64 a) (d64 b)).1
def div64 (a b : Nat) : Nat := (divV binary64 .nearestEven (d64 a) (d64 b)).1
def sqrt64 (a : Nat) : Nat := (sqrtV binary64 .nearestEven (d64 a)).1
def neg64 (a : Nat) : Nat := Nat.xor a (2 ^ 63)

/-- The binary64 code of 1.0. -/
def one64 : Nat := 0x3FF0000000000000

/-- A natural number as binary64. -/
def nat64 (n : Nat) : Nat := (roundIeee binary64 .nearestEven false n 0).1

/-- A binary32 constant as its exact binary64 value. -/
def wide (c : Nat) : Nat := widen binary32 binary64 c

/-- Round a binary64 value once to binary32 (R77). -/
def narrow (c : Nat) : Nat := (encodeVal binary32 false (d64 c)).1

/-- The binary64 code of 2 to an integer power. -/
def pow2of (e : Int) : Nat := (roundIeee binary64 .nearestEven false 1 e).1

/-- Whether a binary64 code is finite. -/
def finite64 (c : Nat) : Bool := match d64 c with | .fin _ _ _ => true | _ => false

/-- pow_fixed over the low bits of t (R77). -/
def powLoop : Nat → Nat → Nat → Nat → Nat
  | 0, _, _, r => r
  | n + 1, t, p, r => powLoop n (t / 2) (mul64 p p) (if t % 2 = 1 then mul64 r p else r)

def powFixed (b t : Nat) : Nat := powLoop 48 t b one64

/-! ### The learning rate and the step record -/

/-- lr(u) of R175. -/
def lrOf (c : Consts) (u : Nat) : Nat :=
  let peak := wide c.lrPeak
  let low := wide c.lrMin
  if c.tw ≠ 0 ∧ u ≤ c.tw then mul64 peak (div64 (nat64 u) (nat64 c.tw))
  else if c.lrKind = 0 then peak
  else if c.lrKind = 1 then
    if c.td ≤ u then low
    else add64 low (mul64 (sub64 peak low) (div64 (nat64 (c.td - u)) (nat64 (c.td - c.tw))))
  else mul64 peak (sqrt64 (div64 (nat64 c.tw) (nat64 u)))

/-- The binary64 value of a register that Table 4-10 or a custom scalar entry gives; none for a register that may hold any value. -/
def scalarValue (f : Formula) (u : Nat) (l : Int) (i : Nat) : Option Nat :=
  let c := f.consts
  let lr := lrOf c u
  match f.customScalars.find? (fun (x : CustomScalar) => decide (x.reg = i)) with
  | some x =>
    some (if x.kind = 0 then wide x.value else if x.kind = 1 then mul64 lr (wide x.value) else powFixed (wide x.value) u)
  | none =>
    match i with
    | 0 => some (wide c.b1)
    | 1 => some (sub64 one64 (wide c.b1))
    | 2 => some (wide c.b2)
    | 3 => some (sub64 one64 (wide c.b2))
    | 4 => some (div64 one64 (sub64 one64 (powFixed (wide c.b1) u)))
    | 5 => some (div64 one64 (sub64 one64 (powFixed (wide c.b2) u)))
    | 6 => some (wide c.eps)
    | 7 => some (neg64 lr)
    | 8 => some (div64 (neg64 lr) (sub64 one64 (powFixed (wide c.b1) u)))
    | 9 => some (mul64 (neg64 lr) (wide c.wd))
    | 10 => some (wide c.wd)
    | 11 => some (wide c.mu)
    | 12 => some (wide c.be)
    | 13 => some (sub64 one64 (wide c.be))
    | 14 => some (wide c.initA)
    | 15 => some (wide c.initB)
    | 24 => some (div64 one64 (pow2of l))
    | 25 => some 0
    | _ => none

/-- The step record of a step (Table 4-9). A register without a rule may hold any value: a free value. -/
def State.stepRecord (s : State) (step u : Nat) (l : Int) : StepRecord :=
  { step := step
    updates := u
    regs := (List.range 32).map (fun i => match scalarValue s.form u l i with
      | some v => narrow v
      | none => Config.freeNat (s.free + i) % 2 ^ 32)
    s7w := (scalarValue s.form u l 7).getD 0
    s24w := (scalarValue s.form u l 24).getD 0 }

/-! ### Phase-B entries (R122) -/

/-- The trust factor of a LAMB group. -/
def lambTrust (p2 u2 : Nat) : Nat :=
  let pos := fun (x : Nat) => finite64 x && decide (x % 2 ^ 63 ≠ 0) && decide (x < 2 ^ 63)
  if pos p2 && pos u2 then div64 (sqrt64 p2) (sqrt64 u2) else one64

/-- The clipping factor; a sum of the group that is not finite takes the non-finite branch, be it that of Q1. -/
def clipFactor (g2 other c : Nat) : Nat :=
  if !finite64 g2 || !finite64 other then one64
  else if (compareRel binary64 1 (mul64 c c) g2).1 then div64 c (sqrt64 g2)
  else one64

/-- s24 to s31 of a shard's phase-B entry. -/
def phaseEntry (r : StepRecord) (n : NormEntry) (v0 v1 : Nat) : List Nat :=
  let rest := (List.range 6).map (fun i => r.regs.getD (26 + i) 0)
  if n.clipping then narrow (mul64 r.s24w (clipFactor v0 v1 (wide n.clipnorm))) :: 0 :: rest
  else narrow r.s24w :: narrow (mul64 r.s7w (lambTrust v0 v1)) :: rest

/-! ### Loss scale, scale groups, tracked windows -/

/-- The loss exponent and the count of good steps after a decision (R153). -/
def lossUpdate (c : Consts) (l : Int) (good : Nat) (skipped : Bool) : Int × Nat :=
  if skipped then (max (l - c.lDown) c.lMin, 0)
  else if good + 1 = c.lGrow then (min (l + c.lUp) c.lMax, 0)
  else (l, good + 1)

/-- The exponent of a binary64 magnitude, which is not zero. -/
def ex64 (c : Nat) : Int := match d64 c with
  | .fin _ m e => exOf m e
  | _ => 0

/-- next_scale of R76; hist has the most recent maximum first. -/
def nextScale (e : ScaleEntry) (hist : List Nat) (k : Int) : Int :=
  let a := (hist.take e.h).foldl max 0
  if a = 0 then k else max (-127) (min 127 (ex64 a - (if e.e5m2 then 15 else 8) + e.margin))

/-- End a step that is not skipped: the group's maximum enters its history (R76). -/
def ScaleGroup.advance (g : ScaleGroup) (e : ScaleEntry) : ScaleGroup :=
  let hist := (g.cur :: g.hist).take e.h
  { g with hist := hist, cur := 0, k := nextScale e hist g.k }

/-- next_w of R141; hist has the most recent exponent first. -/
def nextW (h m : Nat) (hist : List Int) (w : Int) : Int :=
  match hist.take h with
  | [] => w
  | x :: xs => max (-126) (min 127 (xs.foldl max x + 1 + m))

end Sys2Proof.Machine
end

