-- ==== Sys2Proof/Machine/Reduce.lean ====
section
/-! DEFINITION. The reduction (05_gradient_intake_and_reduction.md): scalar rounds (R149, R150, R270), the decision of a step (R151 to
R154), accumulation slots (R137 to R141), folding (R139, R140) and partials (R144 to R148). -/

namespace Sys2Proof.Machine

open Sys2Proof.Bits
open Sys2Proof.Hash
open Sys2Proof.Fp
open Sys2Proof.Convert

/-! ### Scalar rounds -/

/-- A round at this node; a fresh one where nothing is known. -/
def State.round (s : State) (kind step group : Nat) : Round :=
  (s.fabric.rounds.find? (fun (r : Round) => decide (r.kind = kind) && decide (r.step = step) && decide (r.group = group))).getD
    { kind := kind, step := step, group := group }

def State.putRound (s : State) (r : Round) : State :=
  s.modFabric (fun f => { f with rounds := f.rounds.filter (fun (x : Round) =>
    !(decide (x.kind = r.kind) && decide (x.step = r.step) && decide (x.group = r.group))) ++ [r] })

/-- The sum of a round: binary64 addition for norms, exact 64-bit addition for counts (R149). -/
def addRound (kind : Nat) (a b : Nat × Nat) : Nat × Nat :=
  if kind = 1 then (add64 a.1 b.1, add64 a.2 b.2) else ((a.1 + b.1) % 2 ^ 64, 0)

/-- The payload of SCALAR_UP and SCALAR_DOWN (Table 9-10). -/
def scalarPayload (kind step group : Nat) (v : Nat × Nat) : List Byte :=
  leBytes 32 (step % 2 ^ 48 + (if kind = 1 then group % 2 ^ 16 else 0) * 2 ^ 48 + v.1 % 2 ^ 64 * 2 ^ 64 +
    (if kind = 1 then v.2 % 2 ^ 64 else 0) * 2 ^ 128 + kind % 16 * 2 ^ 192)

/-- The value that a child has sent, or that the fence of the child stands for (R265). -/
def State.kidValue (s : State) (r : Round) (c : Nat) : Option (Nat × Nat) :=
  match r.kids.find? (fun (x : Nat × Nat × Nat) => decide (x.1 = c)) with
  | some x => some x.2
  | none => if s.fabric.fences.contains c then some (0, 0) else none

/-- The total reaches this node: forwarded unchanged to each child, and used (R270). -/
def State.roundTotal (use : State → Round → (Nat × Nat) → Bool → State) (r : Round) (v : Nat × Nat) (poison : Bool)
    (s : State) : State :=
  let s := s.putRound { r with up := true, total := some v, poison := poison }
  let s := eachIn s.scalarChildren (fun s c => s.send 0x05 c poison (scalarPayload r.kind r.step r.group v)) s
  use s r v poison

/-- When this node holds every input of a round it sends SCALAR_UP, or at the root the total (R270). -/
def State.roundTry (use : State → Round → (Nat × Nat) → Bool → State) (kind step group : Nat) (s : State) : State :=
  let r := s.round kind step group
  match r.own with
  | none => s
  | some own =>
    let kids := s.scalarChildren
    if r.up || kids.any (fun c => (s.kidValue r c).isNone) then s
    else
      let v := kids.foldl (fun a c => addRound kind a ((s.kidValue r c).getD (0, 0))) own
      let poison := r.poison || kids.any (fun c => s.fabric.fences.contains c)
      match s.scalarParent with
      | some p => (s.putRound { r with up := true }).send 0x04 p poison (scalarPayload kind step group v)
      | none => s.roundTotal use r v poison

/-- This engine's own value of a round. -/
def State.roundOwn (use : State → Round → (Nat × Nat) → Bool → State) (kind step group : Nat) (v : Nat × Nat) (s : State) : State :=
  let r := s.round kind step group
  if r.own.isSome then s
  else (s.putRound { r with own := some v }).roundTry use kind step group

/-- A child's value; a second one is dropped and counted (R270). -/
def State.roundKid (use : State → Round → (Nat × Nat) → Bool → State) (kind step group child : Nat) (v : Nat × Nat) (poison : Bool)
    (s : State) : State :=
  let r := s.round kind step group
  if r.kids.any (fun (x : Nat × Nat × Nat) => decide (x.1 = child)) then s.count 4 2 12 1
  else (s.putRound { r with kids := r.kids ++ [(child, v.1, v.2)], poison := r.poison || poison }).roundTry use kind step group

/-! ### The cut round (R272) -/

def useCut (s : State) (r : Round) (v : Nat × Nat) (poison : Bool) : State := s.cutReturned r.step v.1 poison

/-- Whether every pass of step n that this engine runs has committed. -/
def State.passesDone (s : State) (n : Nat) : Bool :=
  (List.range (logicals s.cfg)).all (fun k =>
    (s.form.slotLists.getD k []).isEmpty || decide (n < (s.stills.pos.getD k (0, 0)).2))

/-- Whether every Atomizer program of step n has completed on every channel. -/
def State.programsDone (s : State) (n : Nat) : Bool :=
  s.form.programs.all (fun p => s.atmResults.any (fun (r : AtmResult) => decide (r.prog = p.prog) && decide (r.step = n) &&
    Nat.land r.chDone p.chmask == p.chmask))

/-- Contribute to the cut round of a cut step when the step is complete at this engine, or skipped. -/
def State.cutTry (s : State) (n : Nat) : State :=
  let t := s.stepSt n
  if s.cutStep n && t.decided && !t.cutSent && (t.skipped || (s.passesDone n && s.programsDone n)) then
    let v := if s.emission.isNone then 1 else 0
    (s.modStep n (fun t => { t with cutSent := true, cutValue := v })).roundOwn useCut 2 n 0 (v, 0)
  else s

/-! ### Norm rounds (R150, R122) -/

/-- The owned shards of a norm group, ascending. -/
def State.groupShards (s : State) (g : Nat) : List Nat :=
  s.ownedShards.filter (fun i => match shardEntry s.form i with
    | some e => decide (e.normGroup = g)
    | none => false)

/-- Write the phase-B entries of a norm group when its sums return (R122). -/
def useNorm (s : State) (r : Round) (v : Nat × Nat) (poison : Bool) : State :=
  let own := s.groupShards r.group
  if poison then s.scalarHeld own r.step
  else
    let bad := !finite64 v.1 || !finite64 v.2
    let s := if bad then s.post 0x0103 0 7 r.group r.step 0 else s
    let rec' := [s.stills.current, s.stills.nextRec].findSome? (fun (o : Option StepRecord) =>
      o.bind (fun x => if x.step = r.step then some x else none))
    match rec', s.form.norms.find? (fun (n : NormEntry) => decide (n.group = r.group)) with
    | some x, some n => eachIn own (fun s i => s.modShard i (fun h => { h with entry := some (phaseEntry x n v.1 v.2), entryAt := s.time })) s
    | _, _ => s

/-- The sum of the shards' values, left to right from the first (R150); +0 for none. -/
def sumLeft : List Nat → Nat
  | [] => 0
  | x :: xs => xs.foldl add64 x

/-- Send the own value of a norm group's round when every owned shard of the group has finished phase A; under the guard not before the
decision, and never for a skipped step (R150, R152). A poisoned shard runs no pass and adds nothing (log entry 21). -/
def State.normTry (s : State) (n g : Nat) : State :=
  let own := s.groupShards g
  let ok := own.filter (fun i => !s.badAt i n)
  let t := s.stepSt n
  if t.skipped || (s.form.hdr.nfGuard && !t.decided) then s
  else if ok.any (fun i => (s.shard i).norm.isNone) then s
  else
    let q := fun (f : Nat × Nat → Nat) => sumLeft (ok.filterMap (fun i => (s.shard i).norm.map f))
    s.roundOwn useNorm 1 n g (q Prod.fst, q Prod.snd)

/-- The norm rounds of the groups of which this engine owns no shard: sent at the first intake-open point of the step, under the guard after
the decision (R150, log entry 121). -/
def State.normIdle (s : State) (n : Nat) : State :=
  eachIn (s.form.norms.filter (fun (x : NormEntry) => (s.groupShards x.group).isEmpty)) (fun s x => s.normTry n x.group) s

/-! ### Completion records (R118) -/

/-- A Still completion record (Table 4-12). -/
def stillRecord (step accord phase : Nat) (late poison skipped remapped refused : Bool) (shard version : Nat) (k : Counts)
    (time : Nat) : List Byte :=
  leBytes 64 (step % 2 ^ 48 + accord % 256 * 2 ^ 48 + phase % 2 * 2 ^ 56 + ofBool late * 2 ^ 57 + ofBool poison * 2 ^ 58 +
    ofBool skipped * 2 ^ 59 + ofBool remapped * 2 ^ 60 + ofBool refused * 2 ^ 61 + shard % 2 ^ 32 * 2 ^ 64 +
    version % 2 ^ 32 * 2 ^ 96 + k.nan * 2 ^ 128 + k.overflow * 2 ^ 160 + k.saturated * 2 ^ 192 + k.flushed * 2 ^ 224 +
    k.zeroBlock * 2 ^ 256 + k.invalid * 2 ^ 288 + k.divzero * 2 ^ 320 + k.underflowEx * 2 ^ 352 + k.inexact * 2 ^ 384 +
    k.nonfiniteIn * 2 ^ 416 + time % 2 ^ 64 * 2 ^ 448)

/-- Place a completion record in the Blotter when BLOT_COMPL asks for it (R118). -/
def State.blotCompletion (s : State) (kind step : Nat) (r : List Byte) : State :=
  if s.form.hdr.blotCompl then s.blotPair (blotRecord 0x08 kind step 0) r else s

/-- The passes of a shard in slot-list order. -/
def State.passesOf (s : State) (i : Nat) : List SlotEntry :=
  match shardEntry s.form i with
  | none => []
  | some e =>
    match (stillsOf s.cfg e.n).head? with
    | some k => (s.form.slotLists.getD k []).filter (fun (x : SlotEntry) => decide (x.shard = i))
    | none => []

/-- The records of the passes that a skipped step did not run. -/
def State.skippedRecords (s : State) (n : Nat) : State :=
  eachIn s.ownedShards (fun s i =>
    match shardEntry s.form i with
    | none => s
    | some e => eachIn (s.passesOf i) (fun s (p : SlotEntry) =>
        s.blotCompletion 0 n (stillRecord n e.accord (if p.phase = 2 then 1 else 0) false (s.badAt i n) true
          (anyDoubled s.cfg s.stills) false i
          (s.shard i).ready.version {} s.time)) s) s

/-! ### Slots: closing (R138) -/

/-- Whether a host's selection of steps names step n (Table 12-10). -/
def Selection.names (x : Selection) (n : Nat) : Bool :=
  decide (x.every ≠ 0) && decide (x.first ≤ n) && decide (n ≤ x.last) && decide ((n - x.first) % x.every = 0)

/-- The steps of which digests are made (R291). -/
def State.digestStep (s : State) (n : Nat) : Bool := if s.digestSel.every = 0 then s.cutStep n else s.digestSel.names n

/-- Queue the gradient capture of an owned shard, or drop it as CAPTURE_MISS (R293). -/
def State.captureGrad (s : State) (i n : Nat) (e : ShardEntry) (r : List Nat) : State :=
  if s.captureSel.names n && decide (s.captureSel.shardFirst ≤ i) && decide (i ≤ s.captureSel.shardLast) then
    let bs := r.flatMap (leBytes 4)
    if s.queued + bs.length ≤ captureQueue s.cfg then { s with outPages := s.outPages ++ pagesOf 2 0 n e.gei 4 i bs }
    else
      let s := (s.count 6 0 6 1).error { code := 0x010B, cls := .c, unit := 0x000A, shard := i, arg0 := n }
      let s := if (s.stepSt n).captureMiss then s else s.count 8 32 5 1
      s.modStep n (fun t => { t with captureMiss := true })
  else s

/-- Close a shard's slot for its intake step: the conversion counts go to NUMERIC (R78), the window exponent of the next step is formed
(R141), the intake step advances (R133). Without an open slot only the intake step advances. -/
def State.closeSlot (s : State) (i : Nat) (skip : Bool) : State :=
  match shardEntry s.form i with
  | none => s
  | some e =>
    let h := s.shard i
    let s := match h.slot with
      | none => s
      | some t =>
        let s := s.countAll t.counts
        let s := match t.result with
          | some r => if s.owns e && !skip then s.captureGrad i t.step e r else s
          | none => s
        let kept := if s.owns e && !skip && s.digestStep t.step then t.result.map (fun r => (t.step, r)) else none
        let track := e.wtrack && !skip && !s.shardBad i
        let hist := match track, t.eMax with
          | true, some x => (x :: h.whist).take 16
          | _, _ => h.whist
        let w := if !track then h.w
          else if s.owns e then nextW s.form.consts.wxH s.form.consts.wxM hist h.w
          else (Config.freeNat s.free % 254 : Nat) - 126
        let s := if track && !s.owns e then s.tickFree else s
        s.modShard i (fun x => { x with
          gKept := if kept.isSome then kept else x.gKept, whist := hist, w := w,
          rcvdPast := x.rcvdPast ++ t.rcvd.map (fun (p : Nat × Nat) => (t.step, p.1, p.2)) })
    let s := s.modShard i (fun x => { x with slot := none, intakeStep := x.intakeStep + 1, taken := [] })
    s.promote i

/-! ### Digests (R291) -/

/-- The little-endian bytes of decoded values (R291). -/
def laneBytes (ls : List Lane) : List Byte := ls.flatMap (fun l => if l.w64 then leBytes 8 l.code else leBytes 4 l.code)

/-- The decoded values of a stream of a shard, in GEI order; none for a stream that is absent. -/
def State.streamLanes (s : State) (e : ShardEntry) (stream : Nat) : Option (List Lane) :=
  (descOf s.form e stream).map (fun d => (stillsOf s.cfg e.n).flatMap (fun k => s.stripeLanes d k (stripeCount s.cfg e.n k)))

/-- The digest records of a shard after its last pass of a step, or of a skipped step: one per GEI window of 2^22 (R291). -/
def State.digests (s : State) (i n : Nat) (e : ShardEntry) (skipped : Bool) : State :=
  if !s.digestStep n then s
  else
    let g := match (s.shard i).gKept with
      | some (m, r) => if m = n && !skipped then some (r.map lane32) else none
      | none => none
    let w0 := e.gei / 2 ^ 22
    let w1 := (e.gei + e.n - 1) / 2 ^ 22
    eachIn (List.range (w1 + 1 - w0)) (fun s j =>
      let lo := max e.gei ((w0 + j) * 2 ^ 22)
      let hi := min (e.gei + e.n) ((w0 + j + 1) * 2 ^ 22)
      let crc := fun (l : Option (List Lane)) => match l with
        | some ls => crc64 (laneBytes (slice ls (lo - e.gei) (hi - lo)))
        | none => 0
      s.blot (blotRecord 0x02 (ofBool g.isNone) n (lo % 2 ^ 64 + (hi - lo) % 2 ^ 32 * 2 ^ 64 + i % 2 ^ 32 * 2 ^ 96 +
        crc g * 2 ^ 128 + crc (s.streamLanes e 0) * 2 ^ 192 + crc (s.streamLanes e 1) * 2 ^ 256 +
        crc (s.streamLanes e 2) * 2 ^ 320))) s

/-- Whether a shard still has a pass of a step before n to end. -/
def State.passesBefore (s : State) (i n : Nat) (e : ShardEntry) : Bool :=
  (stillsOf s.cfg e.n).any (fun k =>
    let p := s.stills.pos.getD k (0, 0)
    let list := s.form.slotLists.getD k []
    list.any (fun (x : SlotEntry) => decide (x.shard = i)) && (decide (p.2 + 1 < n) ||
      (decide (p.2 < n) && (list.drop p.1).any (fun (x : SlotEntry) => decide (x.shard = i)))))

/-- The digest records of a shard for a skipped step, once the passes of the steps before it have ended (R291). -/
def State.skipDigest (s : State) (i n : Nat) : State :=
  match shardEntry s.form i with
  | none => s
  | some e => if s.passesBefore i n e then s else s.digests i n e true

/-- The skipped steps that directly follow step n. -/
def State.skippedAfter (s : State) : Nat → Nat → List Nat
  | 0, _ => []
  | fuel + 1, n => if (s.stepSt (n + 1)).skipped then (n + 1) :: s.skippedAfter fuel (n + 1) else []

/-! ### The decision of a step (R151 to R154) -/

/-- The step status block (Table 5-8). -/
def statusWord0 (n : Nat) (l : Int) (skipped guard : Bool) : Nat :=
  n % 2 ^ 48 + toSigned 8 l * 2 ^ 48 + ofBool skipped * 2 ^ 56 + ofBool guard * 2 ^ 57
def statusWord1 (n nf : Nat) (guard : Bool) : Nat := (if guard then min nf (2 ^ 48 - 1) else 0) + n % 2 ^ 16 * 2 ^ 48

/-- Still positions never rest on a skipped step. -/
def State.passSkip (s : State) (n : Nat) : State :=
  s.modStills (fun t => { t with
    pos := t.pos.map (fun (p : Nat × Nat) => if p.2 = n then (0, n + 1) else p),
    passes := t.passes.filter (fun (p : Pass) => decide (p.step ≠ n)) })

/-- Skip step n (R152, R116). -/
def State.skipStep (s : State) (n nf : Nat) : State :=
  let s := s.passSkip n
  let s := s.skippedRecords n
  let s := eachIn s.ownedShards (fun s i => s.skipDigest i n) s
  let s := eachIn s.ownedShards (fun s i => s.modShard i (fun h => { h with ready := { h.ready with skipped := true } })) s
  let s := eachIn (List.range s.shards.length) (fun s i => if (s.shard i).intakeStep = n then s.closeSlot i true else s) s
  let s := s.mark n (fun t => { t with skipped := true })
  let s := s.blot (blotRecord 0x04 0 n (nf % 2 ^ 64 + toSigned 8 s.run.lossExp * 2 ^ 64 + s.run.updates % 2 ^ 48 * 2 ^ 72))
  s.cutTry n

/-- Decide step n (R152, R153, R154, R106). -/
def State.decideStep (s : State) (n nf : Nat) (skipped : Bool) : State :=
  if (s.stepSt n).decided then s
  else
    let lg := lossUpdate s.form.consts s.run.lossExp s.run.good skipped
    let u := if skipped then s.run.updates else s.run.updates + 1
    let s := s.modRun (fun r => { r with lossExp := lg.1, good := lg.2, updates := u })
    let s := s.modStep n (fun t => { t with decided := true, decidedAt := s.time, skipped := skipped, u := u, l := lg.1, good := lg.2 })
    let s := s.modRun (fun r => { r with
      status1 := statusWord1 n nf s.form.hdr.nfGuard, status0 := statusWord0 n lg.1 skipped s.form.hdr.nfGuard })
    if skipped then s.skipStep n nf
    else (if s.form.hdr.nfGuard || s.form.plan.isEmpty then s.normIdle n else s).cutTry n

/-- The total of a non-finite count round (R152, R265). -/
def useCount (s : State) (r : Round) (v : Nat × Nat) (poison : Bool) : State :=
  if poison then s.scalarHeld s.ownedShards r.step else s.decideStep r.step v.1 (Nat.blt 0 v.1)

/-- Whether a shard has nothing more to add to the count of step n (R151). -/
def State.countReady (s : State) (n i : Nat) : Bool :=
  let h := s.shard i
  match shardEntry s.form i with
  | none => true
  | some e =>
    (!s.owns e && decide (hostRanks s.form i = 0)) || decide (n < h.intakeStep) || s.shardBad i ||
      (match h.slot with
       | some t => decide (t.step = n) && decide (t.accepted.length = t.h) && (!s.owns e || t.result.isSome)
       | none => false)

/-- Send the non-finite count of step n when it is complete (R151). -/
def State.countTry (s : State) (n : Nat) : State :=
  let t := s.stepSt n
  if s.form.hdr.nfGuard && s.run.anchored && decide (n ≤ s.run.lastStep) && !t.nfSent &&
      (List.range s.form.shards.length).all (fun i => s.countReady n i) then
    (s.modStep n (fun t => { t with nfSent := true })).roundOwn useCount 0 n 0 (t.nf, 0)
  else s

/-- A total or a child's value of any round. -/
def useRound (kind : Nat) : State → Round → (Nat × Nat) → Bool → State :=
  if kind = 0 then useCount else if kind = 1 then useNorm else useCut

/-! ### Folding (R139, R140) -/

/-- Chunk marker of a poisoned chunk. -/
def fmtPoison : Nat := 0xFF

/-- The multiplicand and the factor of element code x of a chunk. -/
def Held.term (h : Held) (x : Nat) : Val × Val :=
  if h.fmt = 0x30 ∨ h.fmt = 0x31 then (decode (gs16Fmt h.fmt) x, decode binary32 h.scale)
  else if h.fmt = 0x38 then (decode binary32 (decodeBf16s (signed 8 h.scale) x), decode binary32 0x3F800000)
  else (decode binary32 x, decode binary32 0x3F800000)

/-- The exact term that WX adds. -/
def Held.exact (h : Held) (x : Nat) : Val :=
  if h.fmt = 0x30 ∨ h.fmt = 0x31 then mulExact (h.term x).1 (h.term x).2 else (h.term x).1

/-- The exponent of a nonzero finite term (R141). -/
def termExp : Val → Option Int
  | .fin _ m e => if m = 0 then none else some (exOf m e)
  | _ => none

/-- The larger of two exponents. -/
def maxExp : Option Int → Option Int → Option Int
  | some a, some b => some (max a b)
  | some a, none => some a
  | none, b => b

/-- Fold a chunk into the accumulator of a slot. -/
def Slot.fold (t : Slot) (wx : Bool) (h : Held) : Slot :=
  if h.fmt = fmtPoison then { t with poisoned := true }
  else
    let off := 512 * h.chunk
    if wx then
      let old := slice t.wx off h.codes.length
      let terms := h.codes.map h.exact
      let conv := terms.map (wxTerm t.w)
      { t with wx := t.wx.take off ++ List.zipWith (fun a (c : Int × Cat) => a + c.1) old conv ++ t.wx.drop (off + h.codes.length),
               eMax := terms.foldl (fun m v => maxExp m (termExp v)) t.eMax,
               counts := t.counts.add (Accord.countCats (conv.map Prod.snd)) }
    else
      let old := slice t.acc off h.codes.length
      { t with acc := t.acc.take off ++ List.zipWith (fun a x =>
                 (fmaV binary32 .nearestEven (h.term x).1 (h.term x).2 (decode binary32 a)).1) old h.codes ++
                 t.acc.drop (off + h.codes.length) }

/-- Pass over the ranks whose partials are EMPTY (R148). -/
def skipEmpties (empties : List Nat) : Nat → Nat → Nat
  | 0, r => r
  | n + 1, r => if empties.contains r then skipEmpties empties n (r + 1) else r

/-- Fold a chunk at its turn and move the chunk's next rank on. -/
def Slot.foldTurn (t : Slot) (h : Held) : Slot :=
  let t := t.fold false h
  { t with next := t.next.set h.chunk (skipEmpties t.empties t.k (h.rank + 1)) }

/-- Give a chunk to a slot: WX folds it, OA folds it at its turn and holds it before (R139, R140). -/
def Slot.give (t : Slot) (wx : Bool) (h : Held) : Slot :=
  if wx then t.fold true h
  else if t.next.getD h.chunk 0 = h.rank then t.foldTurn h
  else { t with held := t.held ++ [h] }

/-- Whether every contributor has been folded or passed over. -/
def Slot.complete (t : Slot) (wx : Bool) : Bool :=
  if wx then
    decide (t.accepted.length = t.h) &&
      (List.range (t.k - t.h)).all (fun c => t.empties.contains (t.h + c) ||
        (List.range t.next.length).all (fun j => t.rcvd.contains (t.h + c, j)))
  else t.next.all (fun r => decide (t.k ≤ r))

/-! ### Partials (R144 to R148) -/

/-- A partial descriptor (Table 9-9). -/
def partialDesc (shard step chunk : Nat) (empty : Bool) (fmt : Nat) (k : Int) (count : Nat) : List Byte :=
  leBytes 16 (shard % 2 ^ 32 + step % 2 ^ 48 * 2 ^ 32 + chunk % 2 ^ 12 * 2 ^ 80 + ofBool empty * 2 ^ 92 + fmt % 256 * 2 ^ 96 +
    toSigned 8 k * 2 ^ 104 + count % 2 ^ 10 * 2 ^ 112)

/-- The format of a shard's partials (Table 6-8). -/
def partialFmt (e : ShardEntry) : Nat := if e.pfmtBf16s then 0x38 else 0x02

/-- Send an EMPTY partial. -/
def State.sendEmpty (s : State) (i step : Nat) (e : ShardEntry) : State :=
  match s.shardParent e with
  | some p => s.send 0x06 p false (partialDesc i step 0 true (partialFmt e) 0 0)
  | none => s

/-- Send every chunk of a poisoned partial (R147). -/
def State.sendPoisoned (s : State) (i step : Nat) (e : ShardEntry) : State :=
  match s.shardParent e with
  | some p => eachIn (List.range (chunkCount e.n)) (fun s j =>
      s.send 0x06 p true (partialDesc i step j false (partialFmt e) 0 (chunkLen e.n j))) s
  | none => s

/-- The bytes and categories of one chunk of a partial. -/
def chunkBytes (e : ShardEntry) (codes : List Nat) : Int × List Byte × List Cat :=
  if e.pfmtBf16s then
    let k := chunkScale codes
    let enc := codes.map (encodeBf16s k)
    (k, enc.flatMap (fun (x : Nat × Cat) => leBytes 2 x.1), enc.map Prod.snd)
  else (0, codes.flatMap (leBytes 4), [])

/-- Send a partial in chunks of 512 elements (R145). -/
def State.sendPartial (s : State) (i step : Nat) (e : ShardEntry) (r : List Nat) : State :=
  match s.shardParent e with
  | none => s
  | some p => eachIn (List.range (chunkCount e.n)) (fun s j =>
      let c := chunkBytes e (slice r (512 * j) (chunkLen e.n j))
      let s := s.modShard i (fun h => { h with slot := h.slot.map (fun t => { t with counts := t.counts.add (Accord.countCats c.2.2) }) })
      s.send 0x06 p false (partialDesc i step j false (partialFmt e) c.1 (chunkLen e.n j) ++ c.2.1)) s

/-- The binary32 results of a complete slot, and the categories of their rounding (R139, R140, R50). -/
def Slot.results (t : Slot) (wx : Bool) : List Nat × List Cat :=
  if wx then ((t.wx.map (wxResult t.w)).map Prod.fst, (t.wx.map (wxResult t.w)).map Prod.snd) else (t.acc, [])

/-- A shard is poisoned: its slot closes (R138), and a non-owner's partial goes up poisoned (R147). -/
def State.poisonSlot (s : State) (i : Nat) : State :=
  match shardEntry s.form i with
  | none => s
  | some e =>
    let n := (s.shard i).intakeStep
    match (s.shard i).slot with
    | none => s
    | some _ =>
      let s := s.sendPoisoned i n e
      (s.closeSlot i false).countTry n

/-- Poison a shard for the step in progress (R112). It runs no further pass, so a live emission captures its planes now
(log entry 22). -/
def State.poisonQuiet (s : State) (i : Nat) : State :=
  let s := s.poison i
  let s := eachIn (stillsOf s.cfg ((shardEntry s.form i).map ShardEntry.n |>.getD 0)) (fun s k =>
    eachIn [0, 1, 2, 4, 5] (fun s st => s.capture false i st k) s) s
  let s := s.poisonSlot i
  match shardEntry s.form i with
  | some x => s.normTry s.run.lastStep x.normGroup
  | none => s

/-- Poison a shard for the step in progress, with its record. -/
def State.poisonShard (s : State) (i : Nat) (e : ErrSpec) : State := (s.error e).poisonQuiet i

/-- When every contributor is in, form the slot's result: the owner releases G to the Stills, a non-owner sends its partial and closes
(R144, R147, R148). -/
def State.slotCheck (s : State) (i : Nat) : State :=
  match shardEntry s.form i, (s.shard i).slot with
  | some e, some t =>
    if t.result.isSome || !t.complete e.wx then s
    else if t.poisoned then
      if s.owns e then s.poisonShard i (shardPoisoned i 0)
      else (((s.sendPoisoned i t.step e).closeSlot i false)).countTry t.step
    else if !s.owns e && decide (t.h = 0) && decide (t.empties.length = t.k) then
      ((s.sendEmpty i t.step e).closeSlot i false).countTry t.step
    else
      let r := t.results e.wx
      let s := s.modShard i (fun h => { h with slot := h.slot.map (fun t => { t with
        result := some r.1, held := [], counts := t.counts.add (Accord.countCats r.2) }) })
      if s.owns e then
        let s := s.modStep t.step (fun x => { x with nf := x.nf + (r.1.filter nonFinite32).length })
        s.countTry t.step
      else ((s.sendPartial i t.step e r.1).closeSlot i false).countTry t.step
  | _, _ => s

/-- Change the open slot of a shard. -/
def State.modSlot (s : State) (i : Nat) (f : Slot → Slot) : State :=
  s.modShard i (fun h => { h with slot := h.slot.map f })

/-! ### Opening (R137, R138) -/

/-- The landing pages of all GRAD and CARRY windows. -/
def landingPages (f : Formula) : Nat :=
  (f.windows.filter (fun (w : WinEntry) => w.enable && decide (w.kind ≤ 1))).foldl (fun a w => a + w.issued) 0

/-- The pages of the open slots. -/
def State.slotPages (s : State) : Nat := s.shards.foldl (fun a (h : Shard) => a + (match h.slot with
  | some t => t.pages
  | none => 0)) 0

def State.openSlots (s : State) : Nat := (s.shards.filter (fun (h : Shard) => h.slot.isSome)).length

/-- The plan entry of a shard. -/
def planOf (f : Formula) (i : Nat) : Option PlanEntry := f.plan.find? (fun (p : PlanEntry) => decide (p.shard = i))

/-- A fresh slot. -/
def State.freshSlot (s : State) (i : Nat) (e : ShardEntry) (pages : Nat) : Slot :=
  let h := hostRanks s.form i
  { step := (s.shard i).intakeStep, pages := pages, h := h, k := s.contributors i,
    next := List.replicate (chunkCount e.n) 0,
    acc := if e.wx then [] else List.replicate e.n 0x80000000,
    wx := if e.wx then List.replicate e.n 0 else [],
    w := if e.wtrack then (s.shard i).w else e.wexp }

end Sys2Proof.Machine
end

