-- ==== Sys2Proof/Machine/Intake.lean ====
section
/-! DEFINITION. The intake island's commands: SLOT_OPEN and OA_FOLD; landing writes, contributions and their checks (R128 to R136, Table
5-5), window fences (R127). -/

namespace Sys2Proof.Machine

open Sys2Proof.Bits
open Sys2Proof.Hash
open Sys2Proof.Fp
open Sys2Proof.Convert

/-! ### Taking a contribution -/

/-- The chunks of a host contribution. -/
def hostChunks (rank fmt scale : Nat) (codes : List Nat) : List Held :=
  (chunks 512 (codes.length / 512 + 1) codes).zipIdx.map (fun (p : List Nat × Nat) =>
    { rank := rank, chunk := p.2, fmt := fmt, scale := scale, codes := p.1 })

/-- Take an accepted contribution out of its landing pages: into the slot, or discarded as POISON_DROP (Table 5-5). -/
def State.takeHost (s : State) (w : Nat) (l : Landed) : State :=
  let h := l.hdr
  let codes := codes16 ((s.win w).bytes l.first 64 (2 * h.count))
  let s := if s.shardBad h.shard || ((s.shard h.shard).slot.map Slot.poisoned).getD false then
      s.modSlot h.shard (fun t => { t with accepted := t.accepted ++ [(h.rank, h.pcrc)] }) |>.count 2 w iPoisonDrop 1
    else match shardEntry s.form h.shard with
      | none => s
      | some e => s.modSlot h.shard (fun t =>
          (hostChunks h.rank h.fmt h.scale codes).foldl (fun t c => t.give e.wx c)
            { t with accepted := t.accepted ++ [(h.rank, h.pcrc)] })
  let s := s.consume w l.first
  (s.slotCheck h.shard).countTry h.step

/-! ### SLOT_OPEN and OA_FOLD -/

/-- Whether the intake-open point of a shard's next slot has come. -/
def State.openPoint (s : State) (i : Nat) (p : PlanEntry) : Bool :=
  let n := (s.shard i).intakeStep
  s.run.anchored && (decide (n < s.run.lastStep) || (decide (n = s.run.lastStep) && decide (s.tickTime p.openTick ≤ s.time)))

/-- Whether the store has the pages and a slot (R137, R138). -/
def State.slotRoom (s : State) (p : PlanEntry) : Bool :=
  decide (s.slotPages + p.pages + landingPages s.form + s.pagesFenced.length ≤ intakePages s.cfg) &&
    decide (s.openSlots < slotLimit s.cfg)

/-- Treat each chunk that a slot awaits from a fenced child as received and poisoned (R265). -/
def State.fencedChunks (s : State) (i : Nat) : State :=
  match shardEntry s.form i with
  | none => s
  | some e =>
    eachIn ((s.childrenOf i).zipIdx.filter (fun (c : Nat × Nat) => s.fabric.fences.contains c.1)) (fun s (c : Nat × Nat) =>
      s.modSlot i (fun t =>
        let r := t.h + c.2
        if t.empties.contains r || t.result.isSome then t
        else (List.range (chunkCount e.n)).foldl (fun t j =>
          if t.rcvd.contains (r, j) then t
          else ({ t with rcvd := t.rcvd ++ [(r, j)] } : Slot).give e.wx { rank := r, chunk := j, fmt := fmtPoison, scale := 0, codes := [] }) t)) s

/-- Open a shard's slot; that of a poisoned shard closes at once, and its partial goes up poisoned (R138, R147). -/
def State.openSlot (s : State) (i : Nat) (p : PlanEntry) : State :=
  match shardEntry s.form i with
  | none => s
  | some e =>
    let n := (s.shard i).intakeStep
    if s.shardBad i then
      let s := s.sendPoisoned i n e
      let s := eachIn (s.waitingFor i n) (fun s x => s.takeHost x.1 x.2) s
      ((s.closeSlot i false).countTry n).normIdle n
    else
      let s := s.modShard i (fun h => { h with slot := some (s.freshSlot i e p.pages) })
      let s := eachIn (s.waitingFor i n) (fun s x =>
        if x.2.accepted then s.takeHost x.1 x.2 else s) s
      ((s.fencedChunks i).slotCheck i).normIdle n

/-- The first held chunk whose turn it is (R139). -/
def Slot.due (t : Slot) : Option Held := t.held.find? (fun (h : Held) => decide (t.next.getD h.chunk 0 = h.rank))

/-- OA_FOLD. -/
def execOaFold (shard : Word32) (s : State) : Res :=
  act s (fun s =>
    match ((s.shard shard.toNat).slot.bind Slot.due) with
    | some h => (s.modSlot shard.toNat (fun t => { t with held := t.held.erase h }.foldTurn h)).slotCheck shard.toNat
    | none => s)

/-! ### Window fences (R127) -/

/-- Poison the shards of a fenced GRAD window for the step in progress (R127). -/
def State.windowPoison (s : State) (e : WinEntry) : State :=
  eachIn ((List.range s.shards.length).filter (fun i => decide (e.kind = 0) && decide (e.firstShard ≤ i) && decide (i ≤ e.lastShard)))
    (fun s i =>
      let v := (s.shard i).windowFence || !s.shardBad i
      let s := s.modShard i (fun h => { h with windowFence := v })
      let s := match shardEntry s.form i with
        | some x => if s.owns x then s.poisonShard i (shardPoisoned i 1) else s.poisonSlot i
        | none => s
      s.modShard i (fun h => { h with windowFence := v })) s

/-- Fence a window: everything that has landed and has not been accumulated is discarded (R127). -/
def State.fenceWindow (s : State) (w : Nat) : State :=
  match s.form.windows[w]? with
  | none => s
  | some e =>
    let s := s.modWin w (fun x => { x with
      fenced := true,
      pages := x.pages.filter (fun (p : Page) => decide (p.num < x.returned)),
      landed := x.landed.map (fun (l : Landed) => { l with st := LandState.consumed, accepted := false }) })
    s.windowPoison e

/-! ### The header of a contribution (Table 5-4) -/

/-- A header from its 64 bytes. -/
def parseHdr (b : List Byte) : ContribHdr :=
  let x := leVal b
  { magic := field x 0 16, version := field x 16 8, fmt := field x 24 8, shard := field x 32 32, step := field x 64 48,
    rank := field x 112 16, count := field x 128 32, scale := field x 160 32, pcrc := field x 192 32, rsv := field x 224 256,
    crcOk := decide (crc32c (b.take 60) = field x 480 32) }

/-- Pages of a contribution (R128). -/
def spanOf (count : Nat) : Nat := ceilDiv (64 + 2 * count) 65536

/-- The pages that were free at the page at which a contribution begins, when its first granule landed. -/
def Win.freeAt (w : Win) (issued first : Nat) : Nat := issued - (first - ((w.page first).map Page.ret0).getD w.returned)

/-- The first of checks 1 to 7 of R132 that a header fails; 0 when none. -/
def headerFault (f : Formula) (e : WinEntry) (h : ContribHdr) : Nat :=
  if !h.crcOk then 1
  else if h.magic ≠ 0x5A1C ∨ h.version ≠ 0x03 ∨ h.rsv ≠ 0 then 2
  else if h.fmt ≠ 0x30 ∧ h.fmt ≠ 0x31 then 3
  else if h.shard < e.firstShard ∨ e.lastShard < h.shard ∨ f.shards.length ≤ h.shard then 4
  else if e.localRanks ≤ h.rank then 5
  else if (shardEntry f h.shard).map ShardEntry.n ≠ some h.count then 6
  else if nonFinite32 h.scale then 7
  else 0

/-- A complete contribution is checked in the order of R132 (Table 5-5). -/
def State.checkContribution (s : State) (w : Nat) (e : WinEntry) (l : Landed) : State :=
  let h := l.hdr
  let f := headerFault s.form e h
  if f ≠ 0 then (s.intakeError w iHdrBad 0x0101 f (if h.crcOk then h.shard else 0xFFFFFFFF)).consume w l.first
  else
    let l := { l with last := s.time }
    let cur := (s.shard h.shard).intakeStep
    if h.step < cur then (s.intakeError w iStale 0x0103 h.shard h.shard).consume w l.first
    else if cur + 1 < h.step then (s.intakeError w iFarEarly 0x0104 h.shard h.shard).consume w l.first
    else
      let s := s.modWin w (fun x => { x with landed := x.landed.map (fun (y : Landed) =>
        if y.first = l.first then { y with st := LandState.waiting, last := s.time } else y) })
      if h.step = cur + 1 then s.count 2 w iEarly 1
      else
        let r := s.acceptCheck w l
        if !r.2 then r.1
        else if (s.shard h.shard).slot.isSome || s.shardBad h.shard then r.1.takeHost w l
        else r.1

/-- The bytes after which an entry is complete: a header that fails HCRC is taken at the span that its COUNT states, cut to the pages
that are free (log entry 23). -/
def Landed.need (l : Landed) : Nat := if l.hdr.crcOk then 64 + 2 * l.hdr.count else min (64 + 2 * l.hdr.count) (65536 * l.span)

/-- Book the writes that landed in a contribution's pages before its header was complete, each at its own time (R178). -/
def State.bookLanded (s : State) (w span : Nat) (h : ContribHdr) : State :=
  let x := s.win w
  let first := x.begun - span
  let ours := fun (p : Page) => decide (first ≤ p.num) && decide (p.num < first + span)
  let s := eachIn ((x.pages.filter ours).flatMap Page.times) (fun s t => s.bookAt h.shard h.step 32 t) s
  s.modWin w (fun x => { x with pages := x.pages.map (fun p => if ours p then { p with times := [] } else p) })

/-- A header is complete: the span is taken from COUNT, or the contribution was started without credit (R130). -/
def State.beginContribution (s : State) (w : Nat) (e : WinEntry) : State :=
  let x := s.win w
  let h := parseHdr (x.bytes x.begun 0 64)
  let c := spanOf h.count
  let free := x.freeAt e.issued x.begun
  if h.crcOk ∧ free < c then
    let s := s.error { code := 0x0109, cls := .f, unit := 0x0005, index := w, arg0 := c - free }
    s.fenceWindow w
  else
    let span := if h.crcOk then c else max 1 (min c free)
    let s := s.modWin w (fun x => { x with
      begun := x.begun + span,
      landed := x.landed ++ [{ first := x.begun, span := span, st := LandState.receiving, hdr := h }] })
    if h.crcOk then
      s.bookLanded w span h
    else s

/-- Bring a GRAD window up to date after a write: headers that are complete begin contributions, contributions that are complete are
checked; `fuel` bounds the contributions that one write can begin. -/
def State.gradProgress (e : WinEntry) (w : Nat) : Nat → State → State
  | 0, s => s
  | fuel + 1, s =>
    let x := s.win w
    if x.fenced then s
    else if decide (x.begun < x.returned + e.issued) && x.filled x.begun 64 then
      (s.beginContribution w e).gradProgress e w fuel
    else
      match (ringOrder e.issued x.landed).find? (fun (l : Landed) => decide (l.st = .receiving) && x.filled l.first l.need) with
      | some l => (s.checkContribution w e l).gradProgress e w fuel
      | none => s

/-! ### Landing writes (R130) -/

/-- Drop a write as CREDIT_VIOLATION. -/
def State.creditViolation (s : State) (w aptOff : Nat) : State := s.intakeError w iCredit 0x0108 aptOff 0xFFFFFFFF

/-- Whether a landing write is taken: to a free page, or to a contribution that is still being received. -/
def Win.takes (x : Win) (n : Nat) : Bool :=
  match x.holder n with
  | some l => decide (l.st = .receiving)
  | none => decide (x.begun ≤ n)

/-- A write of one granule at a region offset of a GRAD or CARRY window (R130). -/
def State.landWrite (s : State) (w : Nat) (e : WinEntry) (aptOff off : Nat) (d : BitVec 256) (full : Bool) : State :=
  let x := s.win w
  if x.fenced || !full then s.creditViolation w aptOff
  else
    let n := x.runningPage e.issued (off / 65536)
    if !x.takes n then s.creditViolation w aptOff
    else
      let s := match x.holder n with
        | some l => if l.hdr.crcOk && decide (e.kind = 0) then s.bookArrival l.hdr.shard l.hdr.step 32 else s
        | none => s
      s.modWin w (fun y => let y := y.write n (off % 65536 / 32) d
        if (x.holder n).isNone then y.noteTime n s.time else y)

end Sys2Proof.Machine
end

