-- ==== Sys2Proof/Machine/Passes.lean ====
section
/-! DEFINITION. Passes (04_stills_and_accords.md): the step record's buffers (R103), prefetch (R108), the start of a pass (R109), block
commits (R110), the end of a pass with its readiness flip and records (R115, R118, R291), takeover (R85, R111). -/

namespace Sys2Proof.Machine

open Sys2Proof.Bits
open Sys2Proof.Hash
open Sys2Proof.Fp
open Sys2Proof.Convert

/-! ### The program of a pass -/

/-- What a pass runs: its words, lane width, and input and output stream masks. -/
structure PassProg where
  w64 : Bool
  ops : List Accord.Op
  inMask : Nat
  outMask : Nat
deriving DecidableEq, Repr

/-- The WR streams of a shard as a mask. -/
def wrMask (f : Formula) (e : ShardEntry) : Nat :=
  (descsOf f e).foldl (fun a d => if d.wr then Nat.lor a (2 ^ d.stream) else a) 0

/-- Whether the program of a built-in in a phase reads a stream: phase A of clipping reads G alone. -/
def builtinMask (code phase : Nat) : Nat := if phase = 1 ∧ code ≠ 0x04 then 0x08 else Accord.builtinIn code

/-- The program of a shard's pass in a phase (0 single, 1 A, 2 B; R119 to R121). -/
def passProg (f : Formula) (e : ShardEntry) (phase : Nat) : PassProg :=
  if e.accord < 0x40 then
    let wr := wrMask f e
    if phase = 1 then ⟨false, Accord.builtinOpsA e.accord e.clip, builtinMask e.accord 1, 0⟩
    else ⟨false, Accord.maskWr wr (Accord.builtinOps e.accord), Accord.builtinIn e.accord, Nat.land (Accord.builtinOut e.accord) wr⟩
  else match f.accords.find? (fun (c : Accord.Custom) => decide (c.hdr.code = e.accord)) with
    | some c => ⟨c.hdr.w64, if phase = 1 then c.opsA else c.ops, c.hdr.inMask, if phase = 1 then 0 else c.hdr.outMask⟩
    | none => ⟨false, [], 0, 0⟩

/-- Whether a program draws Sillage bits (R102). -/
def PassProg.draws (p : PassProg) : Bool := p.ops.any (fun o => Accord.drawsWord o.opc)

/-- Whether a program reads G. -/
def PassProg.readsG (p : PassProg) : Bool := bit p.inMask 3

/-- Whether the key island is powered, keyed and not fenced (R66, R102). -/
def State.keyOk (s : State) : Bool := s.present 3 && s.keyPresent && !s.keyFenced

/-- Whether PD-KEY is needed at S1 or S2: a FRESH_SEED waits for it, or an Accord of the admitted Formula uses Sillage (R323). -/
def State.keyWanted (s : State) : Bool :=
  s.entropy.wanted || s.form.shards.any (fun (e : ShardEntry) => s.owns e && ((passProg s.form e 1).draws || (passProg s.form e 2).draws))

/-- The input streams with planes. -/
def inputDescs (f : Formula) (e : ShardEntry) (p : PassProg) : List Desc :=
  (descsOf f e).filter (fun (d : Desc) => decide (d.stream ≠ 3) && bit p.inMask d.stream)

/-- The output streams. -/
def outputDescs (f : Formula) (e : ShardEntry) (p : PassProg) : List Desc :=
  (descsOf f e).filter (fun (d : Desc) => bit p.outMask d.stream)

/-- Whether a stripe of t elements fits the operand buffer (R108): at most 128 KiB of input-stream bytes. -/
def stripeFits (f : Formula) (e : ShardEntry) (p : PassProg) (t : Nat) : Bool :=
  decide ((inputDescs f e p).foldl (fun a d => a + elemPlaneBytes d.fmt t + scalePlaneBytes d.fmt t) 0 ≤ 131072)

/-! ### Order against Atomizer programs (R212) -/

/-- A range of channel-group addresses of group k, and whether it is written. -/
abbrev Touch := Nat × Nat × Nat × Bool

/-- The planes that a pass touches. -/
def passTouches (c : Cfg) (f : Formula) (e : ShardEntry) (p : PassProg) : List Touch :=
  (stillsOf c e.n).flatMap (fun k =>
    let t := stripeCount c e.n k
    let of' := fun (d : Desc) (w : Bool) (b : Nat) =>
      [(k, ebase d b, elemPlaneBytes d.fmt t, w), (k, sbase d b, scalePlaneBytes d.fmt t, w)]
    (inputDescs f e p).flatMap (fun d => of' d false 0) ++
      (outputDescs f e p).flatMap (fun d => if d.stream = 6 then of' d true 0 ++ of' d true 1 else of' d true 0))

/-- The footprints that a program touches: LOADs read and STOREs write. -/
def progTouches (c : Cfg) (p : AtmProgram) : List Touch :=
  (p.body.filter (fun (w : AtmCmd) => decide (w.cmd = 1) || decide (w.cmd = 2))).flatMap (fun w =>
    match p.operands[w.opnd]? with
    | some o => (List.range (channels c / 4)).map (fun k => (k, o.foot, o.trows * 2 ^ 18, decide (w.cmd = 2)))
    | none => [])

/-- Whether a pass range and a footprint share a byte on a channel of the program, and one of them writes it. -/
def touchClash (chmask : Nat) (a b : Touch) : Bool :=
  let lo := max a.2.1 b.2.1
  let hi := min (a.2.1 + a.2.2.1) (b.2.1 + b.2.2.1)
  decide (a.1 = b.1) && (a.2.2.2 || b.2.2.2) && decide (lo < hi) &&
    (List.range (min 4 ((hi - 1) / 64 + 1 - lo / 64))).any (fun i => bit chmask (4 * a.1 + (lo / 64 + i) % 4))

/-- Whether a pass and a program touch a common byte that one of them writes. -/
def passClash (c : Cfg) (f : Formula) (e : ShardEntry) (g : PassProg) (p : AtmProgram) : Bool :=
  (passTouches c f e g).any (fun a => (progTouches c p).any (fun b => touchClash p.chmask a b))

/-- The place of AFTER's publishing pass in the slot list of L0, which names every owned shard's passes (R88, R172). -/
def afterIdx (f : Formula) (p : AtmProgram) : Option Nat :=
  if p.after = 0xFFFFFFFF then none
  else (f.slotLists.getD 0 []).findIdx? (fun (x : SlotEntry) => decide (x.shard = p.after) && x.publish)

/-- Whether a program is ordered before the pass at a place of the list, in one step. -/
def progFirst (f : Formula) (p : AtmProgram) (idx : Nat) : Bool :=
  match afterIdx f p with
  | some a => decide (a < idx)
  | none => true

/-- The result of a program of a step. -/
def State.atmResult (s : State) (prog n : Nat) : Option AtmResult :=
  s.atmResults.find? (fun (r : AtmResult) => decide (r.prog = prog) && decide (r.step = n))

/-- Whether a program of step n has completed on every channel. -/
def State.progDone (s : State) (p : AtmProgram) (n : Nat) : Bool :=
  match s.atmResult p.prog n with
  | some r => Nat.land r.chDone p.chmask == p.chmask
  | none => false

/-- The steps anchored so far that this engine still keeps. -/
def State.anchoredSteps (s : State) : List Nat :=
  (s.run.steps.map (fun (t : StepSt) => t.step)).filter (fun m => s.run.anchored && decide (m ≤ s.run.lastStep))

/-! ### Step records (R103) -/

/-- The record of a step, in either buffer. -/
def State.recordFor (s : State) (n : Nat) : Option StepRecord :=
  [s.stills.current, s.stills.nextRec].findSome? (fun (o : Option StepRecord) =>
    o.bind (fun x => if x.step = n then some x else none))

/-- The step whose record is written next. -/
def State.nextRecordStep (s : State) : Nat :=
  match s.stills.nextRec, s.stills.current with
  | some r, _ => r.step + 1
  | none, some r => r.step + 1
  | none, none => s.run.nextStep

/-- Whether a buffer is free: the second one, or that of a step which the Stills have finished. -/
def State.recordRoom (s : State) : Bool :=
  match s.stills.nextRec, s.stills.current with
  | some _, some r => s.passesDone r.step && s.programsDone r.step
  | _, _ => true

/-- ENVELOPE reasons (Table 6-18). -/
def envRecord : Nat := 0x06

/-- STEP_RECORD_WRITE: firmware writes the next step's record after the decision of the step before (R103, R106). -/
def execStepRecordWrite (s : State) : Res :=
  act s (fun s =>
    let m := s.nextRecordStep
    let prev := s.run.steps.find? (fun (t : StepSt) => decide (t.step + 1 = m))
    let ok := match prev with
      | some t => t.decided
      | none => decide (m = s.run.nextStep)
    when (s.formula.isSome && s.present 0 && ok && s.recordRoom) (fun s =>
      let u := (match prev with
        | some t => t.u
        | none => s.run.updates) + 1
      let l := match prev with
        | some t => t.l
        | none => s.run.lossExp
      let r := s.stepRecord m u l
      let s := { s with free := s.free + 32 }
      let s := s.modStills (fun t => match t.current, t.nextRec with
        | none, _ => { t with current := some r }
        | some _, none => { t with nextRec := some r }
        | some _, some n => { t with current := some n, nextRec := some r })
      if s.run.anchored && decide (m ≤ s.run.lastStep) then
        eachIn (s.ownedShards.filter (fun i => ((s.shard i).slot.bind Slot.result).isSome)) (fun s i => s.envelope i m envRecord) s
      else s) s)

/-! ### Positions -/

/-- The slot list of a logical Still. -/
def slotList (f : Formula) (k : Nat) : List SlotEntry := f.slotLists.getD k []

/-- The position after a position. -/
def nextPos (f : Formula) (k : Nat) (p : Nat × Nat) : Nat × Nat :=
  if p.1 + 1 < (slotList f k).length then (p.1 + 1, p.2) else (0, p.2 + 1)

/-- The entry at a position. -/
def entryAt (f : Formula) (k : Nat) (p : Nat × Nat) : Option SlotEntry := (slotList f k)[p.1]?

/-- A pass of the list of passes. -/
def samePass (i phase n : Nat) (p : Pass) : Bool := decide (p.shard = i) && decide (p.phase = phase) && decide (p.step = n)

def State.findPass (s : State) (i phase n : Nat) : Option Pass := s.stills.passes.find? (samePass i phase n)

def State.modPass (s : State) (i phase n : Nat) (f : Pass → Pass) : State :=
  s.modStills (fun t => { t with passes := t.passes.map (fun (p : Pass) => if samePass i phase n p then f p else p) })

/-- The stripe of a Still in a pass. -/
def Pass.stripe (p : Pass) (k : Nat) : Option Stripe := p.stripes.find? (fun (x : Stripe) => decide (x.still = k))

def Pass.modStripe (p : Pass) (k : Nat) (f : Stripe → Stripe) : Pass :=
  { p with stripes := p.stripes.map (fun (x : Stripe) => if x.still = k then f x else x) }

/-- A Still can work: its carrier is there, powered, and not taking over (R85, R86). -/
def State.stillReady (s : State) (k : Nat) : Bool :=
  let i := s.stills.map.getD k 0xF
  healthyStill s.cfg s.stills i && s.present (4 + i) && !s.stills.takeover.any (fun (x : Nat × Nat × Nat) => decide (x.1 = k))

/-! ### Prefetch (R108) -/

/-- The entry that a Still's next prefetch is for: that of its position, or the one after it while that is prefetched. -/
def State.prefetchTarget (s : State) (k : Nat) : Option ((Nat × Nat) × SlotEntry) :=
  let at' := fun (p : Nat × Nat) => match entryAt s.form k p with
    | some x =>
      let taken := match s.findPass x.shard x.phase p.2 with
        | some q => (q.stripe k).isSome
        | none => false
      some (p, x, taken)
    | none => none
  let p0 := s.stills.pos.getD k (0, 0)
  match at' p0 with
  | none => none
  | some (p, x, false) => some (p, x)
  | some (_, _, true) =>
    match at' (nextPos s.form k p0) with
    | some (p, x, false) => some (p, x)
    | _ => none

/-- R107: no earlier pass of the shard on this Still may still write: only a phase A writes nothing. -/
def State.readsCommitted (s : State) (k i : Nat) (p : Nat × Nat) : Bool :=
  let p0 := s.stills.pos.getD k (0, 0)
  decide (p0 = p) || (match entryAt s.form k p0 with
    | some x => decide (x.shard ≠ i) || decide (x.phase = 1)
    | none => true)

/-- Whether the slot table places the read now: after the entry's PREFETCH tick, or as soon as R107 allows. -/
def State.prefetchTick (s : State) (x : SlotEntry) (n : Nat) : Bool :=
  decide (x.prefetch = 0xFFFF) || (s.run.anchored && (decide (n < s.run.lastStep) ||
    (decide (n = s.run.lastStep) && decide (s.tickTime x.prefetch ≤ s.time))))

/-- The operand bytes of a stripe. -/
def State.operands (s : State) (e : ShardEntry) (p : PassProg) (k : Nat) : List (Nat × List Byte × List Byte) :=
  let t := stripeCount s.cfg e.n k
  (inputDescs s.form e p).map (fun d => (d.stream, s.stripeElems d 0 k t, s.stripeScales d 0 k t))

/-- Enter a stripe into its pass. -/
def State.enterStripe (s : State) (i phase n : Nat) (x : Stripe) : State :=
  match s.findPass i phase n with
  | some _ => s.modPass i phase n (fun p => { p with stripes := p.stripes ++ [x] })
  | none => s.modStills (fun t => { t with passes := t.passes ++ [{ shard := i, phase := phase, step := n, stripes := [x] }] })

/-- The programs that a pass at a place of L0's list in step n waits for: they clash with it and come before it (R212). The prefetch of a
step that is not anchored yet waits for its programs too. -/
def State.progsBefore (s : State) (e : ShardEntry) (g : PassProg) (idx n : Nat) : List (AtmProgram × Nat) :=
  let steps := s.anchoredSteps ++ (if s.anchoredSteps.contains n then [] else [n])
  (s.form.programs.filter (fun p => passClash s.cfg s.form e g p)).flatMap (fun p =>
    (steps.filter (fun m => decide (m < n) || (decide (m = n) && progFirst s.form p idx))).map (fun m => (p, m)))

/-- Whether every program that a pass waits for has completed (R212). -/
def State.progsClear (s : State) (e : ShardEntry) (g : PassProg) (idx n : Nat) : Bool :=
  (s.progsBefore e g idx n).all (fun w => s.progDone w.1 w.2)

/-- Whether no Atomizer segment runs on a channel of logical Still k's group (R17). -/
def State.groupFree (s : State) (k : Nat) : Bool := (List.range 4).all (fun i => (getV s.atm (4 * k + i) {}).seg.isNone)

/-- The place of a pass in L0's slot list, which names every owned shard's passes (R88, R172). -/
def listPlace (f : Formula) (i phase : Nat) : Nat :=
  ((f.slotLists.getD 0 []).findIdx? (fun (x : SlotEntry) => decide (x.shard = i) && decide (x.phase = phase))).getD 0

/-- PREFETCH: the Still begins the read, after every Atomizer program that comes before its pass and while no segment runs in its channels
(R17, R212). A stripe that does not fit reports at once that it streams (R108). -/
def execPrefetch (still : Fin 8) (shard : Word32) (s : State) : Res :=
  onLogical s still (fun s =>
    match s.prefetchTarget still, shardEntry s.form shard.toNat with
    | some (p, x), some e =>
      let g := passProg s.form e x.phase
      let fits := stripeFits s.form e g (stripeCount s.cfg e.n still)
      when (s.formula.isSome && decide (x.shard = shard.toNat) && s.stillReady still && s.prefetchTick x p.2 &&
          s.readsCommitted still x.shard p && s.evalIdle && !s.badAt x.shard p.2 &&
          s.progsClear e g (listPlace s.form x.shard x.phase) p.2 && s.groupFree still)
        (fun s => s.enterStripe x.shard x.phase p.2 { still := still, pre := if fits then .reading else .streams }) s
    | _, _ => s)

/-- The poison code of a DRAM word meets a read of a stripe's operands (R112, R222). -/
def State.operandPoison (s : State) (e : ShardEntry) (p : PassProg) (k first count : Nat) : Bool :=
  !s.poisonWords.isEmpty && (inputDescs s.form e p).any (fun d =>
    let w := elemBits d.fmt
    (List.range (ceilDiv (count * w) 8)).any (fun b => s.wordPoisoned k (ebase d 0 + first * w / 8 + b)) ||
    (match blockFmt d.fmt with
     | some bf => (List.range (ceilDiv count bf.b * bf.c)).any (fun b => s.wordPoisoned k (sbase d 0 + first / bf.b * bf.c + b))
     | none => false))

/-- What a core-side read of channel group k reports (DRAM_CE; Table 14-3). -/
def State.dramCorrected (s : State) (k a : Nat) : State :=
  (s.count 3 (chanOf k a) 5 1).error { code := 0x0202, cls := .c, unit := 0x0002, index := chanOf k a, arg0 := a }

/-- An uncorrectable or poisoned operand read: DRAM_UE of class S, and the shard is poisoned (R112). -/
def State.dramUncorrectable (s : State) (k a shard : Nat) : State :=
  let s := s.count 3 (chanOf k a) 6 1
  s.poisonShard shard { code := 0x0203, cls := .sh, unit := 0x0002, index := chanOf k a, shard := shard, arg0 := a }

/-- The pass of a shard in which a Still's prefetch is being read. -/
def State.readingPass (s : State) (k i : Nat) : Option Pass :=
  s.stills.passes.find? (fun (p : Pass) => decide (p.shard = i) && ((p.stripe k).map (fun (x : Stripe) => decide (x.pre = .reading))).getD false)

/-- PREFETCH_DONE: the operands are in the buffer, read while the channels were in PROC with their catch-up paid (R22); clean, or poisoned,
when the intake island withholds G (R112). -/
def execPrefetchDone (still : Fin 8) (shard : Word32) (sev : Sev) (s : State) : Res :=
  onLogical s still (fun s =>
    match s.readingPass still shard.toNat, shardEntry s.form shard.toNat with
    | some p, some e =>
      let g := passProg s.form e p.phase
      let set := fun (s : State) (b : Bool) => s.modPass p.shard p.phase p.step (fun q => q.modStripe still (fun x =>
        { x with pre := if b then .poisoned else .clean, bad := b, buffer := s.operands e g still }))
      let poisoned := s.operandPoison e g still 0 (stripeCount s.cfg e.n still)
      when ((inputDescs s.form e g).all (fun d => s.blockOpen d 0 still 0 (stripeCount s.cfg e.n still))) (fun s => match sev with
      | .uncorrectable a => (set s true).dramUncorrectable still a p.shard
      | .corrected a => if poisoned then (set s true).dramUncorrectable still a p.shard else (set s false).dramCorrected still a
      | .clean => if poisoned then (set s true).dramUncorrectable still (((inputDescs s.form e g).head?.map (fun d => ebase d 0)).getD 0) p.shard
                  else set s false) s
    | _, _ => s)

/-! ### The timing of a start (R189) -/

/-- Eighths of a nanosecond after which a shard's pass starts late: its last byte, or the scalar that it waits for, plus t_chk, t_fold,
the admitted wait and t_align (Table 6-16). A pass that a cut holds counts from the return of the round (R273). -/
def State.latestStart (s : State) (i phase n : Nat) (e : ShardEntry) : Nat :=
  let wait := ((s.waits.find? (fun (x : Nat × Nat) => decide (x.1 = 4 * i + phase))).map Prod.snd).getD 0
  let align := 160
  let held := if s.cutStep (n - 1) ∧ 1 < n then (s.stepSt (n - 1)).cutAt * 8 + wait + align else 0
  max held <| if phase = 2 then (s.shard i).entryAt * 8 + wait + align
  else if s.form.hdr.nfGuard then (s.stepSt n).decidedAt * 8 + wait + align
  else
    let k := s.contributors i
    let el := if hostRanks s.form i = 0 then 512 else e.n
    let fold := ceilDiv (if e.wx then el else k * el) (match s.cfg with | .izL => 4096 | .izS => 2048) + 64
    (s.shard i).lastByte * 8 + 320 + 5 * fold + wait + align

/-- Whether a program that the pass waited for completed after a time given in eighths of a nanosecond. -/
def State.heldByProgram (s : State) (e : ShardEntry) (g : PassProg) (idx n limit : Nat) : Bool :=
  (s.progsBefore e g idx n).any (fun w => match s.atmResult w.1.prog w.2 with
    | some r => decide (limit < 8 * r.doneAt)
    | none => false)

/-- Whether the phase-B entry of a shard, or the global count of the step, came after latest(p) of R182. -/
def State.scalarLate (s : State) (i phase n : Nat) : Bool :=
  let at' := if phase = 2 then (s.shard i).entryAt else if s.form.hdr.nfGuard then (s.stepSt n).decidedAt else 0
  match s.latest.find? (fun (x : Nat × Nat) => decide (x.1 = 4 * i + phase)) with
  | some x => decide (8 * (s.stepSt n).anchorAt + x.2 < 8 * at')
  | none => false

/-- The first reason of Table 6-18 that applies to a late pass; KNOCK_ON also when an Atomizer program held it (R212). The model has no
traffic on the spill path, so whether it delivered too little to a shard that uses it is a free value; where no reason applies the spec
states none, and it is free (log entry 111). -/
def State.lateReason (s : State) (i phase n : Nat) (e : ShardEntry) (remapped held : Bool) : Nat :=
  match if n = s.run.lastStep then s.envReason e.envGroup else (s.envs.getD e.envGroup {}).before with
  | some r => r
  | none =>
    if held || (stillsOf s.cfg e.n).any (fun k => s.stills.lateK.contains k) then 4
    else if remapped then 5
    else if e.spill && Config.freeBit s.free then 7
    else if s.scalarLate i phase n then 8
    else Config.freeNat (s.free + 1) % 2 ^ 32

/-! ### The end of a pass -/

/-- The highest VERSION that an image or a word gives a shard: the next publishing pass writes the one after it (R115, R285). -/
def Shard.lastVersion (h : Shard) : Nat := if h.ready.version = 0 then h.imageVersion else h.ready.version

/-- TSCALE of a shard's Decant (Table 4-11). -/
def State.tscale (s : State) (e : ShardEntry) : Nat :=
  match descOf s.form e 6 with
  | some d => if isTensorScaled d.fmt then (s.scaleK d.scaleGroup + 127).toNat else 0x7F
  | none => 0x7F

/-- Flip the readiness word of a shard (R115); VERSION 0xFFFF_FFFF raises VERSION_LIMIT and no further anchor is taken (R394). -/
def State.flip (s : State) (i n : Nat) (e : ShardEntry) : State :=
  let v := (s.shard i).lastVersion + 1
  let s := s.modShard i (fun h => { h with ready := { h.ready with
    version := v % 2 ^ 32, stepLo := n % 2 ^ 16, skipped := false, tscale := s.tscale e } })
  let s := s.mark n (fun t => { t with p3 := s.time })
  if v = 2 ^ 32 - 1 then
    { (s.error { code := 0x0603, cls := .j, unit := 0x000A, shard := i, arg0 := v }) with anchorBlocked := true }
  else s

/-- Whether every pass and every program of a step has completed. -/
def State.stepDone (s : State) (n : Nat) : Bool := s.passesDone n && s.programsDone n

/-- Form the scale exponents of the next step when the last pass or program of a step has ended (R76). -/
def State.scalesEnd (s : State) : State :=
  { s with scales := s.scales.zipIdx.map (fun (p : ScaleGroup × Nat) => match s.form.scaleGroups[p.2]? with
      | some e => p.1.advance e
      | none => p.1) }

/-- Move the Stills of a pass to the next position, past steps that are skipped. -/
def State.advanceStills (s : State) (ks : List Nat) : State :=
  s.modStills (fun t => { t with pos := t.pos.zipIdx.map (fun (p : (Nat × Nat) × Nat) =>
    if ks.contains p.2 then
      let q := nextPos s.form p.2 p.1
      if q.1 = 0 ∧ (s.stepSt q.2).skipped then (0, q.2 + 1) else q
    else p.1) })

/-- What follows the end of a pass: positions, the step's scales, digests, the norm and cut rounds. -/
def State.passEnd (s : State) (i phase n : Nat) (e : ShardEntry) : State :=
  let ks := stillsOf s.cfg e.n
  let last := ((s.passesOf i).getLast?.map (fun (x : SlotEntry) => decide (x.phase = phase))).getD true
  let lastIdx := ks.all (fun k => match entryAt s.form k (s.stills.pos.getD k (0, 0)) with
    | some _ => !((slotList s.form k).drop ((s.stills.pos.getD k (0, 0)).1 + 1)).any (fun (x : SlotEntry) => decide (x.shard = i))
    | none => true)
  let before := s.stepDone n
  let s := s.modStills (fun t => { t with passes := t.passes.filter (fun (p : Pass) => !samePass i phase n p) })
  let s := s.advanceStills ks
  let s := if last && lastIdx then
      eachIn (s.skippedAfter s.run.steps.length n) (fun s m => s.digests i m e true) (s.digests i n e false) else s
  let s := if !before && s.stepDone n then s.scalesEnd else s
  let s := s.normTry n e.normGroup
  s.cutTry n

/-- A pass that does not run: the shard is poisoned, or the key island is unavailable (R102, R112). It commits no block, and the manual
gives COMMIT_TIME of such a record no value: the model writes the present time (log entry 120). -/
def State.passNothing (s : State) (i phase n : Nat) (e : ShardEntry) (refused : Bool) : State :=
  let r := stillRecord n e.accord (if phase = 2 then 1 else 0) false true false (anyDoubled s.cfg s.stills) refused i
    (s.shard i).ready.version {} s.time
  (s.blotCompletion 0 n r).passEnd i phase n e

/-! ### PASS_START (R109) -/

/-- The entry at which every participating Still of a shard stands: phase and step, and whether it publishes; none when they differ. -/
def State.passAt (s : State) (i : Nat) (e : ShardEntry) : Option (SlotEntry × Nat) :=
  match stillsOf s.cfg e.n with
  | [] => none
  | k :: ks =>
    let p := s.stills.pos.getD k (0, 0)
    match entryAt s.form k p with
    | none => none
    | some x =>
      if x.shard = i && ks.all (fun k' =>
        let q := s.stills.pos.getD k' (0, 0)
        decide (q.2 = p.2) && (match entryAt s.form k' q with
          | some y => decide (y.shard = i) && decide (y.phase = x.phase)
          | none => false)) then some (x, p.2) else none

/-- Whether a later pass of the shard in the step is still to come: its slot keeps G until the last one starts (R109, R138). -/
def State.laterPass (s : State) (i : Nat) (e : ShardEntry) : Bool :=
  match (stillsOf s.cfg e.n).head? with
  | some k => ((slotList s.form k).drop ((s.stills.pos.getD k (0, 0)).1 + 1)).any (fun (x : SlotEntry) => decide (x.shard = i))
  | none => false

/-- Whether a pass decodes or encodes with a tensor scale (R36, R93). -/
def usesScale (f : Formula) (e : ShardEntry) (p : PassProg) : Bool :=
  (inputDescs f e p ++ outputDescs f e p).any (fun d => isTensorScaled d.fmt) ||
    p.ops.any (fun o => decide (o.opc = 0x12))

/-- The conditions on the step: admitted, anchored, no hold, decided under the guard, the record present, no pass of an earlier step
that could still move a scale (R76, R103, R152, R273). -/
def State.stepAllows (s : State) (n : Nat) (e : ShardEntry) (p : PassProg) : Bool :=
  s.formula.isSome && s.run.anchored && decide (n ≤ s.run.lastStep) && !s.cutHeld n && s.evalIdle &&
    !s.stills.noCarrier && (!s.form.hdr.nfGuard || (s.stepSt n).decided) && (s.recordFor n).isSome &&
    (!usesScale s.form e p || (s.stills.pos.zipIdx.all (fun (q : (Nat × Nat) × Nat) =>
      (slotList s.form q.2).isEmpty || decide (n ≤ q.1.2)) &&
      s.run.steps.all (fun (t : StepSt) => decide (n ≤ t.step) || t.skipped || s.programsDone t.step)))

/-- Whether G, the prefetches and the phase-B entry are there (R109). -/
def State.operandsReady (s : State) (i phase n : Nat) (e : ShardEntry) : Bool :=
  (match (s.shard i).slot with
    | some t => decide (t.step = n) && t.result.isSome
    | none => false) &&
  (decide (phase ≠ 2) || (s.shard i).entry.isSome) &&
  (stillsOf s.cfg e.n).all (fun k => s.stillReady k && (match (s.findPass i phase n).bind (fun q => q.stripe k) with
    | some x => decide (x.pre = .clean) || decide (x.pre = .streams)
    | none => false))

/-- Capture the stored streams that a pass reads or writes, for a live emission (R276). -/
def State.capturePass (s : State) (i : Nat) (e : ShardEntry) (p : PassProg) : State :=
  eachIn (stillsOf s.cfg e.n) (fun s k =>
    eachIn ((inputDescs s.form e p ++ outputDescs s.form e p).filter (fun (d : Desc) => decide (d.stream ≠ 6)))
      (fun s d => s.capture false i d.stream k) s) s

/-- The stored streams that a pass writes without reading them. -/
def overwritten (f : Formula) (e : ShardEntry) (p : PassProg) : List Desc :=
  (outputDescs f e p).filter (fun (d : Desc) => decide (d.stream ≠ 6) && !bit p.inMask d.stream)

/-- Whether a FLACON reservation of the step is in force on every channel of logical Still k's group (R167). -/
def State.flaconOpen (s : State) (k : Nat) : Bool :=
  (List.range 4).all (fun i => s.reserved 2 (4 * k + i))

/-- A stream that a pass overwrites unread, and that a cut still wants, is first read within FLACON reservations: the pass waits for them
(R276). -/
def State.overwriteRead (s : State) (i : Nat) (e : ShardEntry) (p : PassProg) : Bool :=
  match s.emission with
  | none => true
  | some em => (stillsOf s.cfg e.n).all (fun k => s.flaconOpen k ||
      (overwritten s.form e p).all (fun d => !em.toCapture.contains (i, d.stream, k)))

/-- Start a pass: captures, LATE and ENVELOPE, the slot's close; group values of a pass that wrote its own norms are forgotten (R59). -/
def State.beginPass (s : State) (i phase n : Nat) (e : ShardEntry) (p : PassProg) : State :=
  let s := s.capturePass i e p
  let ks := stillsOf s.cfg e.n
  let late := decide (s.latestStart i phase n e < 8 * s.time)
  let doubled := anyDoubled s.cfg s.stills
  let remapped := doubled || ((s.findPass i phase n).map Pass.remapped).getD false
  let g := ((s.shard i).slot.bind Slot.result).getD []
  let s := s.modPass i phase n (fun q => { q with started := true, late := late, remapped := remapped, g := g })
  let s := s.modShard i (fun h => { h with groups := [] })
  let held := s.heldByProgram e p (s.stills.pos.getD 0 (0, 0)).1 n (s.latestStart i phase n e)
  let s := if late then { s.envelope i n (s.lateReason i phase n e remapped held) with free := s.free + 2 }
    else if doubled then s.envelope i n envRemap else s
  let behind := late || (s.shard i).envReported
  let s := s.modStills (fun t => { t with
    lateK := if behind then ks ++ t.lateK.filter (fun k => !ks.contains k) else t.lateK.filter (fun k => !ks.contains k) })
  if !s.laterPass i e then s.closeSlot i false else s

/-- After the next anchor, the Still Dispatchers of the carriers of a shard switch microcode banks before the pass that they start (R369). -/
def State.switchDispatchers (s : State) (e : ShardEntry) : State :=
  if s.fw.bankArmed then
    let is := (stillsOf s.cfg e.n).map (fun k => s.stills.map.getD k 0xF)
    let hit := s.fw.stillBankPending.filter is.contains
    s.modFw (fun w => { w with
      stillBankPending := w.stillBankPending.filter (fun i => !is.contains i)
      stillBank1 := w.stillBank1.filter (fun i => !hit.contains i) ++ hit.filter (fun i => !w.stillBank1.contains i) })
  else s

/-- PASS_START. -/
def execPassStart (shard : Word32) (s : State) : Res :=
  act s (fun s =>
    let i := shard.toNat
    match shardEntry s.form i with
    | none => s
    | some e =>
      match s.passAt i e with
      | none => s
      | some (x, n) =>
        let p := passProg s.form e x.phase
        when (s.owns e && s.stepAllows n e p && s.progsClear e p (s.stills.pos.getD 0 (0, 0)).1 n &&
            s.overwriteRead i e p && !((s.findPass i x.phase n).map Pass.started).getD false) (fun s =>
          if s.badAt i n then (s.passNothing i x.phase n e false)
          else if p.draws && !s.keyOk then
            let s := s.poisonShard i { code := 0x0303, cls := .sh, unit := 0x000A, shard := i, arg0 := e.accord }
            s.passNothing i x.phase n e true
          else when (s.operandsReady i x.phase n e) (fun s => (s.switchDispatchers e).beginPass i x.phase n e p) s) s)

/-! ### Blocks (R110) -/

/-- The scalar registers of a pass (R104). -/
def State.passScalars (s : State) (i phase n : Nat) : List Nat :=
  let regs := ((s.recordFor n).map StepRecord.regs).getD []
  if phase = 2 then regs.take 24 ++ ((s.shard i).entry.getD []) else regs

/-- The operands of stripe-relative element j: the buffered planes of a fitting stripe, or the planes themselves, and G in binary32
(R92; each input decoder gives the category that R78 counts). -/
def State.elemIn (s : State) (e : ShardEntry) (p : PassProg) (x : Stripe) (g : List Nat) (scal : List Nat) (j : Nat) :
    Accord.ElemIn × List Cat :=
  let ds := (inputDescs s.form e p).map (fun d =>
    match x.buffer.find? (fun (b : Nat × List Byte × List Byte) => decide (b.1 = d.stream)) with
    | some b => (d.stream, decodeStream d.fmt (s.descK d) (byteAt b.2.1) (byteAt b.2.2) j)
    | none => (d.stream, decodeStream d.fmt (s.descK d) (fun a => s.dramByte (stackAddr s.cfg x.still (ebase d 0 + a)))
        (fun a => s.dramByte (stackAddr s.cfg x.still (sbase d 0 + a))) j))
  let gs := if p.readsG then [(3, decodeScalar 0x02 0 (g.getD (x.still * stripeLen s.cfg e.n + j) 0))] else []
  let ds := ds ++ gs
  ({ streams := ds.map (fun d => (d.1, d.2.1)), scalars := scal }, ds.map (fun d => d.2.2))

/-- The rounding of an output value: to nearest, or stochastic with the element's word (R65). -/
def outRounding : Option Nat → Rounding
  | none => .nearest
  | some w => .stochastic 24 32 w

/-- The value and rounding that each element writes to a stream. -/
def outputOf (stream : Nat) (o : Accord.ElemOut) : Lane × Rounding :=
  match o.outs.find? (fun (x : Nat × Lane × Option Nat) => decide (x.1 = stream)) with
  | some x => (x.2.1, outRounding x.2.2)
  | none => (lane32 0, .nearest)

/-- Write the block of one output stream: its planes, its counts, and the running maximum of its scale group (R93). -/
def State.writeBlock (s : State) (d : Desc) (parity k j0 : Nat) (os : List Accord.ElemOut) : State × Counts :=
  let vs := os.map (outputOf d.stream)
  let enc := encodeRun d.fmt d.sat (s.descK d) (vs.map Prod.snd) (vs.map Prod.fst)
  let base := ebase d parity
  let ep := Convert.planeBytes d.fmt (fun a => s.dramByte (stackAddr s.cfg k (base + a))) j0 enc.codes
  let s := s.writePlane k (base + ep.1) ep.2
  let s := match blockFmt d.fmt with
    | some bf => s.writePlane k (sbase d parity + j0 / bf.b * bf.c) (enc.scales.flatMap (leBytes bf.c))
    | none => s
  let s := if isTensorScaled d.fmt then
      let m := (vs.filterMap (fun v => Accord.finiteMag v.1)).foldl max 0
      { s with scales := modAt s.scales d.scaleGroup (fun g => { g with cur := max g.cur m }) }
    else s
  let c := Accord.countCats enc.cats
  (s, { c with zeroBlock := enc.zeroBlocks })

/-- Present AMAX operands to their scale groups (R60). -/
def State.takeAmax (s : State) (os : List Accord.ElemOut) : State :=
  eachIn (os.flatMap (fun o => o.amax)) (fun s (m : Nat × Lane) => match Accord.finiteMag m.2 with
    | some v => { s with scales := modAt s.scales m.1 (fun g => { g with cur := max g.cur v }) }
    | none => s) s

/-- Whether the channels that the next block of a stripe reads and writes may be accessed. -/
def State.commitOpen (s : State) (q : Pass) (x : Stripe) (e : ShardEntry) (p : PassProg) : Bool :=
  let j0 := 256 * x.blocks
  let cnt := min 256 (stripeCount s.cfg e.n x.still - j0)
  (outputDescs s.form e p).all (fun d => s.blockOpen d (if d.stream = 6 then (s.shard q.shard).lastVersion + 1 else 0) x.still j0 cnt) &&
    (decide (x.pre ≠ .streams) || (inputDescs s.form e p).all (fun d => s.blockOpen d 0 x.still j0 cnt))

/-- Commit the next block of a stripe: compute its elements, write its outputs, deposit its SQACC groups in phase A (R110, R120). The
manual does not say what becomes of a running pass that draws Sillage words when the key island is fenced or loses power: in the model it
goes on with the key's words (log entry 119). -/
def State.commitBlock (s : State) (q : Pass) (x : Stripe) (e : ShardEntry) : State :=
  let p := passProg s.form e q.phase
  let t := stripeCount s.cfg e.n x.still
  let j0 := 256 * x.blocks
  let cnt := min 256 (t - j0)
  let scal := s.passScalars q.shard q.phase q.step
  let gei := e.gei + x.still * stripeLen s.cfg e.n
  let ins := (List.range cnt).map (fun j => s.elemIn e p x q.g scal (j0 + j))
  let os := ins.zipIdx.map (fun (a : (Accord.ElemIn × List Cat) × Nat) =>
    Accord.runElem (fun d => Sillage.word s.run.key q.step d (gei + j0 + a.2)) p.ops a.1.1)
  let parity := (s.shard q.shard).lastVersion + 1
  let r := (outputDescs s.form e p).foldl (fun (a : State × Counts) d =>
    let b := a.1.writeBlock d (if d.stream = 6 then parity else 0) x.still j0 os
    (b.1, a.2.add b.2)) (s, {})
  let s := r.1.takeAmax os
  let counts := (r.2.add (decodeCounts (ins.flatMap Prod.snd))).add (Accord.countExc os)
  let grp := x.still * stripeLen s.cfg e.n / 256 + x.blocks
  let s := if q.phase = 1 ∧ p.ops.any (fun o => decide (o.opc = 0x11)) then
      s.modShard q.shard (fun h => { h with groups := h.groups ++ [(grp, Accord.groupValue 0 os, Accord.groupValue 1 os)] })
    else s
  let s := s.modPass q.shard q.phase q.step (fun y => { y.modStripe x.still (fun z => { z with blocks := z.blocks + 1 }) with
    commitAt := some s.time, counts := y.counts.add counts })
  s.mark q.step (fun t => { t with p2 := s.time })

/-- The shard's norms from its group values, in index order (R59, R110). -/
def State.depositNorm (s : State) (i m : Nat) : State :=
  s.modShard i (fun h =>
    let at' := fun (f : Nat × Nat → Nat) => (List.range m).map (fun g =>
      ((h.groups.find? (fun (x : Nat × Nat × Nat) => decide (x.1 = g))).map (fun x => f x.2)).getD 0)
    { h with norm := some (Accord.shardNorm (at' Prod.fst), Accord.shardNorm (at' Prod.snd)), groups := [] })

/-- Whether every stripe of a pass has committed every block. -/
def State.passComplete (s : State) (q : Pass) (e : ShardEntry) : Bool :=
  q.stripes.all (fun (x : Stripe) => decide (stripeBlocks s.cfg e.n x.still ≤ x.blocks))

/-- A pass whose shard is poisoned while it runs, by its window, a channel or a cancelled RESTORE, goes on and commits: R112 stops passes only
for a poison found in their own reads (log entry 137). It flips nothing, and its record carries POISON. The pass has ended: norms of phase A, the flip of the publishing pass, the completion record, NUMERIC counters (R79, R115, R118). -/
def State.completePass (s : State) (q : Pass) (x : SlotEntry) (e : ShardEntry) : State :=
  let s := if q.phase = 1 then s.depositNorm q.shard (ceilDiv e.n 256) else s
  let s := if q.phase = 2 then s.modShard q.shard (fun h => { h with entry := none, norm := none }) else s
  let s := s.countAll q.counts
  let s := if x.publish && !(s.shard q.shard).ready.poison then s.flip q.shard q.step e else s
  let r := stillRecord q.step e.accord (if q.phase = 2 then 1 else 0) q.late (q.poisoned || (s.shard q.shard).ready.poison) false
    (q.remapped || anyDoubled s.cfg s.stills) false q.shard (s.shard q.shard).ready.version q.counts s.time
  let s := s.blotCompletion 0 q.step r
  s.passEnd q.shard q.phase q.step e

/-- The running pass of a shard. -/
def State.runningPass (s : State) (i : Nat) : Option Pass :=
  s.stills.passes.find? (fun (p : Pass) => decide (p.shard = i) && p.started)

/-- A poisoned streamed read ends the pass at its block boundaries (R112). The record of a pass that has committed no block carries the
present time (log entry 120). -/
def State.abortPass (s : State) (q : Pass) (e : ShardEntry) : State :=
  let s := s.countAll q.counts
  let r := stillRecord q.step e.accord (if q.phase = 2 then 1 else 0) q.late true false (q.remapped || anyDoubled s.cfg s.stills) false
    q.shard (s.shard q.shard).ready.version q.counts (q.commitAt.getD s.time)
  (s.blotCompletion 0 q.step r).passEnd q.shard q.phase q.step e

/-- BLOCK_COMMIT. -/
def execBlockCommit (still : Fin 8) (shard : Word32) (sev : Sev) (s : State) : Res :=
  onLogical s still (fun s =>
    let i := shard.toNat
    match s.runningPass i, shardEntry s.form i with
    | some q, some e =>
      match q.stripe still, s.passAt i e with
      | some x, some (y, _) =>
        let p := passProg s.form e q.phase
        let t := stripeCount s.cfg e.n still
        when (s.stillReady still && !s.stills.noCarrier && decide (x.blocks < stripeBlocks s.cfg e.n still) &&
            s.commitOpen q x e p) (fun s =>
          let streams := decide (x.pre = .streams)
          let cnt := min 256 (t - 256 * x.blocks)
          let bad := match sev with
            | .uncorrectable a => streams.toNat * (a + 1)
            | _ => if streams && s.operandPoison e p still (256 * x.blocks) cnt then 1 else 0
          if bad ≠ 0 then
            let s := s.dramUncorrectable still (bad - 1) i
            s.abortPass { q with poisoned := true } e
          else
            let s := match sev with
              | .corrected a => if streams then s.dramCorrected still a else s
              | _ => s
            let s := s.commitBlock q x e
            match s.runningPass i with
            | some q' =>
              if s.passComplete q' e then s.completePass q' y e else s
            | none => s) s
      | _, _ => s
    | _, _ => s)

/-! ### Faults of a Still -/

/-- LANE_ERROR: the block is never committed, and the physical Still is fenced (R110, R85). -/
def execLaneError (still : Fin 9) (s : State) : Res := onPhysical s still (fun s => s.fenceStill still)

/-- STILL_TAKEOVER: the new carrier, once powered, resumes at the first uncommitted block (R111). -/
def execStillTakeover (still : Fin 8) (s : State) : Res :=
  onLogical s still (fun s =>
    match s.stills.takeover.find? (fun (x : Nat × Nat × Nat) => decide (x.1 = still.toNat)) with
    | some x => when (s.present (4 + x.2.1)) (fun s => s.modStills (fun t => { t with
        takeover := t.takeover.filter (fun (y : Nat × Nat × Nat) => decide (y.1 ≠ still.toNat)) })) s
    | none => s)

end Sys2Proof.Machine
end

