-- ==== Sys2Proof/Machine/Receive.lean ====
section
/-! DEFINITION. The fabric's receiving side (09_engine_fabric.md): losing a partner (R262 to R265), receive handling (R251, Table 9-5),
epochs (R252), CONTRIB, scalars, Flacon data and acknowledgements, fence notices; batches (R245 to R247). -/

namespace Sys2Proof.Machine

open Sys2Proof.Bits
open Sys2Proof.Hash

/-! ### Losing a partner (R263 to R265) -/

/-- Effects of the fence of an EA on the steps in progress (R265). -/
def State.fenceEffects (s : State) : State :=
  let s := eachIn (List.range s.shards.length) (fun s i => (s.fencedChunks i).slotCheck i) s
  eachIn s.fabric.rounds (fun s (r : Round) => s.roundTry (useRound r.kind) r.kind r.step r.group) s

/-- FENCE_NOTICE payload (R264). -/
def noticePayload (ea reason : Nat) : List Byte := leBytes 32 (ea % 2 ^ 20 + reason % 16 * 2 ^ 20)

/-- Send a notice to the parent and the children in the scalar tree, except one EA and the lost one. -/
def State.sendNotices (s : State) (ea reason except : Nat) : State :=
  let to' := (s.scalarParent.toList ++ s.scalarChildren).filter (fun x => decide (x ≠ except) && decide (x ≠ ea))
  eachIn to' (fun s x => s.send 0x0B x false (noticePayload ea reason)) s

/-- Fence a partner's EA (R263). -/
def State.fenceEa (s : State) (ea : Nat) : State :=
  if s.fabric.fences.contains ea then s
  else (s.modFabric (fun f => { f with fences := f.fences ++ [ea] })).fenceEffects

/-- A loss that this engine detects itself: PARTNER_LOST, and notices once for each lost EA and epoch (R263, R264). -/
def State.partnerLost (s : State) (ea reason : Nat) : State :=
  let s := s.error { code := 0x050A, cls := .j, unit := 0x000D, arg0 := ea, arg1 := reason }
  let s := s.post 0x0201 1 3 ea s.fabric.epoch reason
  let s := s.fenceEa ea
  if s.fabric.notices.contains (ea, s.fabric.epoch) then s
  else
    let s := s.modFabric (fun f => { f with notices := f.notices ++ [(ea, f.epoch)] })
    s.sendNotices ea reason ea

/-- The books of a link at its start (R260). -/
def Link.clear (l : Link) (st : LinkSt) : Link := { st := st, pinUp := l.pinUp, peer := l.peer, topo := l.topo, topoAt := l.topoAt, retrain := l.retrain }

/-- The books of a link start again (R260): a packet that still waits in its receive buffers holds no credit of it any more, so that the
identity of R253 holds from the next bring-up on. -/
def State.detach (s : State) (p : Nat) : State :=
  s.modFabric (fun f => { f with
    held := f.held.map (fun (h : HeldPkt) => if h.via = .link p then { h with via := .link 2 } else h)
    egrHeld := f.egrHeld.filter (fun (h : HeldPkt) => decide (h.via ≠ .link p)) })

/-- A link goes DOWN and its peer is lost (R262). A fenced link stays fenced. -/
def State.linkLost (s : State) (p reason : Nat) (st : LinkSt) : State :=
  let l := s.link p
  let s := (s.detach p).modLink p (fun l => l.clear st)
  let s := match l.st, l.peer with
    | .up, some ea => s.partnerLost ea reason
    | _, _ => s
  s.topoIfChanged

/-- Fence a link as a class F error (R253, R256). -/
def State.fenceLink (s : State) (p code lane : Nat) : State :=
  if (s.link p).st = .fenced then s.error { code := code, cls := .f, unit := 0x0004, index := p, arg0 := lane }
  else
    let s := s.error { code := code, cls := .f, unit := 0x0004, index := p, arg0 := lane }
    ((s.detach p).modLink p (fun l => { l.clear .fenced with pinUp := l.pinUp })).topoIfChanged

/-! ### Fields of a packet (row 2 of Table 9-5) -/

/-- Whether a header sets a reserved bit or value, or a nonzero PLANE (R243, R248). -/
def badHead (k : Packet) : Bool :=
  decide (k.fld 0 8 ≠ 0x03) || decide (k.type = 0) || decide (0x0B < k.type) || decide (k.fld 36 2 ≠ laneOf k.type) ||
    decide (k.fld 38 2 ≠ 0) || decide (k.fld 61 3 ≠ 0) || decide (k.fld 125 3 ≠ 0) || decide (k.fld 152 72 ≠ 0) ||
    decide (k.fld 34 2 ≠ 0) || (!linkLocal k.type && decide (k.fld 58 2 ≠ 0)) || decide (k.len ≠ k.payload.length)

/-- Elements' bytes of a partial format. -/
def partialBytes (fmt : Nat) : Nat := if fmt = 0x38 then 2 else 4

/-- Whether an EA that a payload carries has a nonzero PLANE; 0xFFFFF stands for an unknown peer (Table 9-8). -/
def badPlane (ea : Nat) : Bool := decide (ea ≠ 0xFFFFF) && decide (field ea 18 2 ≠ 0)

/-- Whether a payload has the wrong length for its type, or sets a reserved bit or value, or names an EA with a nonzero PLANE. -/
def badPayload (k : Packet) : Bool :=
  let v := leVal k.payload
  let n := k.payload.length
  match k.type with
  | 0x01 => decide (n ≠ 32) || decide (2 < field v 0 8) || decide (field v 11 5 ≠ 0) || decide (field v 17 15 ≠ 0) ||
      decide (field v 56 8 ≠ 0) || decide (field v 144 112 ≠ 0)
  | 0x02 => decide (n ≠ 32) || decide (field v 0 8 ≠ 0) || decide (field v 11 5 ≠ 0) || decide (field v 17 15 ≠ 0) ||
      decide (field v 56 8 ≠ 0) || decide (field v 144 112 ≠ 0)
  | 0x03 => decide (n ≠ 32) || decide (field v 21 3 ≠ 0) || decide (field v 26 6 ≠ 0) || decide (field v 68 28 ≠ 0) ||
      decide (field v 116 12 ≠ 0) || decide (field v 148 44 ≠ 0) || decide (field v 18 2 ≠ 0) || badPlane (field v 96 20) ||
      badPlane (field v 128 20)
  | 0x04 => decide (n ≠ 32) || decide (2 < field v 192 4) || decide (field v 196 60 ≠ 0)
  | 0x05 => decide (n ≠ 32) || decide (2 < field v 192 4) || decide (field v 196 60 ≠ 0)
  | 0x06 =>
    let empty := bit v 92
    let fmt := field v 96 8
    let cnt := field v 112 10
    decide (n < 16) || decide (field v 93 3 ≠ 0) || decide (field v 122 6 ≠ 0) || (decide (fmt ≠ 0x02) && decide (fmt ≠ 0x38)) ||
      (empty && k.poison) ||
      (if empty then decide (n ≠ 16) || decide (cnt ≠ 0) || decide (field v 80 12 ≠ 0)
       else decide (cnt = 0) || decide (512 < cnt) || decide (n ≠ if k.poison then 16 else 16 + cnt * partialBytes fmt))
  | 0x07 => decide (n < 32) || decide (4096 < n) || decide (1 < field v 32 2) || decide (field v 38 26 ≠ 0) ||
      decide (field v 104 24 ≠ 0) || decide (field v 192 64 ≠ 0)
  | 0x08 => decide (n ≠ 32) || decide (4 < field v 32 4) || decide (field v 36 28 ≠ 0) || decide (field v 128 128 ≠ 0)
  | 0x09 => decide (n < 32) || decide (4096 < n) || decide (1 < field v 32 2) || decide (field v 38 26 ≠ 0) ||
      decide (field v 104 24 ≠ 0) || decide (field v 192 64 ≠ 0)
  | 0x0A => decide (n ≠ 80) || decide (field v 18 2 ≠ 0) || decide (field v 37 91 ≠ 0)
  | 0x0B => decide (n ≠ 32) || decide (field v 18 2 ≠ 0) || decide (2 < field v 20 4) || decide (field v 24 232 ≠ 0)
  | _ => true

/-! ### Drops (R251) -/

/-- The FABRIC counter index of a path. -/
def Via.index : Via → Nat
  | .link p => p
  | .carried _ _ => 2

/-- Count a drop, and log it where Table 9-5 gives a class. -/
def State.dropPacket (s : State) (v : Via) (num code : Nat) (k : Packet) : State :=
  let s := s.count 4 v.index num 1
  if code = 0 then s
  else s.error { code := code, cls := .c, unit := if v.index = 2 then 0x000F else 0x0004, index := if v.index = 2 then 0 else v.index,
                 arg0 := k.type }

/-! ### CONTRIB (R146, R269) -/

/-- Deliver a partial chunk; `held` is when it came if it has waited in its buffer. A chunk that was accepted in a slot since closed is a
duplicate as well (R146). -/
def State.takeContrib (s : State) (v : Via) (k : Packet) (held : Option Nat) : State :=
  let d := leVal (k.payload.take 16)
  let i := field d 0 32
  let step := field d 32 48
  let j := field d 80 12
  let empty := bit d 92
  let fmt := field d 96 8
  let cnt := field d 112 10
  match shardEntry s.form i with
  | none => s.count 4 v.index 7 1
  | some e =>
    match (s.childrenOf i).findIdx? (fun c => decide (c = k.src)) with
    | none => s.count 4 v.index 7 1
    | some c =>
      let s := if empty || held.isSome then s else s.bookArrival i step (32 + k.payload.length)
      let h := s.shard i
      if h.rcvdPast.contains (step, hostRanks s.form i + c, j) then s.count 4 v.index 12 1 else
      match h.slot with
      | none => s
      | some t =>
        let r := t.h + c
        if t.step ≠ step ∨ fmt ≠ partialFmt e then s
        else if t.empties.contains r || t.rcvd.contains (r, j) then s.count 4 v.index 12 1
        else if !empty && (decide (chunkCount e.n ≤ j) || decide (cnt ≠ chunkLen e.n j)) then s
        else
          let s := s.modRun (fun x => { x with
            arrived := x.arrived || decide (step = x.nextStep),
            times := if step = x.lastStep then { x.times with p1 := s.time } else x.times })
          let at' := held.getD s.time
          let s := s.noteByte i step at'
          let s := if empty then s else s.lateArrival i step at'
          let s := if empty then
              s.modSlot i (fun t =>
                let em := t.empties ++ [r]
                { t with empties := em, next := t.next.map (fun n => skipEmpties em t.k n) })
            else
              let body := k.payload.drop 16
              let codes := if fmt = 0x38 then codes16 body else (chunks 4 (cnt + 1) body).map leVal
              let hd : Held := { rank := r, chunk := j, fmt := if k.poison then fmtPoison else fmt, scale := field d 104 8, codes := codes }
              s.modSlot i (fun t => ({ t with rcvd := t.rcvd ++ [(r, j)] } : Slot).give e.wx hd)
          (s.slotCheck i).countTry step

/-- Whether a chunk must wait in its buffer: its slot is not open yet (R136, R138). -/
def State.contribEarly (s : State) (k : Packet) : Bool :=
  let d := leVal (k.payload.take 16)
  let i := field d 0 32
  let step := field d 32 48
  decide (k.type = 0x06) && (shardEntry s.form i).isSome && (s.childrenOf i).contains k.src &&
    !(s.shardBad i && decide (step ≤ (s.shard i).intakeStep)) &&
    (decide ((s.shard i).intakeStep < step) || (decide ((s.shard i).intakeStep = step) && (s.shard i).slot.isNone))

/-! ### Flacon data (R278, R279, R281) -/

/-- FLACON_ACK payload (Table 10-2). -/
def flaconAck (gen status bytes : Nat) : List Byte := leBytes 32 (gen % 2 ^ 32 + status % 16 * 2 ^ 32 + bytes % 2 ^ 64 * 2 ^ 64)

/-- The near region in bytes. -/
def nearBytes (f : Formula) : Nat := f.hdr.nearMib * 2 ^ 20

/-- The metadata length that a ward's header in the near region gives: DATA_OFF. -/
def State.nearDataOff (s : State) : Nat := leVal (s.dramBytes (s.near.base + 184) 8)

/-- Book n bytes written to the near region out of a packet's m: the others lay beyond NEAR_MIB and are dropped (Table 10-2). -/
def State.nearBook (s : State) (n m : Nat) : State :=
  { s with near := { s.near with bytes := s.near.bytes + n, dropped := s.near.dropped || decide (n < m) } }

/-- Write data-map bytes of the near region, as far as it reaches. -/
def State.nearWrite (s : State) (group noff : Nat) (bs : List Byte) : State :=
  let c0 := nearC0 s.cfg s.near.base s.nearDataOff
  let limit := (s.near.base + nearBytes s.form) / 2 ^ gBits s.cfg
  let n := if group < 2 ^ gBits s.cfg then min bs.length (limit - c0 - noff) else 0
  (s.writePlane group (c0 + noff) (bs.take n)).nearBook n bs.length

/-- Write metadata bytes of the near region, as far as it reaches. -/
def State.nearMetaWrite (s : State) (noff : Nat) (bs : List Byte) : State :=
  let n := min bs.length (nearBytes s.form - noff)
  let s := (s.writeDram (s.near.base + noff) (bs.take n)).nearBook n bs.length
  if noff = 0 ∧ 192 ≤ n then
    let w := s.near.wait
    let s := { s with near := { s.near with header := true, wait := [] } }
    eachIn w (fun s (x : Nat × Nat × List Byte) => s.nearWrite x.1 x.2.1 x.2.2) s
  else s

/-- Answer the ward about a generation: BYTES counts that generation's data bytes, none of one that the keeper does not hold. -/
def State.nearAck (s : State) (dst gen status : Nat) : State :=
  s.send 0x08 dst false (flaconAck gen status (if s.near.ward = dst ∧ s.near.gen = gen then s.near.bytes else 0))

/-- The bytes of a FLACON_DATA packet go to the near region, or wait for the ward's header. -/
def State.nearTake (s : State) (v : Nat) (bs : List Byte) : State :=
  if field v 32 2 = 1 then s.nearMetaWrite (field v 64 40) bs
  else if s.near.header then s.nearWrite (field v 34 3) (field v 64 40) bs
  else { s with near := { s.near with wait := s.near.wait ++ [(field v 34 3, field v 64 40, bs)] } }

/-- The acknowledgement of LAST (Table 10-2). -/
def State.nearLast (s : State) (dst gen total : Nat) : State :=
  if s.near.dropped then s.nearAck dst gen 2
  else if s.near.bytes = total then
    let s := { s with near := { s.near with done := true } }
    s.nearAck dst gen 1
  else s.nearAck dst gen 0

/-- A higher generation takes the near region over: the old one is no longer held (R278). -/
def State.nearBegin (s : State) (ward gen : Nat) : State :=
  if s.near.ward ≠ ward ∨ s.near.gen < gen then { s with near := { ward := ward, gen := gen, base := s.form.hdr.nearBase } } else s

/-- The acknowledgements after data: RANGE at the first byte dropped, progress after every 16 MiB. -/
def State.nearProgress (s : State) (dst gen before : Nat) (drop0 : Bool) : State :=
  let s := if s.near.dropped && !drop0 then s.nearAck dst gen 2 else s
  if before / 16777216 < s.near.bytes / 16777216 then s.nearAck dst gen 0 else s

/-- FLACON_DATA at the keeper (R278). -/
def State.takeFlacon (s : State) (k : Packet) : State :=
  let v := leVal (k.payload.take 32)
  let gen := field v 0 32
  if s.ward ≠ some k.src then s
  else if s.live cAdopt || s.live cRestore then s.nearAck k.src gen 3
  else if s.near.ward = k.src ∧ gen < s.near.gen then s.nearAck k.src gen 4
  else
    let s0 := s.nearBegin k.src gen
    if bit v 37 then s0.nearLast k.src gen (field v 128 64)
    else (s0.nearTake v (k.payload.drop 32)).nearProgress k.src gen s0.near.bytes s0.near.dropped

/-- FLACON_ACK at the ward (R279). -/
def State.takeFlaconAck (s : State) (k : Packet) : State :=
  let v := leVal k.payload
  let st := field v 32 4
  match s.emission with
  | none => s
  | some em =>
    if em.gen ≠ field v 0 32 ∨ em.near = false ∨ s.keeper ≠ some k.src ∨ st = 0 then s
    else if st = 1 then
      (s.modEmission (fun e => { e with nearAcked := true, nearTime := s.time })).emissionCheck
    else s.emissionEnd em.gen true st

/-- RESTORE_DATA at an engine whose RESTORE NEAR of the generation is live: the bytes join the operation's input (R284). -/
def State.takeRestore (s : State) (k : Packet) : State :=
  let v := leVal (k.payload.take 32)
  match s.ops.find? (fun (o : LongOp) => decide (o.code = cRestore)) with
  | none => s
  | some o =>
    if o.p 12 1 ≠ 0 ∨ o.p 8 4 ≠ field v 0 32 ∨ s.keeper ≠ some k.src then s
    else
      let bs := k.payload.drop 32
      s.modOp o.handle (fun o => { o with
        near := o.near ++ [(field v 32 2 * 8 + field v 34 3, field v 64 40, bs)],
        done := o.done + bs.length, committedPoint := o.committedPoint || bit v 37 })

/-! ### FENCE_NOTICE (R264) -/

def State.takeNotice (s : State) (k : Packet) : State :=
  let v := leVal k.payload
  let ea := field v 0 20
  let s := s.fenceEa ea
  if s.fabric.notices.contains (ea, s.fabric.epoch) then s
  else
    let s := s.modFabric (fun f => { f with notices := f.notices ++ [(ea, f.epoch)] })
    s.sendNotices ea 2 k.src

/-! ### Scalars (R270) -/

def State.takeScalar (s : State) (up : Bool) (k : Packet) : State :=
  let v := leVal k.payload
  let kind := field v 192 4
  let step := field v 0 48
  let group := if kind = 1 then field v 48 16 else 0
  let val := (field v 64 64, if kind = 1 then field v 128 64 else 0)
  if up then
    if s.scalarChildren.contains k.src then s.roundKid (useRound kind) kind step group k.src val k.poison else s
  else if s.scalarParent = some k.src && (s.round kind step group).total.isNone then
    s.roundTotal (useRound kind) (s.round kind step group) val k.poison
  else s

/-! ### Delivery (rows 9 to 12 of Table 9-5) -/

/-- Deliver a packet of the current epoch by its type. -/
def State.deliverType (s : State) (v : Via) (k : Packet) (held : Option Nat) : State :=
  match k.type with
  | 0x04 => s.takeScalar true k
  | 0x05 => s.takeScalar false k
  | 0x06 => s.takeContrib v k held
  | 0x07 => s.takeFlacon k
  | 0x08 => s.takeFlaconAck k
  | 0x09 => s.takeRestore k
  | 0x0B => s.takeNotice k
  | _ => s

/-- Hold a packet in its buffer or page. -/
def State.holdPacket (s : State) (v : Via) (k : Packet) : State :=
  s.modFabric (fun f => { f with held := f.held ++ [{ pkt := k, via := v, since := s.time }] })

/-- A packet has left a batch page: the page returns when none of its packets is held (R247). -/
def State.pageLeave (s : State) (v : Via) : State :=
  match v with
  | .link _ => s
  | .carried w p =>
    if (s.fabric.held ++ s.fabric.egrHeld).any (fun (h : HeldPkt) => decide (h.via = v)) then s else s.consume w p

/-- Rows 11 and 12, with the wait of a chunk whose slot is not open. -/
def State.rows11 (s : State) (v : Via) (k : Packet) (held : Option Nat) : State :=
  if !s.fabric.members.contains k.src then (s.dropPacket v 7 0x0505 k).leave v k
  else if s.contribEarly k then
    let d := leVal (k.payload.take 16)
    let now := decide (field d 32 48 = s.run.nextStep) && decide (field d 32 48 = (s.shard (field d 0 32)).intakeStep)
    let s := if bit d 92 then s else s.bookArrival (field d 0 32) (field d 32 48) (32 + k.payload.length)
    (s.modRun (fun x => { x with arrived := x.arrived || now })).holdPacket v k
  else (s.deliverType v k held).leave v k

/-- Rows 9 to 12. -/
def State.rows9 (s : State) (v : Via) (k : Packet) : State :=
  if k.epoch < s.fabric.epoch then (s.dropPacket v 6 0 k).leave v k
  else if s.fabric.epoch < k.epoch then s.holdPacket v k
  else s.rows11 v k none

/-- Take the held packets that a condition selects out of their buffers and handle each. -/
def State.release (s : State) (sel : HeldPkt → Bool) (f : State → HeldPkt → State) : State :=
  let hs := s.fabric.held.filter sel
  let s := s.modFabric (fun x => { x with held := x.held.filter (fun h => !sel h) })
  eachIn hs (fun s h => (f s h).pageLeave h.via) s

/-- Whether a held packet is a relayed request, which waits for the end of a handover only (R268, R340). -/
def HeldPkt.relayed (h : HeldPkt) : Bool := decide (h.pkt.type = 0x0A)

/-- Chunks whose slots have opened leave their buffers (R136, R138). -/
def State.retryHeld (s : State) : State :=
  s.release (fun h => !h.relayed && decide (h.pkt.epoch = s.fabric.epoch) && !s.contribEarly h.pkt) (fun s h => s.rows11 h.via h.pkt (some h.since))

/-- SLOT_OPEN. -/
def execSlotOpen (shard : Word32) (s : State) : Res :=
  act s (fun s =>
    match planOf s.form shard.toNat with
    | some p => when (s.formula.isSome && (s.shard shard.toNat).slot.isNone && s.openPoint shard.toNat p &&
        (s.shardBad shard.toNat || s.slotRoom p)) (fun s => (s.openSlot shard.toNat p).retryHeld) s
    | none => s)

/-- Held packets at the installation of an epoch (R252). -/
def State.epochHeld (s : State) : State :=
  let e := s.fabric.epoch
  let s := s.release (fun h => !h.relayed && decide (h.pkt.epoch < e)) (fun s h => (s.dropPacket h.via 6 0 h.pkt).leave h.via h.pkt)
  s.release (fun h => !h.relayed && decide (h.pkt.epoch = e)) (fun s h => s.rows11 h.via h.pkt none)

/-- Whether the EGRESS window that takes carried packets is full (R246). -/
def State.egressFull (s : State) : Bool :=
  match s.form.windows[s.egressWindow]? with
  | some e => let x := s.win s.egressWindow
    s.egressEnabled && decide (e.issued ≤ x.returned - x.consumed)
  | none => false

/-- Whether a packet would be carried to its destination, by an EGRESS window. -/
def State.carriedTo (s : State) (dst : Nat) : Bool :=
  match (routeWalk s.portDown dst s.fabric.routes.zipIdx none []).1 with
  | some e => decide (routeFld e 26 2 = 2)
  | none => false

/-- The senders of packets that wait in the egress buffers get their credits and pages back once the window takes pages again (R246). -/
def State.egressFree (s : State) : State :=
  if s.egressFull then s
  else
    let hs := s.fabric.egrHeld
    let s := s.modFabric (fun f => { f with egrHeld := [] })
    eachIn hs (fun s h => (s.leave h.via h.pkt).pageLeave h.via) s

/-- Forward a packet: one hop less, routed afresh; a fenced destination counts NO_ROUTE (R258, R259, R263). While the EGRESS window is full a
packet routed to it waits in the egress buffers, and its sender waits for the credits or the page (R246). HOPS is a 4-bit field. -/
def State.forward (s : State) (v : Via) (k : Packet) : State :=
  let h := k.head.toNat
  let hops := (k.hops + 15) % 16
  let k' : Packet := { k with head := BitVec.ofNat 256 (h - k.hops * 2 ^ 108 + hops * 2 ^ 108) }
  if s.fabric.fences.contains k.dst then (s.noRoute k.dst).leave v k
  else
    let waits := s.egressFull && s.carriedTo k.dst
    let s := s.routePacket k'
    if waits then s.modFabric (fun f => { f with egrHeld := f.egrHeld ++ [{ pkt := k, via := v, since := s.time }] }) else s.leave v k

/-- Rows 5 to 12 of Table 9-5; `relay` handles MBX_RELAY (R268). -/
def State.rows5 (relay : State → Packet → State) (s : State) (v : Via) (k : Packet) : State :=
  if s.fabric.fences.contains k.src then (s.dropPacket v 4 0 k).leave v k
  else if k.dst ≠ s.ea then
    if k.hops = 1 then (s.dropPacket v 5 0x0504 k).leave v k else s.forward v k
  else if k.type = 0x0A then (relay s k).leave v k
  else s.rows9 v k

/-! ### Bring-up (R260, R261) -/

/-- A HELLO that reports a block major version other than 3 (R260). -/
def majorOk (v : Nat) : Bool := decide (field v 48 8 = 3)

/-- Learn the peer's EA. -/
def State.learnPeer (s : State) (p : Nat) (k : Packet) (assigned : Bool) : State :=
  if assigned then s.modLink p (fun l => { l with peer := some k.src }) else s

/-- The link becomes UP when its HELLO_ACK is sent and the peer's received; it then sends TOPO (R260). -/
def State.linkUpCheck (s : State) (p : Nat) : State :=
  let l := s.link p
  if l.st = .bringup && l.ackSent && l.ackRcvd then
    let s := s.modLink p (fun l => { l with st := .up, misses := 0, rxSince := true, lastTx := s.time, checkAt := s.time })
    (s.sendTopo p).topoIfChanged
  else s

/-- Enter BRINGUP with cleared books and send DISCOVER (R260). -/
def State.startBringup (s : State) (p : Nat) : State :=
  let s := (s.detach p).modLink p (fun l => { l.clear .bringup with discovers := 1, discoverAt := s.time })
  s.sendHello p 0 false

/-- Answer a DISCOVER with HELLO_ACK, which grants the credits of Table 9-6. -/
def State.answerDiscover (s : State) (p : Nat) : State :=
  let s := s.sendHello p 0 true
  (s.modLink p (fun l => { l with ackSent := true, granted := true })).linkUpCheck p

/-- HELLO (R260 to R262). -/
def State.takeHello (s : State) (p : Nat) (k : Packet) : State :=
  let v := leVal k.payload
  let kind := field v 0 8
  let s := s.learnPeer p k (bit v 8)
  if kind ≠ 0 then s
  else if !majorOk v then
    s.post 0x0203 1 7 p (field v 32 24) 0
  else s.answerDiscover p

/-- Whether a packet on an UP link is a DISCOVER: its sender has restarted and numbers its packets from 0 again (R256, R260). -/
def restarts (k : Packet) : Bool :=
  decide (k.type = 0x01) && !badHead k && !badPayload k && decide (field (leVal k.payload) 0 8 = 0)

/-- A DISCOVER on an UP link: LINK_RESET, the link's packets are discarded, and bring-up begins afresh, with the peer's SEQ going on from that
DISCOVER (R260). -/
def State.linkReset (s : State) (p : Nat) (k : Packet) : State :=
  let s := s.post 0x0204 1 7 p 0 0
  let s := s.modFabric (fun f => { f with held := f.held.filter (fun h => decide (h.via ≠ .link p)) })
  let s := (s.startBringup p).modLink p (fun l => { l with seqRx := modAt l.seqRx 0 (fun _ => (k.seq + 1) % 4096), rxSince := true })
  (s.takeHello p k).topoIfChanged

/-- HELLO_ACK: the peer's grant (Table 9-7). -/
def State.takeHelloAck (s : State) (p : Nat) (k : Packet) : State :=
  let v := leVal k.payload
  let s := s.learnPeer p k (bit v 8)
  if !majorOk v then s.post 0x0203 1 7 p (field v 32 24) 0
  else if (s.link p).st = .bringup && !(s.link p).ackRcvd then
    (s.modLink p (fun l => { l with ackRcvd := true, credits := [field v 96 16, field v 112 16, field v 128 16] })).linkUpCheck p
  else s

/-- TOPO: the latest of the neighbour is kept (R261). -/
def State.takeTopo (s : State) (p : Nat) (k : Packet) : State :=
  let v := leVal k.payload
  let s := s.modLink p (fun l => { l with topo := some k.payload, topoAt := s.time, peer := if bit v 20 then some (field v 0 20) else l.peer })
  s.topoIfChanged

/-- A link-local packet (row 4). -/
def State.takeLocal (s : State) (p : Nat) (k : Packet) : State :=
  match k.type with
  | 0x01 => (s.takeHello p k).topoIfChanged
  | 0x02 => (s.takeHelloAck p k).topoIfChanged
  | _ => s.takeTopo p k

/-! ### Reception on a link (R251, R253, R256) -/

/-- Rows 2 to 12 for a packet that holds its place in the lane's buffer. -/
def State.rows2 (relay : State → Packet → State) (s : State) (v : Via) (k : Packet) : State :=
  if badHead k || badPayload k then (s.dropPacket v 2 0x0502 k).leave v k
  else if !s.fabric.assigned && !linkLocal k.type then (s.dropPacket v 3 0x0503 k).leave v k
  else if linkLocal k.type then
    match v with
    | .link p => (s.takeLocal p k).leave v k
    | .carried _ _ => (s.dropPacket v 2 0x0502 k).leave v k
  else s.rows5 relay v k

/-- Credits that a received packet returns (Table 9-3). -/
def State.takeCredits (s : State) (p : Nat) (k : Packet) : State :=
  s.modLink p (fun l => { l with credits := l.credits.zipIdx.map (fun (c : Nat × Nat) => c.1 + k.fld (128 + 8 * c.2) 8) })

/-- A packet arrives on link p. -/
def State.receive (relay : State → Packet → State) (s : State) (p : Nat) (k : Packet) : State :=
  let l := s.link p
  if l.st = .down ∨ l.st = .fenced then s
  else
    let s := s.modLink p (fun l => { l with rxSince := true })
    let free := decide (k.type = 0x01) || decide (k.type = 0x02)
    let ln := laneOf k.type
    let enter := fun (s : State) => if free then s else s.modLink p (fun l => { l with inBuf := modAt l.inBuf ln (fun x => x + k.cost) })
    if field (packetCrc k.head.toNat k.payload) 0 32 ≠ k.fld 224 32 then
      ((enter s).dropPacket (.link p) 1 0x0501 k).leave (.link p) k
    else if l.st = .up ∧ restarts k then s.linkReset p k
    else
      let d := (k.seq + 4096 - l.seqRx.getD ln 0) % 4096
      if d = 0 then
        let used := l.inBuf.getD ln 0 + l.owed.getD ln 0
        if !free && decide ((if l.granted then laneGrant.getD ln 0 else 0) < used + k.cost) then s.fenceLink p 0x0508 ln
        else
          let s := s.modLink p (fun l => { l with seqRx := modAt l.seqRx ln (fun x => (x + 1) % 4096) })
          State.rows2 relay ((enter s).takeCredits p k) (.link p) k
      else if 2048 ≤ d then ((enter s).dropPacket (.link p) 9 0 k).leave (.link p) k
      else s.fenceLink p 0x0509 ln

/-! ### Batches received in CARRY windows (R247) -/

/-- Split a batch into packets: each starts at the next 64-byte boundary; none when the bytes are not consistent. -/
def batchPackets : Nat → Nat → Nat → List Byte → Option (List Packet)
  | 0, _, _, _ => some []
  | n + 1, off, total, bs =>
    let o := roundUp off 64
    let h := leVal (slice bs o 32)
    let len := field h 112 13
    if total < o + 32 + len then none
    else match batchPackets n (o + 32 + len) total bs with
      | some r => some (⟨BitVec.ofNat 256 h, slice bs (o + 32) len⟩ :: r)
      | none => none

/-- The end of the last packet of a batch. -/
def batchEnd : List Packet → Nat → Nat
  | [], off => off
  | k :: ks, off => batchEnd ks (roundUp off 64 + 32 + k.payload.length)

/-- The BSEQ check and record (R247): none when the batch is a duplicate, stale, or from a source beyond 256. -/
def bseqAccept (rs : List BseqRx) (src b : Nat) : Option (List BseqRx) :=
  match rs.find? (fun (r : BseqRx) => decide (r.src = src)) with
  | none => if rs.length < 256 then some (rs ++ [{ src := src, high := b, seen := [b] }]) else none
  | some r =>
    let d := (b + 4096 - r.high) % 4096
    let put := fun (x : BseqRx) => rs.map (fun (y : BseqRx) => if y.src = src then x else y)
    let keep := fun (high : Nat) (l : List Nat) => l.filter (fun x => decide ((high + 4096 - x) % 4096 < 2048))
    if 1 ≤ d ∧ d ≤ 2047 then some (put { r with high := b, seen := keep b (b :: r.seen) })
    else if 2049 ≤ d ∧ !r.seen.contains b then some (put { r with seen := b :: r.seen })
    else none

/-- The first check that a complete batch fails: 1 HCRC, 2 MAGIC or VERSION, 3 DST, 4 BYTES or NPKT; 0 none. -/
def State.batchFault (s : State) (bs : List Byte) : Nat :=
  let h := leVal (bs.take 64)
  let total := field h 96 32
  let n := field h 128 16
  if crc32c (bs.take 60) ≠ field h 480 32 then 1
  else if field h 0 16 ≠ 0x5A1D ∨ field h 16 8 ≠ 0x03 ∨ field h 24 8 ≠ 0 ∨ field h 52 12 ≠ 0 ∨ field h 144 16 ≠ 0 ∨ field h 192 288 ≠ 0 then 2
  else if field h 64 20 ≠ s.ea then 3
  else if n = 0 ∨ total < 96 ∨ 65536 < total then 4
  else match batchPackets n 64 total bs with
    | some ks => if batchEnd ks 64 = total then 0 else 4
    | none => 4

/-- A complete batch in a CARRY window. -/
def State.checkBatch (relay : State → Packet → State) (s : State) (w : Nat) (l : Landed) : State :=
  let x := s.win w
  let total := min 65536 (leVal (x.bytes l.first 12 4))
  let bs := x.bytes l.first 0 total
  let f := s.batchFault bs
  let h := leVal (bs.take 64)
  let bad := fun (s : State) (n : Nat) => ((s.count 2 w iBatchBad 1).error
    { code := 0x050B, cls := .c, unit := 0x0005, index := w, arg0 := n }).consume w l.first
  if f ≠ 0 then bad s f
  else match bseqAccept s.fabric.bseqRx (field h 32 20) (field h 84 12) with
    | none => (s.count 2 w iBatchDup 1).consume w l.first
    | some rs =>
      let s := s.modFabric (fun y => { y with bseqRx := rs })
      let s := s.modWin w (fun y => { y with landed := y.landed.map (fun (z : Landed) =>
        if z.first = l.first then { z with st := LandState.waiting } else z) })
      let v := Via.carried w l.first
      let s := eachIn ((batchPackets (field h 128 16) 64 total bs).getD []) (fun s (k : Packet) =>
        if field (packetCrc k.head.toNat k.payload) 0 32 ≠ k.fld 224 32 then s.dropPacket v 1 0x0501 k
        else State.rows2 relay s v k) s
      s.pageLeave v

/-- Bring a CARRY window up to date after a write. -/
def State.carryProgress (relay : State → Packet → State) (e : WinEntry) (w : Nat) : Nat → State → State
  | 0, s => s
  | fuel + 1, s =>
    let x := s.win w
    if x.fenced then s
    else if decide (x.begun < x.returned + e.issued) && x.filled x.begun 64 then
      let s := s.modWin w (fun y => { y with
        begun := y.begun + 1,
        landed := y.landed ++ [{ first := y.begun, span := 1, st := LandState.receiving, hdr := parseHdr [] }] })
      State.carryProgress relay e w fuel s
    else
      match x.landed.find? (fun (l : Landed) => decide (l.st = .receiving) &&
        x.filled l.first (max 64 (min 65536 (leVal (x.bytes l.first 12 4))))) with
      | some l => State.carryProgress relay e w fuel (s.checkBatch relay w l)
      | none => s

end Sys2Proof.Machine
end

