-- ==== Sys2Proof/Machine/Links.lean ====
section
/-! DEFINITION. The fabric's commands on links: transmission (R253 to R256), timers (R253, R260, R262), adapter reports (R310); batches
and pages for the host (R245, R246, R252, R292). -/

namespace Sys2Proof.Machine

open Sys2Proof.Bits
open Sys2Proof.Hash

/-! ### Transmission -/

/-- Whether a packet needs no credits (R254). -/
def creditFree (k : Packet) : Bool := decide (k.type = 0x01) || decide (k.type = 0x02)

/-- Whether the transmitter may send a packet now (R253, R254, R260). -/
def Link.maySend (l : Link) (now : Nat) (k : Packet) : Bool :=
  if creditFree k then (match l.helloAt with
    | some t => decide (t + 50 ≤ now)
    | none => true)
  else decide (l.st = .up) && decide (k.cost ≤ l.credits.getD (laneOf k.type) 0)

/-- The packet that a lane offers: its head, or a HELLO or HELLO_ACK that waits behind a head without credits. -/
def Link.offer (l : Link) (now ln : Nat) : Option (Packet × Nat) :=
  match l.queue.getD ln [] with
  | [] => none
  | k :: ks =>
    if l.maySend now k then some (k, 0)
    else if creditFree k then none
    else (ks.zipIdx.find? (fun (x : Packet × Nat) => creditFree x.1 && l.maySend now x.1)).map (fun x => (x.1, x.2 + 1))

/-- The next packet by strict lane priority (R255): lane, packet, place in its queue. -/
def Link.nextTx (l : Link) (now : Nat) : Option (Nat × Packet × Nat) :=
  [0, 1, 2].findSome? (fun ln => (l.offer now ln).map (fun x => (ln, x.1, x.2)))

/-- PACKET_TRANSMIT: SEQ, the credits owed and the CRC are filled in as the packet leaves (R250, R253, R256). -/
def execPacketTransmit (p : Fin 2) (s : State) : Res :=
  onLink s p (fun s =>
    let l := s.link p
    match l.nextTx s.time with
    | none => s
    | some (ln, k, at') => when (s.present 2 && (decide (l.st = .up) || decide (l.st = .bringup))) (fun s =>
        let cret := l.owed.map (fun x => min x 255)
        let out := stampPacket k (l.seqTx.getD ln 0) cret
        s.modLink p (fun l => { l with
          queue := modAt l.queue ln (fun q => q.eraseIdx at'),
          seqTx := modAt l.seqTx ln (fun x => (x + 1) % 4096),
          credits := if creditFree k then l.credits else modAt l.credits ln (fun x => x - k.cost),
          owed := l.owed.map (fun x => x - min x 255),
          lastTx := s.time,
          helloAt := if creditFree k then some s.time else l.helloAt,
          sent := [out] })) s)

/-! ### Reception of the types whose handling needs no mailbox -/

/-- Reception without MBX_RELAY, which has its own row. -/
def noRelay (s : State) (_ : Packet) : State := s

/-- A packet of the row's type arrives on link p while PD-PEER is powered. One of a reserved type has no row of its own: any of these rows
brings it, and Table 9-5 drops it as BAD_PKT. -/
def State.arrive (s : State) (relay : State → Packet → State) (p type : Nat) (k : Packet) : State :=
  when (s.present 2 && (decide (k.type = type) || decide (k.type = 0) || decide (0x0B < k.type))) (fun s => State.receive relay s p k) s

/-- HELLO. -/
def execHello (p : Fin 2) (k : Packet) (s : State) : Res := onLink s p (fun s => s.arrive noRelay p 0x01 k)
/-- HELLO_ACK. -/
def execHelloAck (p : Fin 2) (k : Packet) (s : State) : Res := onLink s p (fun s => s.arrive noRelay p 0x02 k)
/-- TOPO. -/
def execTopo (p : Fin 2) (k : Packet) (s : State) : Res := onLink s p (fun s => s.arrive noRelay p 0x03 k)
/-- SCALAR_UP. -/
def execScalarUp (p : Fin 2) (k : Packet) (s : State) : Res := onLink s p (fun s => s.arrive noRelay p 0x04 k)
/-- SCALAR_DOWN. -/
def execScalarDown (p : Fin 2) (k : Packet) (s : State) : Res := onLink s p (fun s => s.arrive noRelay p 0x05 k)
/-- CONTRIB. -/
def execContrib (p : Fin 2) (k : Packet) (s : State) : Res := onLink s p (fun s => s.arrive noRelay p 0x06 k)
/-- FLACON_DATA. -/
def execFlaconData (p : Fin 2) (k : Packet) (s : State) : Res := onLink s p (fun s => s.arrive noRelay p 0x07 k)
/-- FLACON_ACK. -/
def execFlaconAck (p : Fin 2) (k : Packet) (s : State) : Res := onLink s p (fun s => s.arrive noRelay p 0x08 k)
/-- RESTORE_DATA. -/
def execRestoreData (p : Fin 2) (k : Packet) (s : State) : Res := onLink s p (fun s => s.arrive noRelay p 0x09 k)
/-- FENCE_NOTICE. -/
def execFenceNotice (p : Fin 2) (k : Packet) (s : State) : Res := onLink s p (fun s => s.arrive noRelay p 0x0B k)

/-! ### Timers -/

/-- DISCOVER_TIMER (R260). -/
def execDiscoverTimer (p : Fin 2) (s : State) : Res :=
  onLink s p (fun s =>
    let l := s.link p
    when (s.present 2 && decide (l.st = .bringup) && !l.ackRcvd && decide (l.discoverAt + 100000 ≤ s.time)) (fun s =>
      let s := if l.discovers = 8 ∧ l.silent = false then
          (s.post 0x0202 1 7 p 0 0).modLink p (fun l => { l with silent := true })
        else s
      (s.modLink p (fun l => { l with discovers := l.discovers + 1, discoverAt := s.time })).sendHello p 0 false) s)

/-- HEARTBEAT_SEND (R262). -/
def execHeartbeatSend (p : Fin 2) (s : State) : Res :=
  onLink s p (fun s =>
    let l := s.link p
    when (s.present 2 && decide (l.st = .up) && decide (l.lastTx + 100000 ≤ s.time)) (fun s =>
      (s.modLink p (fun l => { l with lastTx := s.time })).sendHello p 1 false) s)

/-- HEARTBEAT_CHECK: at the end of a 100 µs interval of the timebase (R262). -/
def execHeartbeatCheck (p : Fin 2) (s : State) : Res :=
  onLink s p (fun s =>
    let l := s.link p
    when (s.present 2 && decide (l.st = .up) && decide (l.checkAt / 100000 < s.time / 100000)) (fun s =>
      let m := if l.rxSince then 0 else l.misses + 1
      let s := s.modLink p (fun l => { l with misses := m, rxSince := false, checkAt := s.time })
      if 8 ≤ m then s.linkLost p 0 .down else s) s)

/-- CREDIT_HELLO_TIMER (R253). -/
def execCreditHelloTimer (p : Fin 2) (s : State) : Res :=
  onLink s p (fun s =>
    let l := s.link p
    when (s.present 2 && decide (l.st = .up) && l.owed.any (fun x => decide (0 < x)) && l.queue.all List.isEmpty &&
      decide (l.owedAt + 200 ≤ s.time)) (fun s => s.sendHello p 2 false) s)

/-- EPOCH_EXPIRED: packets held 10 ms for an epoch to come are dropped (R252). -/
def execEpochExpired (s : State) : Res :=
  act s (fun s => s.release (fun h => !h.relayed && decide (s.fabric.epoch < h.pkt.epoch) && decide (h.since + 10000000 ≤ s.time))
    (fun s h => (s.dropPacket h.via 8 0 h.pkt).leave h.via h.pkt))

/-! ### Adapter reports (R310) -/

/-- PPT_LINK_UP: a rising LINK_UP starts the bring-up; a fenced link waits for its fence to be cleared. -/
def execPptLinkUp (p : Fin 2) (s : State) : Res :=
  onLink s p (fun s =>
    let l := s.link p
    when (!l.pinUp) (fun s =>
      let s := s.modLink p (fun l => { l with pinUp := true, retrain := false })
      if l.st = .fenced ∨ s.present 2 = false then s else s.startBringup p) s)

/-- PPT_LINK_DOWN: a falling LINK_UP. -/
def execPptLinkDown (p : Fin 2) (s : State) : Res :=
  onLink s p (fun s =>
    let l := s.link p
    when l.pinUp (fun s =>
      let s := if s.present 2 then s.linkLost p 1 (if l.st = .fenced then .fenced else .down) else s
      s.modLink p (fun l => { l with pinUp := false })) s)

/-- PPT_ERR: a link-down report, with a RETRAIN pulse. -/
def execPptErr (p : Fin 2) (s : State) : Res :=
  onLink s p (fun s =>
    let l := s.link p
    when (s.present 2) (fun s =>
      (s.linkLost p 1 (if l.st = .fenced then .fenced else .down)).modLink p (fun l => { l with retrain := true })) s)

/-! ### Batches and pages (R245, R246, R292) -/

/-- BATCH_TIMEOUT: an open batch 500 ns old is closed for publication. -/
def execBatchTimeout (dst : Ea) (s : State) : Res :=
  act s (fun s =>
    when (s.fabric.batches.any (fun (b : Batch) => decide (b.dst = dst.toNat) && !b.closed && decide (b.since + 500 ≤ s.time)))
      (fun s => s.closeBatch dst.toNat) s)

/-- The bytes of a batch: the header of Table 9-2 and its packets at 64-byte boundaries. -/
def batchPage (src : Nat) (b : Batch) (bseq epoch : Nat) : List Byte :=
  let total := batchBytes b.pkts
  let h := leBytes 60 (0x5A1D + 0x03 * 2 ^ 16 + src % 2 ^ 20 * 2 ^ 32 + b.dst % 2 ^ 20 * 2 ^ 64 + bseq % 2 ^ 12 * 2 ^ 84 +
    total % 2 ^ 32 * 2 ^ 96 + b.pkts.length % 2 ^ 16 * 2 ^ 128 + epoch % 2 ^ 32 * 2 ^ 160)
  b.pkts.foldl (fun a (k : Packet) => padTo a (roundUp a.length 64) ++ leBytes 32 k.head.toNat ++ k.payload)
    (h ++ leBytes 4 (crc32c h))

/-- The granules of page bytes. -/
def pageGranules (bs : List Byte) : List (Nat × BitVec 256) :=
  (chunks 32 (bs.length / 32 + 1) bs).zipIdx.map (fun (p : List Byte × Nat) => (p.2, BitVec.ofNat 256 (leVal p.1)))

/-- Write bytes into the next page of an EGRESS window and advance its credit word (R245, R246). -/
def State.publish (s : State) (w issued : Nat) (bs : List Byte) : State :=
  s.modWin w (fun x => { x with
    returned := x.returned + 1,
    pages := x.pages.filter (fun (p : Page) => decide (x.returned + 1 ≤ p.num + issued)) ++
      [{ num := x.returned, gran := pageGranules bs, ret0 := 0 }] })

/-- The next BSEQ of a flow (R245). -/
def State.nextBseq (s : State) (dst : Nat) : Nat :=
  ((s.fabric.bseqTx.find? (fun (x : Nat × Nat) => decide (x.1 = dst))).map Prod.snd).getD 0

/-- Publish the first closed batch of a window. -/
def State.publishBatch (s : State) (w issued : Nat) (b : Batch) : State :=
  let q := s.nextBseq b.dst
  let s := s.modFabric (fun f => { f with
    batches := f.batches.erase b,
    bseqTx := f.bseqTx.filter (fun (x : Nat × Nat) => decide (x.1 ≠ b.dst)) ++ [(b.dst, (q + 1) % 4096)] })
  s.publish w issued (batchPage s.ea b q s.fabric.epoch)

/-- Publish a stream page. -/
def State.publishStream (s : State) (w issued : Nat) (p : OutPage) : State :=
  let s := { s with outPages := s.outPages.erase p }
  let s := s.publish w issued (streamPage s.ea p)
  let s := s.modEmission (fun e => if p.kind = 1 ∧ p.gen = e.gen then { e with farLast := (s.win w).returned } else e)
  { s with ops := s.ops.map (fun (o : LongOp) =>
      if o.code = cFlaconWrite ∧ p.kind = 1 ∧ o.result % 2 ^ 32 = p.gen then { o with done := o.done + p.payload.length } else o) }

/-- How many of n records from RSEQ r on are whole: a page does not end between a prefix and its body (R289, R292). -/
def State.wholeRecords (s : State) : Nat → Nat → Nat → Nat
  | 0, _, _ => 0
  | fuel + 1, r, n =>
    let m := if s.dramByte (ringAddr s.blotter r) = 0x08 then 2 else 1
    if n < m then 0 else m + s.wholeRecords fuel (r + m) (n - m)

/-- The Blotter page of the oldest records in the ring that are not drained, a run of consecutive RSEQ; none while an overrun record is
still to be written (R288, R292). -/
def State.blotterPage (s : State) : Option OutPage :=
  let b := s.blotter
  let d := b.gaps.foldl (fun d (g : Nat × Nat) => if g.1 ≤ d ∧ d ≤ g.2 then g.2 + 1 else d) (max b.drained s.oldestRecord)
  let stop := b.gaps.foldl (fun m (g : Nat × Nat) => if d < g.1 then min m g.1 else m) b.inRing
  let n := s.wholeRecords 1023 d (min 1023 (stop - d))
  if 0 < n ∧ b.lost.isEmpty then
    some { kind := 3, gen := 0, step := 0, off := d, shard := 0,
           payload := (List.range n).flatMap (fun i => s.dramBytes (ringAddr s.blotter (d + i)) 64) }
  else none

/-- Publish the Blotter page: its records are drained. -/
def State.publishBlotter (s : State) (w issued : Nat) (p : OutPage) : State :=
  let s := s.publish w issued (streamPage s.ea p)
  { s with blotter := { s.blotter with drained := p.off + p.payload.length / 64 } }

/-- EGRESS_PAGE_PUBLISH: batches first, then capture, far and Blotter pages in the lowest-indexed window (R246, R292). -/
def execEgressPagePublish (win : Byte) (s : State) : Res :=
  act s (fun s =>
    let w := win.toNat
    match s.form.windows[w]? with
    | none => s
    | some e =>
      let x := s.win w
      when (s.formula.isSome && s.present 1 && e.enable && decide (e.kind = 2) && decide (x.returned - x.consumed < e.issued)) (fun s =>
        match s.fabric.batches.find? (fun (b : Batch) => b.closed && decide (b.win = w)) with
        | some b => s.publishBatch w e.issued b
        | none =>
          if w ≠ s.egressWindow then s
          else match s.outPages.find? (fun (p : OutPage) => decide (p.kind = 2)) with
            | some p => s.publishStream w e.issued p
            | none => match s.outPages.find? (fun (p : OutPage) => decide (p.kind = 1)) with
              | some p => s.publishStream w e.issued p
              | none => match s.blotterPage with
                | some p => s.publishBlotter w e.issued p
                | none => s) s)

end Sys2Proof.Machine
end

