-- ==== Sys2Proof/Machine/Timeline.lean ====
section
/-! DEFINITION. The step timeline: the end of a TRANSIT (R18 to R22), segments (R161 to R163), refresh at its tick (R164, R165), and the
step anchor (R134, R161, R290). -/

namespace Sys2Proof.Machine

open Sys2Proof.Bits

/-! ### Refresh (R164, R165) -/

/-- REFRESH_TICK: at precedence 1, in TRANSIT and PROC; a bank under a catch-up REFAB waits (R164, R165). -/
def execRefreshTick (ch : Fin 32) (pc : Fin 2) (bank : Fin 32) (s : State) : Res :=
  onChan s ch (fun s =>
    let c := s.chan ch
    when (decide (c.mode ≠ .mem) && !c.fenced && decide (c.catchup = 0) && s.refreshDue ch pc bank) (fun s => s.issueRefresh ch s.refreshPeriod pc bank) s)

/-! ### The end of a TRANSIT -/

/-- Enter PROC: the host's postponed refreshes are paid at once, N_post REFABs on each pseudo-channel (R22, R165). -/
def State.enterProc (s : State) (ch : Nat) : State :=
  s.modChan ch (fun c => { c with
    mode := .proc, since := s.time, catchup := s.disc.nPost, refreshes := c.refreshes + 2 * s.disc.nPost })

/-- The EVAL window closes when every channel is back in PROC and its catch-up is paid: FROZEN clears (R295). -/
def State.evalCheck (s : State) : State :=
  if s.run.eval = .closing ∧ (s.channelList.all (fun c => (s.chan c).fenced ||
      (decide ((s.chan c).mode = .proc) && decide ((s.chan c).catchup = 0)))) then
    let s := { s with shards := s.shards.map (fun (h : Shard) => { h with ready := { h.ready with frozen := false } }) }
    s.modRun (fun r => { r with eval := .closed })
  else s

/-- Whether every channel is in MEM mode. -/
def State.allMem (s : State) : Bool := s.channelList.all (fun c => decide ((s.chan c).mode = .mem))

/-- Put a service level in force and report it, also in TOPO (R261); from S0 the MC starts from ROM again (LEVEL_CHANGED: cause 0 a request,
1 a class X error; Table 12-13). -/
def State.setLevel (s : State) (new cause : Nat) : State :=
  let old := s.smp.level
  let s := s.modSmp (fun m => { m with level := new, pendingLevel := decide (new ≠ m.req) })
  let s := if new = 0 then { s with fuses := { s.fuses with read := false } } else s
  if old = new then s else (s.post 0x0105 0 7 new old cause).topoIfChanged

/-- A lowering below S2 is complete when the last channel is in MEM mode (R30, R22). -/
def State.lowerCheck (s : State) : State :=
  if s.fw.levelHold = 1 ∧ s.allMem then (s.modFw (fun w => { w with levelHold := 0 })).setLevel (min s.smp.req s.smp.level) 0 else s

/-- A loan ends when the last channel is in MEM mode (R360). -/
def State.loanCheck (s : State) : State :=
  if s.loan.isOpen && s.loan.transferred && s.allMem then { s with loan := { lastEnd := s.time } } else s

/-- RUN_STOPPED is posted when the last channel is in MEM mode (R341). -/
def State.stopCheck (s : State) : State :=
  match s.run.stopHold with
  | none => s
  | some n => if s.allMem then (s.modRun (fun r => { r with stopHold := none })).post 0x0102 0 7 s.fabric.epoch n 0 else s

/-- Enter MEM: no postponed refresh is outstanding, also none whose tick fell within the TRANSIT, and CH_OWN falls (R19, R22, R165). -/
def State.enterMem (s : State) (ch : Nat) : State :=
  let s := (s.issueSince ch (s.chan ch).since).issueDue ch
  let s := s.modChan ch (fun c => { c with mode := .mem, since := s.time, catchup := 0, rows := [] })
  s.loanCheck.lowerCheck.stopCheck

/-- The mode that CHANNEL_STUCK reports: the manual gives the modes no encoding (Table 14-3), so it is a free value. -/
def State.stuck (s : State) (ch : Nat) : State :=
  (s.classX { code := 0x0715, cls := .x, unit := 0x0002, index := ch, arg0 := Config.freeNat s.free }).tickFree

/-- A TRANSIT ends 120 ns after it began (R18); one that cannot complete is CHANNEL_STUCK (R385). -/
def State.transitEnds (s : State) (ch : Nat) (stuck : Bool) : State :=
  let c := s.chan ch
  if c.since + tMode ≤ s.time then
    match c.mode with
    | .toProc => if stuck then s.stuck ch else (s.enterProc ch).evalCheck
    | .toMem => if stuck then s.stuck ch else s.enterMem ch
    | _ => s
  else s

/-- CATCHUP_REFRESH_DONE: Still and Atomizer access to the channel may begin (R165). -/
def execCatchupRefreshDone (ch : Fin 32) (s : State) : Res :=
  onChan s ch (fun s =>
    let c := s.chan ch
    when (decide (c.mode = .proc) && decide (0 < c.catchup) && decide (c.since + c.catchup * s.disc.tRfcAb ≤ s.time))
      (fun s => (s.modChan ch (fun c => { c with catchup := 0 })).evalCheck) s)

/-! ### Segments (R162, R163) -/

/-- Insert a segment by ascending START. -/
def insertSegment (x : Segment) : List Segment → List Segment
  | [] => [x]
  | y :: ys => if x.start ≤ y.start then x :: y :: ys else y :: insertSegment x ys

/-- The segments of a channel in ascending START. -/
def segmentsOf (f : Formula) (ch : Nat) : List Segment :=
  ((f.timeline.filter (fun (x : Segment) => bit x.chmask ch)).foldr insertSegment [])

/-- SEGMENT_BOUNDARY: the next segment of the channel begins at its tick, whatever is outstanding (R163). -/
def execSegmentBoundary (ch : Fin 32) (s : State) : Res :=
  onChan s ch (fun s =>
    match (segmentsOf s.form ch)[(s.chan ch).segIdx]? with
    | some x => when (s.run.anchored && s.evalIdle && decide (s.tickTime x.start ≤ s.time)) (fun s =>
        (s.transit ch (if x.proc then .toProc else .toMem)).modChan ch (fun c => { c with segIdx := c.segIdx + 1 })) s
    | none => s)

/-! ### The step record (R290, R395, Table 14-5) -/

/-- A TIMING duration: 0 when the phase did not occur (R392). -/
def phase (a b : Nat) : Nat := if a = 0 ∨ b = 0 then 0 else a - b

/-- Set a TIMING value and its largest. -/
def State.timing (s : State) (num maxNum v : Nat) : State :=
  (s.setCounter 7 0 num v).setCounter 7 0 maxNum (max v (findCounter s.counters 7 0 maxNum).1)

/-- Write the step record of the step whose interval ends, and bring TIMING and BLOTTER_BACKLOG up to date (R290, R395). -/
def State.blotStep (s : State) : State :=
  let t := s.run.times
  if t.p0 = 0 then s
  else
    let s := s.blot (blotRecord 0x01 (ofBool t.skipped + 2 * ofBool t.cut + 4 * ofBool t.short + 8 * ofBool t.env) s.run.lastStep
      (t.p0 % 2 ^ 64 + t.p1 % 2 ^ 64 * 2 ^ 64 + t.p2 % 2 ^ 64 * 2 ^ 128 + t.p3 % 2 ^ 64 * 2 ^ 192 + t.p4 % 2 ^ 64 * 2 ^ 256 +
        t.p5 % 2 ^ 64 * 2 ^ 320 + t.p6 % 2 ^ 64 * 2 ^ 384))
    let s := (((s.timing 1 5 (phase t.p1 t.p0)).timing 2 6 (phase t.p2 t.p0)).timing 3 7 (phase t.p3 t.p0)).timing 4 8 (phase t.p6 t.p0)
    let s := s.timing 9 10 (phase t.p3 t.p1)
    let s := s.setCounter 8 32 2 (s.blotter.rseq - s.blotter.drained)
    s.modRun (fun r => { r with times := {} })

/-! ### The anchor (R134, R161) -/

/-- Whether a level below the present one is requested (R30). -/
def State.lowering (s : State) : Bool := s.smp.pendingLevel && decide (s.smp.req < s.smp.level)

/-- Whether nothing forbids the next anchor: the epoch (R267), EVAL (R295), RUN_STOP, a lowering (R30), a fenced channel, a cancelled
RESTORE, a VERSION at its limit (R385, R394, Table 12-16). -/
def State.anchorAllowed (s : State) : Bool :=
  s.formula.isSome && decide (2 ≤ s.level) && decide (s.form.hdr.epoch = s.fabric.epoch) &&
    decide (s.run.eval = .closed) && !s.run.stopping && !s.lowering && !s.anchorBlocked && !s.live cRestore && !s.live cAdopt

/-- Shards of a fenced window that FENCE_CLEAR has cleared are free of poison from this step on (R384, R386). -/
def State.freeShards (s : State) : State :=
  { s with shards := s.shards.zipIdx.map (fun (p : Shard × Nat) =>
      let fenced := match gradWin s.form p.2 with
        | some w => (s.win w.1).fenced
        | none => false
      if p.1.windowFence && !fenced then
        { p.1 with windowFence := false, ready := { p.1.ready with poison := false }, badUntil := s.run.lastStep }
      else p.1) }

/-- FENCE_CLEAR of a window at the step boundary: every page is freed and counted in RETURNED (R384). -/
def Win.clear (x : Win) : Win :=
  if x.clearing then { x with fenced := false, clearing := false, returned := x.begun, landed := [], pages := [] } else x

def State.clearWindows (s : State) : State :=
  { s with wins := s.wins.zipIdx.map (fun (p : Win × Nat) => match s.form.windows[p.2]? with
      | some e => if e.kind = 2 then p.1 else p.1.clear
      | none => p.1) }

/-- The audit of each window's page identity at the step boundary (R129). -/
def State.auditWindows (s : State) : State :=
  eachIn s.form.windows.zipIdx (fun s (p : WinEntry × Nat) =>
    let x := s.win p.2
    let filled := x.landed.foldl (fun a (l : Landed) => a + l.span) 0
    if p.1.enable && decide (p.1.kind ≠ 2) && !x.fenced && decide (filled ≠ x.begun - x.returned) then
      (s.error { code := 0x0109, cls := .f, unit := 0x0005, index := p.2, arg0 := toSigned 64 ((x.begun : Int) - x.returned - filled) }).fenceWindow p.2
    else s) s

/-- Non-owned shards without a slot-plan entry have no contributor here: an EMPTY partial goes up at the anchor (R148). -/
def State.sendIdle (s : State) (n : Nat) : State :=
  eachIn (List.range s.form.shards.length) (fun s i =>
    match shardEntry s.form i with
    | some e => if (planOf s.form i).isNone && !s.owns e && decide (s.contributors i = 0) then
        ((s.sendEmpty i n e).closeSlot i false)
      else s
    | none => s) s

/-- Forget what no later step needs: steps two back or more that are decided and complete, their rounds and program results. -/
def State.forgetSteps (s : State) (n : Nat) : State :=
  let kept := s.run.steps.filter (fun (t : StepSt) =>
    decide (n ≤ t.step + 2) || !t.decided || !(s.passesDone t.step && (t.skipped || s.programsDone t.step)))
  let keep := fun (m : Nat) => kept.any (fun (t : StepSt) => decide (t.step = m)) || decide (n ≤ m + 2)
  let s := s.modRun (fun r => { r with steps := kept })
  let s := { s with atmResults := s.atmResults.filter (fun (r : AtmResult) => keep r.step) }
  s.modFabric (fun f => { f with rounds := f.rounds.filter (fun (r : Round) => keep r.step) })

/-- Take the anchor of step n. -/
def State.anchor (s : State) : State :=
  let n := s.run.nextStep
  let s := s.blotStep
  let s := ((s.clearWindows.freeShards).auditWindows).forgetSteps n
  let s := { s with shards := s.shards.map (fun (h : Shard) => { h with envReported := false }) }
  let s := s.freshBooks
  let s := { s with chans := mapV (fun (c : Channel) => { c with segIdx := 0 }) s.chans, fw := { s.fw with bankArmed := true } }
  let s := s.modRun (fun r => { r with
    nextStep := n + 1, lastStep := n, anchorTime := s.time, anchored := true, boundedAt := s.time + 20 * boundedEnd s.form, openFrom := s.run.boundedAt, stepBegin := false, arrived := false,
    times := { p0 := s.time } })
  let s := s.modStep n (fun t => { t with anchorAt := s.time })
  let s := s.sendIdle n
  let s := if s.form.hdr.nfGuard then s.countTry n else s.decideStep n 0 false
  s.retryHeld

/-- STEP_ANCHOR: the anchor of step NEXT, once the previous step's bounded timeline has ended and a contribution, chunk or STEP_BEGIN of
the step has come (R161). -/
def execStepAnchor (s : State) : Res :=
  act s (fun s => when (s.anchorAllowed && s.boundedPassed && (s.run.arrived || s.run.stepBegin)) State.anchor s)

end Sys2Proof.Machine
end

