-- ==== Sys2Proof/Machine/Bank.lean ====
section
/-! DEFINITION. What an Atomizer computes (07_atomizers.md, R67 to R75): its arithmetic, where its operands lie (R197 to R201), and each
command of Table 7-8 on its latches and rows. -/

namespace Sys2Proof.Machine

open Sys2Proof.Bits
open Sys2Proof.Fp
open Sys2Proof.Convert

/-! ### Arithmetic (R67 to R75) -/

/-- The numeric format of an Atomizer format code (Table 2-8). -/
def atmFmt (code : Nat) : Fmt :=
  match code with
  | 0x02 => binary32
  | 0x03 => binary16
  | 0x04 => bf16
  | 0x05 => e4m3
  | _ => e5m2

/-- atm_round (R70): the code, and the category of the element (R54). -/
def atmRound (f : Fmt) (sat : Bool) (v : Val) : Nat × Cat :=
  match v with
  | .fin n m e =>
    if f = binary32 then
      let r := quantum 23 (-100000) .nearestEven n m e
      if r.1 = 0 ∨ (bitLen r.1 : Int) + r.2.1 < -125 then (f.signBit n, if m = 0 then .none else .flushed)
      else encodeVal f sat (.fin n r.1 r.2.1)
    else encodeVal f sat v
  | _ => encodeVal f sat v

/-- The 24-bit significand of R67: m * 2^e of a format with mb mantissa bits, as m24 * 2^e24. -/
def significand (mb m : Nat) (e : Int) : Nat × Int := (m * 2 ^ (23 - mb), e - (23 - mb : Nat))

/-- The truncated sum S of R68: each partial product is cut at weight 2^21. -/
def splitProduct (a b : Nat) : Nat :=
  let part := fun (x y w : Nat) => x * y * 2 ^ w / 2 ^ 21 * 2 ^ 21
  part (a / 4096) (b / 4096) 24 + part (a / 4096) (b % 4096) 12 + part (a % 4096) (b / 4096) 12 + part (a % 4096) (b % 4096) 0

/-- The exact real value of S for two operands, or what IEEE 754 gives where one of them is not finite. -/
def atmProduct (fa fb : Fmt) (a b : Val) : Val :=
  match a, b with
  | .fin n1 m1 e1, .fin n2 m2 e2 =>
    let x := significand fa.mb m1 e1
    let y := significand fb.mb m2 e2
    .fin (n1 != n2) (splitProduct x.1 y.1) (x.2 + y.2)
  | .inf n1, .inf n2 => .inf (n1 != n2)
  | .inf n1, .fin n2 m _ => if m = 0 then .nan false else .inf (n1 != n2)
  | .fin n1 m _, .inf n2 => if m = 0 then .nan false else .inf (n1 != n2)
  | _, _ => .nan false

/-- The exact sum of two values (R69). -/
def atmSum (a b : Val) : Val :=
  match a, b with
  | .fin n1 m1 e1, .fin n2 m2 e2 =>
    let t := addExact .nearestEven n1 m1 e1 n2 m2 e2
    .fin t.1 t.2.1 t.2.2
  | .inf n1, .inf n2 => if n1 == n2 then .inf n1 else .nan false
  | .inf n, .fin _ _ _ => .inf n
  | .fin _ _ _, .inf n => .inf n
  | _, _ => .nan false

/-- Min and max (R73): FMIN and FMAX on the exact values, which binary32 holds for every Atomizer format. -/
def atmExtreme (wantMax : Bool) (fa fb : Fmt) (a b : Nat) : Val :=
  decode binary32 (minMax binary32 wantMax (widen fa binary32 a) (widen fb binary32 b)).1

/-- ATM_OP on one element (R205): codes of A, B and C. MIN and MAX give one of their operands and flush nothing (R58, R73). -/
def atmOp (func : Nat) (fa fb fr : Fmt) (sat : Bool) (a b c : Nat) : Nat × Cat :=
  let x := decode fa a
  let y := decode fb b
  match func with
  | 0 => atmRound fr sat (atmSum x y)
  | 1 => atmRound fr sat (atmSum x (negV y))
  | 2 => atmRound fr sat (atmProduct fa fb x y)
  | 3 => atmRound fr sat (atmSum (atmProduct fa fb x y) (decode fr c))
  | 4 => encodeVal fr sat (atmExtreme false fa fb a b)
  | 5 => encodeVal fr sat (atmExtreme true fa fb a b)
  | _ => atmRound fr sat x

/-- The activation of a FUNC code (Table 7-8). -/
def actOf (func : Nat) : Exact.Act :=
  match func with
  | 0 => .relu
  | 1 => .gelu
  | 2 => .silu
  | 3 => .sigmoid
  | 4 => .tanh
  | _ => .exp

/-- ATM_ACT on one element (R75, Table 3-6). -/
def atmAct (func : Nat) (f : Fmt) (sat : Bool) (a : Nat) : Nat × Cat :=
  let act := actOf func
  let half := (encodeVal f sat (.fin false 1 (-1))).1
  let unit := (encodeVal f sat (.fin false 1 0)).1
  match decode f a with
  | .nan _ => (f.nanCode, .nan)
  | .inf n =>
    (match act with
     | .relu => if n then 0 else f.infCode false
     | .gelu => if n then f.signBit true else f.infCode false
     | .silu => if n then f.signBit true else f.infCode false
     | .sigmoid => if n then 0 else unit
     | .tanh => f.signBit n + unit
     | .exp => if n then 0 else f.infCode false, .none)
  | .fin n m e =>
    if m = 0 then
      (match act with
       | .relu => 0
       | .sigmoid => half
       | .exp => unit
       | _ => f.signBit n, .none)
    else
      let v := Exact.actValue act n m e
      encodeVal f sat (.fin v.1 v.2 (-(Exact.prec : Int)))

/-- ATM_MASK APPLY on one element (R72): the mask code is a B1 or a T2 element. -/
def atmApply (maskFmt : Nat) (fa fr : Fmt) (a mask : Nat) : Nat × Cat :=
  let pick := fun (neg : Bool) =>
    if isNan (decode fa a) then (fr.nanCode, Cat.nan)
    else
      let c := if fa = fr then a else widen fa fr a
      (if neg then Nat.xor c (fr.signBit true) else c, Cat.none)
  if maskFmt = 0x40 then pick (decide (mask = 1))
  else match mask with
    | 0 => (0, .none)
    | 1 => pick false
    | 3 => pick true
    | _ => (fr.nanCode, .nan)

/-! ### Slots and operands (R197 to R201) -/

/-- The bits of a format that decide a slot width; masks and absent formats take no part. -/
def slotBits (code : Nat) : Nat := if code = 0x40 ∨ code = 0x41 ∨ code = 0 then 0 else elemBits code

/-- The slot width of an operand (R199, R200). -/
def operandSlot (o : AtmOperand) : Nat := if o.layout = 0 then elemBits o.fmt else o.slot

/-- Whether a command draws lane bits: ATM_RND, and mask generation. -/
def cmdDraws (w : AtmCmd) : Bool := decide (w.cmd = 6) || (decide (w.cmd = 5) && decide (w.func = 1))

/-- The slot width of a command: the largest of its numeric formats; that of its operand where it names none (R199, R201). -/
def cmdWidth (w : AtmCmd) (os : List AtmOperand) : Nat :=
  let m := max (slotBits w.fmtR) (max (slotBits w.fmtA) (slotBits w.fmtB))
  if m = 0 then ((os[w.opnd]?).map operandSlot).getD 16 else m

/-- Iterations that one mask row serves (R200, Table 7-4). -/
def maskIters (o : AtmOperand) : Nat := max 1 (o.slot / elemBits o.fmt)

/-- Whether a LOAD or STORE of an operand takes effect in iteration i of n (R200). -/
def accessEffect (o : AtmOperand) (store : Bool) (i n : Nat) : Bool :=
  if o.layout ≠ 2 then true
  else if store then decide (i % maskIters o = maskIters o - 1) || decide (i + 1 = n)
  else decide (i % maskIters o = 0)

/-- The position that a LOAD or STORE addresses (R197, R200). -/
def accessPos (o : AtmOperand) (i delta : Nat) : Nat := if o.layout = 2 then i / maskIters o else i + delta

/-- Bank and row of a position for the Atomizer of pair q. -/
def posBank (q p : Nat) : Nat := 2 * q + p % 2
def posRow (o : AtmOperand) (p : Nat) : Nat := o.foot / 2 ^ 18 + p / 2

/-- The passes of a command's multiplier (Table 3-4). -/
def atmPasses (w : AtmCmd) : Nat :=
  if decide (w.cmd = 3) && (decide (w.func = 2) || decide (w.func = 3)) && (decide (w.fmtA = 2) || decide (w.fmtB = 2)) then 4 else 1

/-- Cycles of a command per half-set in iteration i of n (Table 7-8). -/
def atmCycles (p : AtmProgram) (w : AtmCmd) (i : Nat) : Nat :=
  let wide := if cmdWidth w p.operands = 8 then 64 else 32
  match w.cmd with
  | 1 => if ((p.operands[w.opnd]?).map (fun o => accessEffect o false i p.niter)).getD false then 32 else 0
  | 2 => if ((p.operands[w.opnd]?).map (fun o => accessEffect o true i p.niter)).getD false then 32 else 0
  | 3 => wide * atmPasses w
  | 4 => 128
  | 5 => wide
  | 6 => wide
  | 7 => wide
  | 8 => 64
  | _ => 0

/-! ### Latches -/

/-- A slot of a latch. -/
def Latch.slot (x : Latch) (w e : Nat) : Nat := field x.val (w * e) w

/-- The ECC words of a 1 KiB row. -/
def rowWords (ecc : Nat) : Nat := 1024 / max 1 ecc

/-- The ECC word of slot e. -/
def slotWord (ecc w e : Nat) : Nat := w * e / (8 * max 1 ecc)

/-- Whether slot e lies in a poisoned word. -/
def Latch.slotBad (x : Latch) (ecc w e : Nat) : Bool := bit x.poison (slotWord ecc w e)

/-- Bits of a list of slot values, the first lowest. -/
def packSlots (w : Nat) : List Nat → Nat
  | [] => 0
  | c :: cs => c % 2 ^ w + 2 ^ w * packSlots w cs

/-- A latch from its slot values and poison; the numeric bits of a poisoned word are a free value (R73, R223). -/
def mkLatch (ecc w base : Nat) (vals : List Nat) (bad : List Bool) : Latch :=
  let n := rowWords ecc
  let per := 8 * max 1 ecc
  let poison := bad.zipIdx.foldl (fun a (p : Bool × Nat) => if p.1 then Nat.lor a (2 ^ slotWord ecc w p.2) else a) 0
  let v := packSlots w vals
  { val := if poison = 0 then v else (List.range n).foldl (fun a j =>
      a + (if bit poison j then Config.poisonedBits (base + j) % 2 ^ per else field v (per * j) per) * 2 ^ (per * j)) 0
    poison := poison }

/-- The element of a mask latch that belongs to slot e in iteration i (R200): its code, and whether it is poisoned. -/
def maskElem (x : Latch) (ecc maskFmt w i e : Nat) : Nat × Bool :=
  let b := elemBits maskFmt
  let per := 256 / w
  let iters := max 1 (w / b)
  let off := 256 * (e / per) + b * (per * (i % iters) + e % per)
  (field x.val off b, bit x.poison (off / (8 * max 1 ecc)))

/-! ### Rows -/

/-- The stack address of byte i of a bank row. -/
def rowByte (c : Cfg) (ch pc bank row i : Nat) : Nat := columnAddr c ch pc bank row (i / 32) + i % 32

/-- The sum of two sets of counts, each of which stops at 0xFFFF_FFFF (R220). -/
def AtmCounts.add (a b : AtmCounts) : AtmCounts :=
  { nan := satAdd 32 a.nan b.nan, overflow := satAdd 32 a.overflow b.overflow, saturated := satAdd 32 a.saturated b.saturated,
    flushed := satAdd 32 a.flushed b.flushed, nonfiniteIn := satAdd 32 a.nonfiniteIn b.nonfiniteIn,
    corrected := satAdd 32 a.corrected b.corrected, poisonRead := satAdd 32 a.poisonRead b.poisonRead,
    poisonStored := satAdd 32 a.poisonStored b.poisonStored }

/-- The counts of the categories of some elements (R78). -/
def AtmCounts.ofCats (cs : List Cat) : AtmCounts :=
  let n := fun (c : Cat) => (cs.filter (fun x => decide (x = c))).length
  { nan := n .nan, overflow := n .overflow, saturated := n .saturated, flushed := n .flushed }

/-- The number of poisoned ECC words of a latch. -/
def Latch.badWords (x : Latch) (ecc : Nat) : Nat := ((List.range (rowWords ecc)).filter (bit x.poison)).length

/-- The latch that a LOAD fills from the words that carry the poison code (R204, R222). -/
def State.loadRow (s : State) (ch pc bank row : Nat) : Latch :=
  let ecc := s.eccBytes
  { val := leVal ((List.range 1024).map (fun i => s.dramByte (rowByte s.cfg ch pc bank row i)))
    poison := if s.poisonWords.isEmpty then 0
      else (List.range (rowWords ecc)).foldl (fun a j =>
        if s.poisonWords.contains (rowByte s.cfg ch pc bank row (j * ecc)) then a + 2 ^ j else a) 0 }

/-- A LOAD of one Atomizer with what its on-die ECC meets: a word that it cannot correct enters the latch poisoned (R222). -/
def State.loadUnit (s : State) (pc pair bank row ch : Nat) (hits : List EccHit) : Latch × AtmCounts :=
  let mine := hits.filter (fun h => decide (h.pc.toNat = pc) && decide (h.pair.toNat = pair) && decide (h.word < rowWords s.eccBytes))
  let x := s.loadRow ch pc bank row
  let x := { x with poison := (mine.filter (fun h => !h.corrected)).foldl (fun a h => Nat.lor a (2 ^ h.word)) x.poison }
  (x, { corrected := (mine.filter (fun h => h.corrected)).length, poisonRead := x.badWords s.eccBytes })

/-- Write bytes of a row. -/
def writeRowList (c : Cfg) (ch pc bank row : Nat) : List Host.Cell → Nat → List Byte → List Host.Cell
  | m, _, [] => m
  | m, i, v :: vs => writeRowList c ch pc bank row (writeMem m (rowByte c ch pc bank row i) v) (i + 1) vs

/-- A STORE writes complete ECC words, poisoned ones with the poison code (R204, R222). -/
def State.storeRow (s : State) (ch pc bank row : Nat) (x : Latch) : State :=
  let ecc := s.eccBytes
  let words := (List.range (rowWords ecc)).map (fun j => (rowByte s.cfg ch pc bank row (j * ecc), bit x.poison j))
  let s := { s with dram := writeRowList s.cfg ch pc bank row s.dram 0 (leBytes 1024 x.val) }
  let s := if s.poisonWords.isEmpty then s
    else { s with poisonWords := s.poisonWords.filter (fun a => !words.any (fun (w : Nat × Bool) => decide (w.1 = a))) }
  { s with poisonWords := s.poisonWords ++ (words.filter (fun (w : Nat × Bool) => w.2)).map Prod.fst }

/-! ### One command on one Atomizer -/

/-- What a command needs beside the latches: program, step, key, iteration, scalar B operand, and the base of free values. -/
structure AtmCtx where
  prog : AtmProgram
  step : Nat
  key : Nat
  iter : Nat
  scal : Nat
  ecc : Nat
  free : Nat
deriving DecidableEq, Repr

def Atomizer.latch (u : Atomizer) (i : Nat) : Latch := u.x.getD i {}
def Atomizer.setLatch (u : Atomizer) (i : Nat) (x : Latch) : Atomizer := { u with x := u.x.set i x }

/-- The GEI of slot e of the row of an iteration (R201): slots count from FOOT within the channel group. -/
def AtmCtx.gei (k : AtmCtx) (u : Atomizer) (o : AtmOperand) (w e : Nat) : Nat :=
  let p := accessPos { o with layout := 0 } k.iter 0
  let byte := e * w / 8
  let a := cgOf u.pc (u.ch % 4) (byte / 32) (posBank u.pair p) (posRow o p) + byte % 32
  o.gei + u.ch / 4 * o.strideK + (a - o.foot) / max 1 (w / 8)

/-- The 8 random bits of slot e (R207, R234). -/
def AtmCtx.bits (k : AtmCtx) (u : Atomizer) (c : AtmCmd) (w e : Nat) : Nat :=
  match k.prog.operands[c.opnd]? with
  | some o => Sillage.atmBits k.key k.step (k.prog.streamBase + c.sub) (k.gei u o w e)
  | none => 0

/-- The result latch of a command that computes element by element, with the counts of the elements that are not poisoned: the numeric
bits of a poisoned one are not defined (R73, R223). -/
def AtmCtx.mapSlots (k : AtmCtx) (w : Nat) (f : Nat → (Nat × Cat) × Bool) : Latch × AtmCounts :=
  let r := (List.range (8192 / w)).map f
  (mkLatch k.ecc w k.free (r.map (fun x => x.1.1)) (r.map Prod.snd),
    AtmCounts.ofCats ((r.filter (fun x => !x.2)).map (fun x => x.1.2)))

/-- ATM_OP. -/
def AtmCtx.op (k : AtmCtx) (u : Atomizer) (c : AtmCmd) : Latch × AtmCounts :=
  let w := cmdWidth c k.prog.operands
  let a := u.latch c.srcA
  let b := u.latch c.srcB
  let d := u.latch c.srcC
  let binary := decide (c.func ≠ 6) && !c.bscal
  k.mapSlots w (fun e =>
    let y := if c.bscal then k.scal else field (b.slot w e) 0 (elemBits c.fmtB)
    (atmOp c.func (atmFmt c.fmtA) (atmFmt c.fmtB) (atmFmt c.fmtR) c.sat (field (a.slot w e) 0 (elemBits c.fmtA)) y
      (field (d.slot w e) 0 (elemBits c.fmtR)),
     a.slotBad k.ecc w e || (binary && b.slotBad k.ecc w e) || (decide (c.func = 3) && d.slotBad k.ecc w e)))

/-- ATM_MASK GEN: the T2 bits of the iteration; at the first iteration of a mask row the latch is cleared (R207). -/
def AtmCtx.gen (k : AtmCtx) (u : Atomizer) (c : AtmCmd) : Latch :=
  let w := cmdWidth c k.prog.operands
  let per := 256 / w
  let iters := max 1 (w / 2)
  let old := if k.iter % iters = 0 then ({} : Latch) else u.latch c.dst
  (List.range (8192 / w)).foldl (fun x e =>
    let off := 256 * (e / per) + 2 * (per * (k.iter % iters) + e % per)
    let v := if c.param ≤ k.bits u c w e then 1 else 0
    { x with val := x.val - field x.val off 2 * 2 ^ off + v * 2 ^ off }) old

/-- ATM_MAX presents the finite elements to the running maximum; it counts the others, and the poisoned ones that it skips (R60, R73, R223). -/
def AtmCtx.present (k : AtmCtx) (u : Atomizer) (c : AtmCmd) : Atomizer × AtmCounts :=
  let w := cmdWidth c k.prog.operands
  let a := u.latch c.srcA
  let f := atmFmt c.fmtA
  let es := (List.range (8192 / w)).map (fun e => (field (a.slot w e) 0 (elemBits c.fmtA), a.slotBad k.ecc w e))
  let good := (es.filter (fun x => !x.2)).map Prod.fst
  let finite := good.filter (fun x => match decode f x with
    | .fin _ _ _ => true
    | _ => false)
  ({ u with amax := finite.foldl (fun m x => some (max (m.getD 0) (mag32 (widen f binary32 x)))) u.amax },
    { nonfiniteIn := good.length - finite.length, poisonRead := es.length - good.length })

/-- A command other than LOAD, STORE and SHIFT on one Atomizer, and what it counts (R78). -/
def AtmCtx.compute (k : AtmCtx) (u : Atomizer) (c : AtmCmd) : Atomizer × AtmCounts :=
  let w := cmdWidth c k.prog.operands
  let a := u.latch c.srcA
  let src := fun (e : Nat) => field (a.slot w e) 0 (elemBits c.fmtA)
  let into := fun (r : Latch × AtmCounts) => (u.setLatch c.dst r.1, r.2)
  match c.cmd with
  | 3 => into (k.op u c)
  | 4 => into (k.mapSlots w (fun e => (atmAct c.func (atmFmt c.fmtA) c.sat (src e), a.slotBad k.ecc w e)))
  | 5 =>
    if c.func = 1 then into (k.gen u c, {})
    else
      let m := u.latch c.srcB
      into (k.mapSlots w (fun e =>
        let x := maskElem m k.ecc c.fmtB w k.iter e
        (atmApply c.fmtB (atmFmt c.fmtA) (atmFmt c.fmtR) (src e) x.1, a.slotBad k.ecc w e || x.2)))
  | 6 => into (k.mapSlots w (fun e =>
      (encodeStoch (atmFmt c.fmtR) c.sat 8 8 (k.bits u c w e) (decode (atmFmt c.fmtA) (src e)), a.slotBad k.ecc w e)))
  | 7 => k.present u c
  | _ => (u, {})

/-- ATM_SHIFT on every Atomizer of a channel (R206): each latch is sampled before any is written. -/
def shiftUnits (n : Nat) (us : List Atomizer) (c : AtmCmd) : List Atomizer :=
  let m := field c.param 1 4
  let from' := fun (pc q i : Nat) => ((us.find? (fun (u : Atomizer) => decide (u.pc = pc) && decide (u.pair = q))).map (fun u => u.latch i)).getD {}
  us.map (fun (u : Atomizer) => u.setLatch c.dst
    (if c.param % 2 = 0 then
      (if u.pair + m < n then from' u.pc (u.pair + m) c.srcA else from' u.pc (u.pair + m - n) c.srcB)
     else
      (if m ≤ u.pair then from' u.pc (u.pair - m) c.srcA else from' u.pc (u.pair + n - m) c.srcB)))

end Sys2Proof.Machine
end

