-- ==== Sys2Proof/Machine/Broadcast.lean ====
section
/-! DEFINITION. The Atomizer side of the Channel Sequencers (07_atomizers.md): segments (R209 to R215), pacing and GO (R195, R216, R219),
reports (R220), faults (R221, R236), completion records (R224, R225). -/

namespace Sys2Proof.Machine

open Sys2Proof.Bits
open Sys2Proof.Fp
open Sys2Proof.Convert

/-! ### Lookups -/

def State.atmCh (s : State) (ch : Nat) : AtmChannel := getV s.atm ch {}
def State.modAtm (s : State) (ch : Nat) (f : AtmChannel → AtmChannel) : State := { s with atm := modV s.atm ch f }

/-- A program by its id. -/
def progOf (f : Formula) (id : Nat) : Option AtmProgram := f.programs.find? (fun (p : AtmProgram) => decide (p.prog = id))

/-- Change the result of a program of a step. -/
def State.modResult (s : State) (prog n : Nat) (f : AtmResult → AtmResult) : State :=
  let r := (s.atmResult prog n).getD { prog := prog, step := n }
  { s with atmResults := s.atmResults.filter (fun (x : AtmResult) => !(decide (x.prog = prog) && decide (x.step = n))) ++ [f r] }

/-- The program at hand on a channel: the first of the earliest step that the channel has not finished (R209, R212). -/
def State.progAt (s : State) (ch : Nat) : Option (AtmProgram × Nat) :=
  let todo := s.anchoredSteps.flatMap (fun n => (s.form.programs.filter (fun (p : AtmProgram) => bit p.chmask ch &&
    !bit (((s.atmResult p.prog n).map AtmResult.chDone).getD 0) ch)).map (fun p => (p, n)))
  todo.foldl (fun (a : Option (AtmProgram × Nat)) x => match a with
    | some y => if x.2 < y.2 then some x else a
    | none => some x) none

/-! ### The end of a program (R225) -/

/-- An Atomizer completion record (Table 7-13). -/
def atmRecord (r : AtmResult) (time : Nat) : List Byte :=
  let k := r.counts
  let c := r.scalarCount
  let add := satAdd 32
  leBytes 64 (r.step % 2 ^ 48 + r.prog % 2 ^ 16 * 2 ^ 48 + ofBool r.late * 2 ^ 64 + ofBool r.poison * 2 ^ 65 + ofBool r.skipped * 2 ^ 66 +
    ofBool r.refused * 2 ^ 67 + ofBool r.amax.isSome * 2 ^ 68 + k.nan * 2 ^ 96 + add k.overflow c.overflow * 2 ^ 128 +
    add k.saturated c.saturated * 2 ^ 160 + add k.flushed c.flushed * 2 ^ 192 + k.nonfiniteIn * 2 ^ 224 + k.corrected * 2 ^ 256 +
    k.poisonRead * 2 ^ 288 + k.poisonStored * 2 ^ 320 + (r.amax.getD 0) % 2 ^ 32 * 2 ^ 352 + time % 2 ^ 64 * 2 ^ 448)

/-- The counts that a program adds to NUMERIC (R79). -/
def AtmResult.numeric (r : AtmResult) : Counts :=
  { nan := r.counts.nan, overflow := satAdd 32 r.counts.overflow r.scalarCount.overflow,
    saturated := satAdd 32 r.counts.saturated r.scalarCount.saturated, flushed := satAdd 32 r.counts.flushed r.scalarCount.flushed,
    nonfiniteIn := r.counts.nonfiniteIn }

/-- A program has completed on its last channel: record, counters, times, and the rounds that waited for it. -/
def State.programEnd (s : State) (prog n : Nat) (before : Bool) : State :=
  match s.atmResult prog n with
  | none => s
  | some r =>
    let s := s.modResult prog n (fun r => { r with doneAt := s.time })
    let s := s.blotCompletion 1 n (atmRecord r s.time)
    let s := s.countAll r.numeric
    let s := if r.skipped || r.refused then s else s.mark n (fun t => { t with p2 := s.time })
    let s := if !before && s.stepDone n && !(s.stepSt n).skipped then s.scalesEnd else s
    s.cutTry n

/-- The channels of a mask have finished a program. -/
def State.channelsDone (s : State) (p : AtmProgram) (n mask : Nat) : State :=
  let before := s.stepDone n
  let was := s.progDone p n
  let s := s.modResult p.prog n (fun r => { r with chDone := Nat.lor r.chDone mask })
  let s := { s with atm := mapIdxV (fun (a : AtmChannel) i => if bit mask i then { a with segIdx := 0 } else a) s.atm }
  if !was && s.progDone p n then s.programEnd p.prog n before else s

/-- The shards that a program writes through an operand. -/
def writtenOperands (p : AtmProgram) : List Nat :=
  ((p.body.filter (fun (w : AtmCmd) => decide (w.cmd = 2))).map (fun w => w.opnd)).dedup

/-- A program is refused or abandoned: every shard that it writes is poisoned for the step (R213, R221, R236). -/
def State.refuseProgram (s : State) (p : AtmProgram) (n code cls0 : Nat) : State :=
  let s := s.modResult p.prog n (fun r => { r with refused := true })
  eachIn (writtenOperands p) (fun s j => match p.operands[j]? with
    | some o =>
      if o.shard = 0xFFFFFFFF || s.shardBad o.shard then s
      else if cls0 = 0 then s.poisonShard o.shard { code := code, cls := .sh, unit := 0x000A, shard := o.shard, arg0 := 0x100 + p.prog }
      else s.poisonShard o.shard { code := code, cls := .sh, unit := 0x000A, shard := o.shard, arg0 := p.prog }
    | none => s) s

/-! ### Starting a segment (R211 to R215) -/

/-- Iterations of segment seg. -/
def segIters (p : AtmProgram) (seg : Nat) : Nat := min p.segiter (p.niter - seg * p.segiter)

/-- Segments of a program. -/
def segCount (p : AtmProgram) : Nat := ceilDiv p.niter p.segiter

/-- K of R215: twice the cycles of each command that runs per half-set, and 64 for each ATM_SHIFT, at iteration i. -/
def iterCycles (p : AtmProgram) (i : Nat) : Nat :=
  p.body.foldl (fun a (w : AtmCmd) => a + (if w.cmd = 8 then 64 else 2 * atmCycles p w i)) 0

/-- LOADs and STOREs that directly follow an ATM_SHIFT. -/
def afterShift : List AtmCmd → Nat
  | a :: b :: rest => (if a.cmd = 8 ∧ (b.cmd = 1 ∨ b.cmd = 2) then 1 else 0) + afterShift (b :: rest)
  | _ => 0

/-- D_worst of a segment of j iterations whose body costs k cycles an iteration (R215), in nanoseconds. -/
def worstDuration (d : Discovery) (period : Nat) (body : List AtmCmd) (j jk : Nat) : Nat :=
  let d0 := d.tHact + 20 * ceilDiv jk 3 + j * afterShift body * (d.tHpre + d.tHact)
  let shifts := (body.filter (fun (w : AtmCmd) => decide (w.cmd = 8))).length
  let refs := 2 * (ceilDiv d0 (period * 20) + j * shifts + 1)
  d0 + refs * (d.tRfcPb + d.tHpre + d.tHact) + d.tHwr

/-- D_worst of a segment of a program: the body's cost with every LOAD and STORE taking effect. -/
def segWorst (s : State) (p : AtmProgram) (seg : Nat) : Nat :=
  let k := p.body.foldl (fun a (w : AtmCmd) => a + (if w.cmd = 1 ∨ w.cmd = 2 ∨ w.cmd = 8 then 64 else 2 * atmCycles p w 0)) 0
  let j := segIters p seg
  worstDuration s.disc s.form.cadence.period p.body j (j * k)

/-- The tick from which the channel's timeline, after the present segment, leaves PROC again in this step. -/
def State.nextTransit (s : State) (ch : Nat) : Option Nat :=
  (((segmentsOf s.form ch).drop (s.chan ch).segIdx).find? (fun (x : Segment) => !x.proc)).map (fun x => x.start)

/-- Whether a stretch from now for ns nanoseconds lies inside one ATOMIZER reservation and meets no TRANSIT (R211). -/
def State.stretchOk (s : State) (ch ns : Nat) : Bool :=
  let now := s.time - s.run.anchorTime
  (match s.nextTransit ch with
   | some t => decide (now + ns ≤ 20 * t)
   | none => true) &&
  s.form.reservations.any (fun (r : Reservation) => decide (r.kind = 3) && bit r.chmask ch && decide (20 * r.start ≤ now) &&
    (decide (r.length = 0) || decide (now + ns ≤ 20 * (r.start + r.length))))

/-- Whether a pass of L0's list in step m has ended. -/
def State.passPast (s : State) (idx m : Nat) : Bool :=
  let p := s.stills.pos.getD 0 (0, 0)
  decide (m < p.2) || (decide (m = p.2) && decide (idx < p.1))

/-- The predecessors of a program in step n (R211, R212): every pass of the step up to AFTER's publishing pass, and every pass of an
earlier step that clashes with it. -/
def State.predecessorsDone (s : State) (p : AtmProgram) (n : Nat) : Bool :=
  (match afterIdx s.form p with
   | some a => s.passPast a n || (s.stepSt n).skipped
   | none => true) &&
  (s.form.slotLists.getD 0 []).zipIdx.all (fun (x : SlotEntry × Nat) => match shardEntry s.form x.1.shard with
    | some e => s.passPast x.2 (n - 1) || !s.anchoredSteps.contains (n - 1) || !passClash s.cfg s.form e (passProg s.form e x.1.phase) p
    | none => true)

/-- Whether a Still has an access of the channel outstanding: a prefetch in progress, or a pass that has not committed its stripe. -/
def State.stillBusy (s : State) (ch : Nat) : Bool :=
  s.stills.passes.any (fun (q : Pass) => match q.stripe (ch / 4), shardEntry s.form q.shard with
    | some x, some e => decide (x.pre = .reading) || (q.started && decide (x.blocks < stripeBlocks s.cfg e.n x.still))
    | _, _ => false)

/-- Whether the step's conditions for a program hold: cut hold, EVAL, the decision, the record, the predecessors. -/
def State.progAllowed (s : State) (p : AtmProgram) (n : Nat) : Bool :=
  !s.cutHeld n && s.evalIdle && (p.runOnSkip || !s.form.hdr.nfGuard || (s.stepSt n).decided) &&
    (s.recordFor n).isSome && s.predecessorsDone p n && (decide (n < s.run.lastStep) || decide (s.tickTime p.start ≤ s.time))

/-- The counts of the conversions of a program's scalar operands (R205): saturated, overflowed or flushed elements. -/
def State.scalarCounts (s : State) (p : AtmProgram) (n : Nat) : Counts :=
  (p.body.filter (fun (w : AtmCmd) => w.bscal)).foldl (fun (a : Counts) w =>
    let v := ((s.recordFor n).map (fun r => r.regs.getD w.scal 0)).getD 0
    let c := (encodeVal (atmFmt w.fmtB) w.sat (decode binary32 v)).2
    match c with
    | .overflow => { a with overflow := a.overflow + 1 }
    | .saturated => { a with saturated := a.saturated + 1 }
    | .flushed => { a with flushed := a.flushed + 1 }
    | _ => a) {}

/-- The Atomizers of a channel with latches that hold undefined values (R194). -/
def freshUnits (ch pairs free : Nat) : List Atomizer :=
  let latches := fun (i : Nat) => (List.range 4).map (fun j => ({ val := Config.freeNat (free + 4 * i + j) % 2 ^ 8192 } : Latch))
  (List.range (2 * pairs)).map (fun i => { ch := ch, pc := i / pairs, pair := i % pairs, x := latches i })

/-- The key goes to the macro before a program that uses Sillage, and ATM_KEY_OK rises (R236). -/
def State.loadAtmKey (s : State) (ch : Nat) (p : AtmProgram) : State :=
  if p.sillage && !((s.atmCh ch).keyOk && decide ((s.atmCh ch).key = s.run.key)) then
    s.modAtm ch (fun a => { a with keyOk := true, key := s.run.key })
  else s

/-- Start the next segment of a program on a channel. A program has no admitted latest start that the manual defines, so LATE is a free
value at its first segment, and with it the report of R212. -/
def State.startSegment (s : State) (ch : Nat) (p : AtmProgram) (n : Nat) : State :=
  let seg := (s.atmCh ch).segIdx
  let first := (s.atmResult p.prog n).isNone
  let s := s.loadAtmKey ch p
  let s := if first then
      let late := Config.freeBit s.free
      let s := s.modResult p.prog n (fun r => { r with late := late, scalarCount := s.scalarCounts p n })
      let s := if late then
          ((s.post 0x0101 0 7 (Config.freeNat (s.free + 1)) n 4).count 8 32 4 1).mark n (fun t => { t with env := true })
        else s
      { s with free := s.free + 2 }
    else s
  let lead := match p.body.head? with
    | some w => if w.cmd = 1 ∨ w.cmd = 2 then s.disc.tHact else 0
    | none => 0
  let s := s.modAtm ch (fun a =>
    { a with
      seg := some { prog := p.prog, step := n, seg := seg, nominal := s.time + lead }
      units := freshUnits ch s.disc.pairs s.free })
  { s with free := s.free + 8 * s.disc.pairs }

/-- Whether some channel of a program has a fenced Atomizer, or may run no program (R192, R221). -/
def State.atmFenced (s : State) (p : AtmProgram) : Bool :=
  (List.range (channels s.cfg)).any (fun c => bit p.chmask c && (!(s.atmCh c).fenced.isEmpty || (s.atmCh c).blocked))

/-- Whether the present moment is a tick of the step's timeline (R8, R161). -/
def State.onTick (s : State) : Bool := decide ((s.time - s.run.anchorTime) % 20 = 0)

/-- ATM_SEGMENT_START (R211, R213). The shards that a program refused for a fenced Atomizer writes are recorded with code 0x0402: the
manual names no code for them (log entry 116). -/
def execAtmSegmentStart (ch : Fin 32) (s : State) : Res :=
  onChan s ch (fun s =>
    match s.progAt ch with
    | none => s
    | some (p, n) =>
      when (s.formula.isSome && (s.atmCh ch).seg.isNone && s.progAllowed p n) (fun s =>
        let all := Nat.land p.chmask (2 ^ channels s.cfg - 1)
        let running := (List.range (channels s.cfg)).foldl (fun a c => match (s.atmCh c).seg with
          | some g => if g.prog = p.prog ∧ g.step = n then a + 2 ^ c else a
          | none => a) 0
        if (s.stepSt n).skipped && !p.runOnSkip then
          (s.modResult p.prog n (fun r => { r with skipped := true })).channelsDone p n all
        else if p.sillage && !s.keyOk then
          (s.refuseProgram p n 0x0303 0).channelsDone p n (Nat.xor all running)
        else if s.atmFenced p || ((s.atmResult p.prog n).map AtmResult.refused).getD false then
          (s.refuseProgram p n 0x0402 1).channelsDone p n (Nat.xor all running)
        else
          when (s.onTick && decide (s.level = 3) && s.disc.aStack && s.disc.isMatch && bit s.disc.atmMask ch && s.chanReady ch && !s.stillBusy ch &&
            s.stretchOk ch (segWorst s p (s.atmCh ch).segIdx)) (fun s => s.startSegment ch p n) s) s)

/-! ### Pacing (R216) -/

/-- BUCKET_REFILL: three tokens at the end of every eighth Atomizer cycle (20 ns) since admission. -/
def execBucketRefill (ch : Fin 32) (s : State) : Res :=
  onChan s ch (fun s =>
    when (s.formula.isSome && decide (20 * ((s.atmCh ch).refills + 1) ≤ s.time - s.admitTime)) (fun s =>
      s.modAtm ch (fun a => { a with bucket := min 500 (a.bucket + 3), refills := a.refills + 1 })) s)

/-! ### GO (R195, R219) -/

/-- Commands of a segment. -/
def segLength (p : AtmProgram) (seg : Nat) : Nat := segIters p seg * p.body.length

/-- The command at a place of a segment, with its iteration. -/
def cmdAt (p : AtmProgram) (seg i : Nat) : Option (AtmCmd × Nat) :=
  (p.body[i % max 1 p.body.length]?).map (fun w => (w, seg * p.segiter + i / max 1 p.body.length))

/-- Whether a command goes to both half-sets at once: ATM_SHIFT and ATM_SYNC (R195). -/
def bothHalves (w : AtmCmd) : Bool := decide (w.cmd = 8) || decide (w.cmd = 9)

/-- Add to what a half-set has counted in the running segment (R220). -/
def State.addTally (s : State) (ch half : Nat) (k : AtmCounts) : State :=
  s.modAtm ch (fun a => { a with seg := a.seg.map (fun g => { g with tally := modAt g.tally half (fun t => t.add k) }) })

/-- Let each Atomizer of a half-set do something that it counts; f takes the Atomizer and its place in the channel. -/
def State.eachUnit (s : State) (ch half : Nat) (f : Atomizer → Nat → Atomizer × AtmCounts) : State :=
  let rs := (s.atmCh ch).units.zipIdx.map (fun (u : Atomizer × Nat) => if u.1.pair % 2 = half then f u.1 u.2 else (u.1, {}))
  (s.modAtm ch (fun a => { a with units := rs.map Prod.fst })).addTally ch half (rs.foldl (fun t r => t.add r.2) {})

/-- Run a command on the Atomizers of a half-set: LOAD and STORE reach rows, the others latches. -/
def State.runHalf (s : State) (ch half : Nat) (k : AtmCtx) (c : AtmCmd) (hits : List EccHit) : State :=
  match c.cmd, k.prog.operands[c.opnd]? with
  | 1, some o =>
    if accessEffect o false k.iter k.prog.niter then
      let p := accessPos o k.iter (c.param % 8)
      s.eachUnit ch half (fun u _ =>
        let r := s.loadUnit u.pc u.pair (posBank u.pair p) (posRow o p) u.ch hits
        (u.setLatch c.dst r.1, r.2))
    else s
  | 2, some o =>
    if accessEffect o true k.iter k.prog.niter then
      let p := accessPos o k.iter (c.param % 8)
      let us := (s.atmCh ch).units.filter (fun u => decide (u.pair % 2 = half))
      let s := eachIn us (fun s u => s.storeRow u.ch u.pc (posBank u.pair p) (posRow o p) (u.latch c.srcA)) s
      let bad := us.foldl (fun a u => a + (u.latch c.srcA).badWords k.ecc) 0
      let s := s.addTally ch half { poisonStored := bad }
      if us.any (fun u => decide ((u.latch c.srcA).poison ≠ 0)) then
        s.modAtm ch (fun a => { a with seg := a.seg.map (fun g => { g with
          told := if g.told.contains c.opnd then g.told else g.told ++ [c.opnd] }) })
      else s
    else s
  | _, _ => s.eachUnit ch half (fun u i => AtmCtx.compute { k with free := k.free + 64 * i } u c)

/-- The scalar B operand of a command (R205). -/
def State.scalarOperand (s : State) (n : Nat) (c : AtmCmd) : Nat :=
  (encodeVal (atmFmt c.fmtB) c.sat (decode binary32 (((s.recordFor n).map (fun r => r.regs.getD c.scal 0)).getD 0))).1

/-- Execute a started command. -/
def State.runCommand (s : State) (ch half : Nat) (p : AtmProgram) (n iter : Nat) (c : AtmCmd) (hits : List EccHit) : State :=
  if c.cmd = 8 then s.modAtm ch (fun a => { a with units := shiftUnits s.disc.pairs a.units c })
  else if c.cmd = 9 then s
  else
    let k : AtmCtx := { prog := p, step := n, key := (s.atmCh ch).key, iter := iter, scal := s.scalarOperand n c, ecc := s.eccBytes, free := s.free }
    let s := s.runHalf ch half k c hits
    { s with free := s.free + 64 * 2 * s.disc.pairs }

/-- The time that a started command takes on the nominal schedule: its cycles of 2.5 ns, and after an ATM_SHIFT the rows that the next
LOAD or STORE opens again (R195, R215). -/
def nominalTime (d : Discovery) (p : AtmProgram) (i cycles : Nat) (c : AtmCmd) : Nat :=
  let next := p.body[(i + 1) % max 1 p.body.length]?
  cycles * 5 / 2 + (match next with
    | some w => if c.cmd = 8 ∧ (w.cmd = 1 ∨ w.cmd = 2) then d.tHpre + d.tHact else 0
    | none => 0)

/-! ### The broadcast bus (R218) -/

/-- A command word as the bus carries it (Table 7-7). -/
def atmWord (c : AtmCmd) : Nat :=
  c.cmd % 16 + c.dst % 4 * 2 ^ 4 + c.srcA % 4 * 2 ^ 6 + c.srcB % 4 * 2 ^ 8 + c.srcC % 4 * 2 ^ 10 + ofBool c.bscal * 2 ^ 12 +
    ofBool c.sat * 2 ^ 13 + c.func % 16 * 2 ^ 16 + c.sub % 16 * 2 ^ 20 + c.fmtR % 256 * 2 ^ 24 + c.fmtA % 256 * 2 ^ 32 +
    c.fmtB % 256 * 2 ^ 40 + c.scal % 32 * 2 ^ 48 + c.opnd % 8 * 2 ^ 53 + c.param % 256 * 2 ^ 56

/-- A beat with its parity: ATM_PAR makes the parity over every output even. -/
def AtmBeat.withParity (b : AtmBeat) : AtmBeat :=
  let bits := b.kind + b.hset * 2 ^ 2 + b.bank * 2 ^ 4 + b.row * 2 ^ 5 + b.word * 2 ^ 21
  { b with par := ((List.range 85).filter (bit bits)).length % 2 }

/-- The beats that queue a command on the half-sets that run it and start it there: QUEUE, the second QUEUE beat of a scalar or a drawing
command, and GO (Table 7-12). The table gives the GEI and stream id of a drawing command's second beat no places in ATM_WORD, so that
word is free (log entry 33). -/
def State.goBeats (s : State) (half : Nat) (p : AtmProgram) (n iter : Nat) (c : AtmCmd) : List AtmBeat :=
  let hset := if bothHalves c then 3 else half + 1
  let pos := match p.operands[c.opnd]? with
    | some o => if c.cmd = 1 ∨ c.cmd = 2 then (accessPos o iter (c.param % 8) % 2, posRow o (accessPos o iter (c.param % 8)) % 2 ^ 16) else (0, 0)
    | none => (0, 0)
  let queue : AtmBeat := { kind := 1, hset := hset, bank := pos.1, row := pos.2, word := atmWord c }
  let second := if c.bscal then [{ queue with word := s.scalarOperand n c }]
    else if cmdDraws c then [{ queue with word := Config.freeNat s.free % 2 ^ 64 }] else []
  ([queue] ++ second ++ [({ kind := 2, hset := hset } : AtmBeat)]).map AtmBeat.withParity

/-- Queue the command at place i and send GO for it. -/
def State.sendGo (s : State) (ch half : Nat) (p : AtmProgram) (g : AtmSegment) (i : Nat) (c : AtmCmd) (iter : Nat)
    (hits : List EccHit) : State :=
  let cyc := atmCycles p c iter
  let both := bothHalves c
  let beats := s.goBeats half p g.step iter c
  let s := s.modAtm ch (fun a => { a with
    bucket := a.bucket - cyc,
    bus := beats,
    seg := a.seg.map (fun g => { g with
      goes := g.goes.zipIdx.map (fun (x : Nat × Nat) => if both || decide (x.2 = half) then x.1 + 1 else x.1),
      nominal := s.time + nominalTime s.disc p i cyc c }) })
  s.runCommand ch half p g.step iter c hits

/-- Whether a half-set that a command goes to has fewer than 8 commands outstanding (R219). -/
def roomToQueue (g : AtmSegment) (half : Nat) (c : AtmCmd) : Bool :=
  (if bothHalves c then [0, 1] else [half]).all (fun h => decide (g.goes.getD h 0 < g.dones.getD h 0 + 8))

/-- ATM_GO, with the words that the Atomizers' on-die ECC meets when the command is a LOAD. -/
def execAtmGo (ch : Fin 32) (half : HalfGo) (s : State) : Res :=
  onChan s ch (fun s =>
    let hits := half.hits
    let half := half.half
    let a := s.atmCh ch
    match a.seg with
    | none => s
    | some g =>
      match progOf s.form g.prog with
      | none => s
      | some p =>
        let mine := g.goes.getD half 0
        let even := g.goes.getD 0 0
        let odd := g.goes.getD 1 0
        match cmdAt p g.seg mine with
        | none => s
        | some (c, iter) =>
          let last := decide (mine + 1 = segLength p g.seg)
          let turn := if bothHalves c then decide (even = odd) && ((c.cmd != 8 && !last) || g.goes == g.dones)
            else if half = 0 then decide (even = odd) else decide (odd + 1 = even)
          when (decide (mine < segLength p g.seg) && turn && decide (g.nominal ≤ s.time) && decide (atmCycles p c iter ≤ a.bucket) &&
              roomToQueue g half c && s.chanReady ch && decide (s.level = 3))
            (fun s => s.sendGo ch half p g mine c iter hits) s)

/-! ### Completion and reports (R219, R220, R224) -/

/-- Whether a segment has ended: every command done and every report delivered on both half-sets. -/
def segEnded (p : AtmProgram) (g : AtmSegment) : Bool :=
  g.dones.all (fun d => decide (d = segLength p g.seg)) && g.rpts.all (fun m => decide (m = 0x3FE))

/-- Poisoned words stored in a segment poison the operands' shards, or are logged where the operand names none (R224). -/
def State.storedPoison (s : State) (ch : Nat) (p : AtmProgram) (g : AtmSegment) : State :=
  eachIn g.told (fun s j => match p.operands[j]? with
    | some o =>
      if o.shard = 0xFFFFFFFF then
        s.error { code := 0x0403, cls := .j, unit := 0x0002, index := ch, arg0 := p.prog + j * 2 ^ 16 }
      else if s.shardBad o.shard then s
      else s.poisonShard o.shard { code := 0x0402, cls := .sh, unit := 0x000A, shard := o.shard, arg0 := p.prog }
    | none => s) s

/-- The segment ends; after the last one the channel has finished the program. -/
def State.segmentCheck (s : State) (ch : Nat) : State :=
  match (s.atmCh ch).seg with
  | none => s
  | some g =>
    match progOf s.form g.prog with
    | none => s
    | some p =>
      if segEnded p g then
        let s := s.storedPoison ch p g
        let s := s.modAtm ch (fun a => { a with seg := none, segIdx := g.seg + 1 })
        if segCount p ≤ g.seg + 1 then s.channelsDone p g.step (2 ^ ch) else s
      else s

/-- Whether a half-set may pulse ATM_DONE: a command is outstanding, and before the last one its whole report has gone out (R219, R220). -/
def State.mayComplete (s : State) (g : AtmSegment) (half : Nat) : Bool :=
  decide (g.dones.getD half 0 < g.goes.getD half 0) && (match progOf s.form g.prog with
    | some p => decide (g.dones.getD half 0 + 1 ≠ segLength p g.seg) || decide (g.rpts.getD half 0 = 0x3FE)
    | none => true)

/-- ATM_DONE: a half-set has completed its oldest outstanding command. -/
def execAtmDone (ch : Fin 32) (half : Fin 2) (s : State) : Res :=
  onChan s ch (fun s =>
    match (s.atmCh ch).seg with
    | none => s
    | some g => when (s.mayComplete g half) (fun s =>
        (s.modAtm ch (fun a => { a with seg := a.seg.map (fun g => { g with dones := modAt g.dones half (fun d => d + 1) }) })).segmentCheck ch) s)

/-- A count of a report beat joins the program's record and the ATOMIZER counters (R220, Table 14-5). -/
def State.takeCount (s : State) (ch prog n field v : Nat) : State :=
  let up := fun (s : State) (f : AtmCounts → AtmCounts) => s.modResult prog n (fun r => { r with counts := f r.counts })
  match field with
  | 1 => up s (fun k => { k with nan := satAdd 32 k.nan v })
  | 2 => up s (fun k => { k with overflow := satAdd 32 k.overflow v })
  | 3 => up s (fun k => { k with saturated := satAdd 32 k.saturated v })
  | 4 => up s (fun k => { k with flushed := satAdd 32 k.flushed v })
  | 5 => up s (fun k => { k with nonfiniteIn := satAdd 32 k.nonfiniteIn v })
  | 6 => (up s (fun k => { k with corrected := satAdd 32 k.corrected v })).count 5 ch 1 v
  | 7 =>
    let s := (up s (fun k => { k with poisonRead := satAdd 32 k.poisonRead v })).count 5 ch 2 v
    s.modResult prog n (fun r => { r with poison := r.poison || decide (v ≠ 0) })
  | 8 =>
    let s := (up s (fun k => { k with poisonStored := satAdd 32 k.poisonStored v })).count 5 ch 3 v
    s.modResult prog n (fun r => { r with poison := r.poison || decide (v ≠ 0) })
  | _ => s

/-- The AMAX of a report joins the record and, in a step that is not skipped, the scale groups that the body's ATM_MAX words name: a skipped
step adds nothing to a group's history (R76, R207, R220). -/
def State.takeAtmMax (s : State) (p : AtmProgram) (n v : Nat) : State :=
  let s := s.modResult p.prog n (fun r => { r with amax := some (max (r.amax.getD 0) v) })
  if (s.stepSt n).skipped then s
  else eachIn ((p.body.filter (fun (w : AtmCmd) => decide (w.cmd = 7) && decide (w.param ≠ 0))).map (fun w => w.param)).dedup (fun s i =>
    { s with scales := modAt s.scales i (fun g => { g with cur := max g.cur (wide v) }) }) s

/-- What a half-set's report gives in a FIELD: its count, or the maximum over its Atomizers; none: VALID is 0 (R207, R220). -/
def State.reportValue (s : State) (ch half : Nat) (g : AtmSegment) (f : Nat) : Option Nat :=
  let k := g.tally.getD half {}
  match f with
  | 1 => some k.nan
  | 2 => some k.overflow
  | 3 => some k.saturated
  | 4 => some k.flushed
  | 5 => some k.nonfiniteIn
  | 6 => some k.corrected
  | 7 => some k.poisonRead
  | 8 => some k.poisonStored
  | _ => ((s.atmCh ch).units.filter (fun u => decide (u.pair % 2 = half))).foldl (fun a u => match a, u.amax with
      | some x, some y => some (max x y)
      | none, y => y
      | x, none => x) none

/-- Whether a beat is the next one of a half-set's report: the ATM_SYNC that ends the segment has gone out and every earlier command is
complete, the fields before it have been sent, and it carries what the half-set has counted (R220, Table 7-14). -/
def State.reportNext (s : State) (ch half : Nat) (p : AtmProgram) (g : AtmSegment) (beat : Nat) : Bool :=
  let f := field beat 60 4
  decide (1 ≤ f) && decide (f ≤ 9) && decide (g.goes.getD half 0 = segLength p g.seg) &&
    decide (g.dones.getD half 0 + 1 = segLength p g.seg) && decide (g.rpts.getD half 0 + 2 = 2 ^ f) &&
    (match s.reportValue ch half g f with
     | some v => bit beat 32 && decide (field beat 0 32 = v)
     | none => !bit beat 32)

/-- ATM_RPT: a report beat (Table 7-14). The macro sends the exact counts of its Atomizers, so any other beat is none of its report. A
STATUS beat belongs to ATM_ERR; reserved fields carry nothing. -/
def execAtmRpt (ch : Fin 32) (beat : Word64) (s : State) : Res :=
  onChan s ch (fun s =>
    let b := beat.toNat
    let f := field b 60 4
    let h := field b 40 2 - 1
    match (s.atmCh ch).seg with
    | none => s
    | some g =>
      match progOf s.form g.prog with
      | none => s
      | some p =>
        when ((decide (field b 40 2 = 1) || decide (field b 40 2 = 2)) && s.reportNext ch h p g b) (fun s =>
          let s := if f = 9 then (if bit b 32 then s.takeAtmMax p g.step (field b 0 32) else s)
            else s.takeCount ch g.prog g.step f (field b 0 32)
          s.modAtm ch (fun a => { a with seg := a.seg.map (fun g => { g with rpts := modAt g.rpts h (fun m => m + 2 ^ f) }) })) s)

/-! ### Faults (R221, R236) -/

/-- Abandon the segment of a channel: rows stored keep their values, the program is refused on the channel. -/
def State.abandonSegment (s : State) (ch code cls0 : Nat) : State :=
  match (s.atmCh ch).seg with
  | none => s
  | some g =>
    let s := s.modAtm ch (fun a => { a with seg := none })
    match progOf s.form g.prog with
    | some p => (s.refuseProgram p g.step code cls0).channelsDone p g.step (2 ^ ch)
    | none => s

/-- ATM_ERR: the Atomizer that the STATUS beat names is fenced (R221). -/
def execAtmErr (ch : Fin 32) (status : Word32) (s : State) : Res :=
  onChan s ch (fun s =>
    let pair := field status.toNat 0 5
    let pc := field status.toNat 5 1
    let e : ErrSpec := { code := 0x0401, cls := .f, unit := 0x0003, index := pair + 32 * pc + 64 * ch.toNat, arg0 := status.toNat }
    if (s.atmCh ch).fenced.contains (pc, pair) then s.error e
    else
      let s := s.error e
      let s := s.modAtm ch (fun a => { a with fenced := a.fenced ++ [(pc, pair)], blocked := true })
      s.abandonSegment ch 0x0402 1)

/-- ATM_KEY_OK_FALL: the macro has lost its key; a running segment is abandoned, no Atomizer is fenced (R236). -/
def execAtmKeyOkFall (ch : Fin 32) (s : State) : Res :=
  onChan s ch (fun s =>
    let s := s.modAtm ch (fun a => { a with keyOk := false })
    s.abandonSegment ch 0x0303 0)

end Sys2Proof.Machine
end

