-- ==== Sys2Proof/Machine/FormulaImage.lean ====
section
/-! DEFINITION. The Formula image (06_formula_and_timing_contract.md, R155 to R157): its directory, the reading of header and sections
into a Formula, and the checks of the image and of every field (R7, R173 to R178). -/

namespace Sys2Proof.Machine

open Sys2Proof.Bits
open Sys2Proof.Hash
open Sys2Proof.Convert

/-! ### Bytes of an image -/

/-- n bytes of an image at an offset, as one little-endian number (R9). -/
def imgNat (img : List Byte) (off n : Nat) : Nat := leVal (slice img off n)

/-- The entries of a section of fixed-size entries: offset and value of each. -/
def imgEntries (img : List Byte) (off size count : Nat) : List (Nat × Nat) :=
  (List.range count).map (fun i => (off + size * i, imgNat img (off + size * i) size))

/-! ### Directory (R157) -/

/-- A directory entry. -/
structure Section where
  type : Nat
  count : Nat
  off : Nat
  len : Nat
  rsv : Nat
deriving DecidableEq, Repr

/-- The directory. -/
def directory (img : List Byte) : List Section :=
  (imgEntries img 256 16 (imgNat img 16 2)).map (fun p =>
    ⟨field p.2 0 8, field p.2 32 32, field p.2 64 32, field p.2 96 32, field p.2 8 24⟩)

/-- The section of a type. -/
def findSection (ds : List Section) (t : Nat) : Option Section := ds.find? (fun d => decide (d.type = t))

/-- Entry bytes of the sections of fixed-size entries (Table 6-3); 0 for the others. -/
def entrySize (t : Nat) : Nat :=
  match t with
  | 0x01 => 16 | 0x02 => 16 | 0x03 => 8 | 0x04 => 64 | 0x05 => 64 | 0x06 => 32 | 0x07 => 8 | 0x08 => 16 | 0x09 => 16
  | 0x0B => 16 | 0x0E => 4
  | _ => 0

/-- The entries of a section, none when it is missing. -/
def sectionEntries (img : List Byte) (ds : List Section) (t : Nat) : List (Nat × Nat) :=
  match findSection ds t with
  | some d => imgEntries img d.off (entrySize t) d.count
  | none => []

/-! ### Reading the header and the fixed-size entries -/

/-- The header (Table 6-1). -/
def headerOf (h : Nat) : FHeader :=
  { target := field h 48 8
    nfGuard := bit h 64
    spill := bit h 65
    atomizer := bit h 66
    nearFlacon := bit h 67
    spacing := 2 ^ field h 68 2
    blotCompl := bit h 70
    blotErr := bit h 71
    imageLen := field h 96 32
    aptBase := field h 160 40
    aptSize := field h 224 32
    blotBase := field h 256 40
    blotMib := field h 320 32
    stageBase := field h 352 40
    stageMib := field h 416 32
    nearBase := field h 448 40
    nearMib := field h 512 32
    flaconInterval := field h 544 32
    spillRate := field h 576 32
    spillLat := field h 608 32
    spillEa := field h 640 20
    epoch := field h 672 32
    members := field h 704 32 }

def segmentOf (x : Nat) : Segment := ⟨field x 0 32, field x 32 16, field x 48 16, bit x 64⟩
def cadenceOf (x : Nat) : Cadence := ⟨field x 0 16, field x 16 16, field x 32 8⟩
def slotEntryOf (x : Nat) : SlotEntry := ⟨field x 0 32, field x 32 16, field x 48 2, bit x 50⟩
def windowOf (x : Nat) : WinEntry :=
  ⟨field x 0 2, bit x 2, field x 8 16, field x 32 40, field x 96 32, field x 128 32, field x 160 16⟩
def planEntryOf (x : Nat) : PlanEntry := ⟨field x 0 32, field x 32 16, field x 48 16⟩
def normEntryOf (x : Nat) : NormEntry := ⟨field x 0 16, bit x 16, field x 32 32⟩
def envEntryOf (x : Nat) : EnvEntry := ⟨field x 0 32, field x 32 32, field x 64 16, field x 80 16⟩
def reservationOf (x : Nat) : Reservation := ⟨field x 0 4, field x 32 32, field x 64 16, field x 80 16, field x 96 6⟩
def scaleEntryOf (x : Nat) : ScaleEntry := ⟨field x 0 5, signed 8 (field x 8 8), signed 8 (field x 16 8), bit x 24⟩

/-- Shard table entry (Table 6-8); FANIN holds the fan-in minus one. -/
def shardEntryOf (x : Nat) : ShardEntry :=
  { gei := field x 0 64
    n := field x 64 32
    owner := field x 96 20
    accord := field x 120 8
    clip := bit x 128
    wx := bit x 129
    wtrack := bit x 130
    pfmtBf16s := bit x 131
    spill := bit x 132
    fanin := field x 136 4 + 1
    wexp := signed 8 (field x 144 8)
    envGroup := field x 160 16
    normGroup := field x 176 16
    descFirst := field x 192 32
    descCount := field x 224 3
    readyOff := field x 256 32
    pfx := field x 288 20
    pfxLen := field x 308 5 }

/-- Stream descriptor (Table 4-4). -/
def descriptorOf (x : Nat) : Desc :=
  { stream := field x 0 3
    fmt := field x 8 8
    sat := bit x 16
    rd := bit x 17
    wr := bit x 18
    dbuf := bit x 19
    scaleGroup := field x 24 8
    ebase0 := field x 64 40
    sbase0 := field x 128 40
    ebase1 := field x 192 40
    sbase1 := field x 256 40 }

/-- Scalar constants record (Table 6-11). -/
def constsOf (x : Nat) : Consts :=
  { b1 := field x 0 32
    b2 := field x 32 32
    eps := field x 64 32
    wd := field x 96 32
    mu := field x 128 32
    be := field x 160 32
    initA := field x 192 32
    initB := field x 224 32
    lrPeak := field x 256 32
    lrMin := field x 288 32
    tw := field x 320 32
    td := field x 352 32
    lrKind := field x 384 2
    lInit := signed 8 (field x 392 8)
    lMin := signed 8 (field x 400 8)
    lMax := signed 8 (field x 408 8)
    lDown := field x 416 4
    lUp := field x 420 4
    lGrow := field x 424 16
    wxH := field x 440 5
    wxM := field x 448 4 }

def customScalarOf (x : Nat) : CustomScalar := ⟨field x 0 5, field x 5 2, field x 32 32⟩

/-- The lists of the slot-list section: each ends with SHARD 0xFFFF_FFFF (R172). Entries after the last end form no list. -/
def splitLists : List SlotEntry → List SlotEntry → List (List SlotEntry)
  | [], _ => []
  | x :: xs, cur => if x.shard = 0xFFFFFFFF then cur.reverse :: splitLists xs [] else splitLists xs (x :: cur)

/-! ### Sections of varying entries -/

/-- The words of a program, 8 bytes each. -/
def opsAt (img : List Byte) (off n : Nat) : List Accord.Op := (imgEntries img off 8 n).map (fun p => Accord.Op.ofWord p.2)

/-- The custom Accords of section 0x0D (R99): the offset of each, and the offset after the last. -/
def accordsAt (img : List Byte) : Nat → Nat → List (Nat × Accord.Custom) × Nat
  | 0, off => ([], off)
  | n + 1, off =>
    let h := Accord.Header.ofWord (imgNat img off 8)
    let c : Accord.Custom := ⟨h, opsAt img (off + 8) h.nopsA, opsAt img (off + 8 + 8 * h.nopsA) h.nops⟩
    let r := accordsAt img n (off + roundUp (8 + 8 * (h.nopsA + h.nops)) 64)
    ((off, c) :: r.1, r.2)

/-- Atomizer operand descriptor (Table 7-5). -/
def atmOperandOf (x : Nat) : AtmOperand :=
  { gei := field x 0 64
    foot := field x 64 40
    trows := field x 128 16
    fmt := field x 144 8
    layout := field x 152 2
    slot := field x 160 6
    strideK := field x 192 32
    shard := field x 224 32 }

/-- Atomizer command word (Table 7-7). -/
def atmCmdOf (x : Nat) : AtmCmd :=
  { cmd := field x 0 4
    dst := field x 4 2
    srcA := field x 6 2
    srcB := field x 8 2
    srcC := field x 10 2
    bscal := bit x 12
    sat := bit x 13
    func := field x 16 4
    sub := field x 20 4
    fmtR := field x 24 8
    fmtA := field x 32 8
    fmtB := field x 40 8
    scal := field x 48 5
    opnd := field x 53 3
    param := field x 56 8 }

/-- Bytes of a program before its padding (R209). -/
def atmProgramBytes (h : Nat) : Nat := 64 + 32 * field h 192 4 + 8 * field h 200 6

/-- Atomizer program (Table 7-9). -/
def atmProgramOf (img : List Byte) (off : Nat) : AtmProgram :=
  let h := imgNat img off 64
  { prog := field h 0 16
    runOnSkip := bit h 16
    sillage := bit h 17
    chmask := field h 32 32
    start := field h 64 16
    after := field h 96 32
    niter := field h 128 32
    segiter := field h 160 32
    streamBase := field h 208 16
    operands := (imgEntries img (off + 64) 32 (field h 192 4)).map (fun p => atmOperandOf p.2)
    body := (imgEntries img (off + 64 + 32 * field h 192 4) 8 (field h 200 6)).map (fun p => atmCmdOf p.2) }

/-- The programs of section 0x0C: the offset of each, and the offset after the last. -/
def programsAt (img : List Byte) : Nat → Nat → List (Nat × AtmProgram) × Nat
  | 0, off => ([], off)
  | n + 1, off =>
    let r := programsAt img n (off + roundUp (atmProgramBytes (imgNat img off 64)) 64)
    ((off, atmProgramOf img off) :: r.1, r.2)

/-! ### The Formula of an image -/

/-- NCUSTOM of the scalar section. -/
def customCount (img : List Byte) (ds : List Section) : Nat :=
  match findSection ds 0x0A with
  | some d => field (imgNat img d.off 128) 456 8
  | none => 0

/-- The custom scalar entries. -/
def customEntries (img : List Byte) (ds : List Section) : List (Nat × Nat) :=
  match findSection ds 0x0A with
  | some d => imgEntries img (d.off + 128) 8 (customCount img ds)
  | none => []

/-- The custom Accords of an image. -/
def accordsOf (img : List Byte) (ds : List Section) : List (Nat × Accord.Custom) × Nat :=
  match findSection ds 0x0D with
  | some d => accordsAt img d.count d.off
  | none => ([], 0)

/-- The Atomizer programs of an image. -/
def programsOf (img : List Byte) (ds : List Section) : List (Nat × AtmProgram) × Nat :=
  match findSection ds 0x0C with
  | some d => programsAt img d.count d.off
  | none => ([], 0)

/-- The Formula that an image holds. -/
def formulaOf (img : List Byte) : Formula :=
  let ds := directory img
  let es := fun (t : Nat) => (sectionEntries img ds t).map Prod.snd
  { hdr := headerOf (imgNat img 0 256)
    digest := beVal (slice img 192 48)
    timeline := (es 0x01).map segmentOf
    cadence := ((es 0x02).map cadenceOf).getD 0 ⟨0, 0, 0⟩
    slotLists := splitLists ((es 0x03).map slotEntryOf) []
    shards := (es 0x04).map shardEntryOf
    descs := (es 0x05).map descriptorOf
    windows := (es 0x06).map windowOf
    plan := (es 0x07).map planEntryOf
    norms := (es 0x08).map normEntryOf
    envs := (es 0x09).map envEntryOf
    consts := match findSection ds 0x0A with
      | some d => constsOf (imgNat img d.off 128)
      | none => {}
    customScalars := (customEntries img ds).map (fun p => customScalarOf p.2)
    reservations := (es 0x0B).map reservationOf
    programs := (programsOf img ds).1.map Prod.snd
    accords := (accordsOf img ds).1.map Prod.snd
    scaleGroups := (es 0x0E).map scaleEntryOf }

/-! ### The image as a whole (R155 to R157) -/

/-- Whether two sections share a byte. -/
def sectionsOverlap : List (Nat × Nat) → Bool
  | [] => false
  | x :: xs => xs.any (fun y => overlap x.1 x.2 y.1 y.2) || sectionsOverlap xs

/-- Whether one directory entry is right: a listed type, no reserved bit, its place, and its length. The manual does not say whether nonzero
reserved bits of an entry are a wrong directory or a wrong field: the model takes them as BAD_IMAGE (log entry 125). -/
def sectionOk (img : List Byte) (ds : List Section) (len : Nat) (d : Section) : Bool :=
  decide (1 ≤ d.type) && decide (d.type ≤ 0x0E) && decide (d.rsv = 0) && decide (d.off % 64 = 0) && decide (d.off + d.len ≤ len) &&
    decide ((ds.filter (fun x => decide (x.type = d.type))).length = 1) &&
    (match d.type with
     | 0x02 => decide (d.count = 1)
     | 0x06 => decide (d.count = 256)
     | _ => true) &&
    (if d.type = 0x0A then decide (128 ≤ d.len) && decide (128 + 8 * customCount img ds ≤ d.len)
     else if d.type = 0x0C then decide ((programsOf img ds).2 = d.off + d.len)
     else if d.type = 0x0D then decide ((accordsOf img ds).2 = d.off + d.len)
     else decide (d.len = d.count * entrySize d.type))

/-- Whether a section that the Formula needs is missing; a missing refresh section is refused later (R157). -/
def sectionMissing (f : Formula) (ds : List Section) : Bool :=
  let has := fun (t : Nat) => (findSection ds t).isSome
  !([0x01, 0x03, 0x04, 0x05, 0x06, 0x07, 0x09, 0x0A].all has) ||
    (f.shards.any (fun (e : ShardEntry) => decide (e.normGroup ≠ 0xFFFF)) && !has 0x08) ||
    (f.hdr.atomizer && !has 0x0C) ||
    (f.shards.any (fun (e : ShardEntry) => decide (0x40 ≤ e.accord) && decide (e.accord ≤ 0x7F)) && !has 0x0D) ||
    (f.descs.any (fun (d : Desc) => isTensorScaled d.fmt) && !has 0x0E)

/-- Whether the image, its digest or its directory is wrong (BAD_IMAGE). The image is the LEN bytes that ADMIT names; IMAGE_LEN of them
count (DEDUCED: IMAGE_LEN may not exceed LEN). -/
def badImage (img : List Byte) : Bool :=
  let h := imgNat img 0 256
  let len := field h 96 32
  let ns := field h 128 16
  if img.length < 256 then true
  else if field h 0 32 ≠ 0x4C4D5246 ∨ field h 32 16 ≠ 3 then true
  else if ns < 1 ∨ 14 < ns ∨ len < 256 + 16 * ns ∨ img.length < len then true
  else
    let zeroed := img.take 192 ++ List.replicate 48 0 ++ (img.take len).drop 240
    if sha384 zeroed ≠ slice img 192 48 then true
    else
      let ds := directory img
      let spans := (0, 256 + 16 * ns) :: (ds.filter (fun d => decide (d.len ≠ 0))).map (fun d => (d.off, d.len))
      !ds.all (sectionOk img ds len) || sectionsOverlap spans || sectionMissing (formulaOf img) ds

/-! ### Fields (R7) -/

/-- One check of a field: whether it holds, the section, the image offset of the field. -/
abbrev Check := Bool × Nat × Nat

/-- A check of the field at bit lo of the entry at an offset. -/
def chk (sec off lo : Nat) (ok : Bool) : Check := (ok, sec, off + lo / 8)

/-- Reserved fields, (first bit, width) each, must be zero. -/
def rsv (sec off x : Nat) (rs : List (Nat × Nat)) : List Check :=
  rs.map (fun r => chk sec off r.1 (decide (field x r.1 r.2 = 0)))

/-- The header's fields; SPILL must agree with the shard table (R155, R187). -/
def headerChecks (f : Formula) (x : Nat) : List Check :=
  let h := f.hdr
  rsv 0 0 x [(56, 8), (72, 24), (144, 16), (200, 24), (296, 24), (392, 24), (488, 24), (660, 12), (736, 800), (1920, 128)] ++
  [chk 0 0 65 (h.spill == f.shards.any (fun (e : ShardEntry) => e.spill)),
   chk 0 0 160 (decide (h.aptBase % 2 ^ 20 = 0)),
   chk 0 0 224 (decide (h.aptSize % 2 ^ 16 = 0) && decide (2 ^ 20 ≤ h.aptSize)),
   chk 0 0 256 (decide (h.blotBase % 2 ^ 20 = 0)),
   chk 0 0 320 ([64, 128, 256, 512, 1024, 2048, 4096].contains h.blotMib),
   chk 0 0 352 (decide (h.stageBase % 2 ^ 20 = 0)),
   chk 0 0 416 (decide (2 ≤ h.stageMib)),
   chk 0 0 448 (h.nearFlacon || decide (h.nearBase = 0)),
   chk 0 0 576 (!h.spill || decide (h.spillRate ≠ 0))]

def segmentChecks (c : Cfg) (p : Nat × Nat) : List Check :=
  chk 1 p.1 0 (decide (c = .izL) || decide (field p.2 16 16 = 0)) :: rsv 1 p.1 p.2 [(65, 63)]

def slotEntryChecks (p : Nat × Nat) : List Check := chk 3 p.1 48 (decide (field p.2 48 2 ≠ 3)) :: rsv 3 p.1 p.2 [(51, 13)]

/-- A shard table entry (Table 6-8, R173). -/
def shardChecks (ea : Nat) (p : Nat × Nat) : List Check :=
  let e := shardEntryOf p.2
  let own := decide (e.owner = ea)
  [chk 4 p.1 64 (decide (1 ≤ e.n) && decide (e.n ≤ 2097152)),
   chk 4 p.1 120 ((decide (1 ≤ e.accord) && decide (e.accord ≤ 9)) || (decide (0x40 ≤ e.accord) && decide (e.accord ≤ 0x7F))),
   chk 4 p.1 136 (decide (2 ≤ e.fanin)),
   chk 4 p.1 144 (decide (-126 ≤ e.wexp)),
   chk 4 p.1 192 (own || decide (e.descFirst = 0)),
   chk 4 p.1 224 (if own then decide (1 ≤ e.descCount) else decide (e.descCount = 0)),
   chk 4 p.1 256 (if own then decide (e.readyOff % 8 = 0) && decide (0x2000 ≤ e.readyOff) && decide (e.readyOff ≤ 0xFFFF8)
     else decide (e.readyOff = 0)),
   chk 4 p.1 308 (decide (e.pfxLen ≤ 20))] ++
  rsv 4 p.1 p.2 [(116, 4), (133, 3), (140, 4), (152, 8), (227, 29), (313, 199)]

def descriptorChecks (p : Nat × Nat) : List Check :=
  let d := descriptorOf p.2
  [chk 5 p.1 0 (decide (d.stream ≠ 7)), chk 5 p.1 8 (formatListed d.fmt)] ++
  rsv 5 p.1 p.2 [(3, 5), (20, 4), (32, 32), (104, 24), (168, 24), (232, 24), (296, 216)]

/-- A window table entry (Table 5-2): a disabled one is all zero. -/
def windowChecks (c : Cfg) (p : Nat × Nat) : List Check :=
  let w := windowOf p.2
  let grad := w.enable && decide (w.kind = 0)
  let zero := fun (lo n : Nat) => decide (field p.2 lo n = 0)
  [chk 6 p.1 0 (if w.enable then decide (w.kind ≠ 3) else zero 0 2),
   chk 6 p.1 8 (if w.enable then decide (2 ≤ w.issued) && decide (w.issued ≤ intakePages c) else zero 8 16),
   chk 6 p.1 32 (if w.enable then decide (w.base % 2 ^ 16 = 0) else zero 32 40),
   chk 6 p.1 96 (grad || zero 96 32),
   chk 6 p.1 128 (grad || zero 128 32),
   chk 6 p.1 160 (if grad then decide (1 ≤ w.localRanks) && decide (w.localRanks ≤ 4096) else zero 160 16)] ++
  rsv 6 p.1 p.2 [(3, 5), (24, 8), (72, 24), (176, 80)]

def normChecks (p : Nat × Nat) : List Check :=
  chk 8 p.1 32 (bit p.2 16 || decide (field p.2 32 32 = 0)) :: rsv 8 p.1 p.2 [(17, 15), (64, 64)]

/-- The scalar constants record (Table 6-11, R175). -/
def constsChecks (off x : Nat) : List Check :=
  let k := constsOf x
  [chk 0x0A off 384 (decide (k.lrKind ≠ 3) && !(decide (k.lrKind = 2) && decide (k.tw = 0)) &&
     !(decide (k.lrKind = 1) && decide (k.td ≤ k.tw))),
   chk 0x0A off 392 (decide (-126 ≤ k.lInit)),
   chk 0x0A off 400 (decide (-126 ≤ k.lMin)),
   chk 0x0A off 408 (decide (-126 ≤ k.lMax)),
   chk 0x0A off 416 (decide (k.lDown ≤ 8)),
   chk 0x0A off 420 (decide (k.lUp ≤ 8)),
   chk 0x0A off 424 (decide (1 ≤ k.lGrow)),
   chk 0x0A off 440 (decide (1 ≤ k.wxH) && decide (k.wxH ≤ 16)),
   chk 0x0A off 448 (decide (k.wxM ≤ 8)),
   chk 0x0A off 456 (decide (field x 456 8 ≤ 14))] ++
  rsv 0x0A off x [(386, 6), (445, 3), (452, 4), (464, 560)]

/-- The custom scalar entries (R176): registers s16 to s23 and s26 to s31, each once. -/
def customScalarChecks : List (Nat × Nat) → List Nat → List Check
  | [], _ => []
  | p :: ps, seen =>
    let k := customScalarOf p.2
    [chk 0x0A p.1 0 ((decide (16 ≤ k.reg) && decide (k.reg ≤ 31) && decide (k.reg ≠ 24) && decide (k.reg ≠ 25)) &&
       !seen.contains k.reg), chk 0x0A p.1 5 (decide (k.kind ≠ 3))] ++
      rsv 0x0A p.1 p.2 [(7, 25)] ++ customScalarChecks ps (k.reg :: seen)

def reservationChecks (p : Nat × Nat) : List Check :=
  let r := reservationOf p.2
  [chk 0x0B p.1 0 (decide (1 ≤ r.kind) && decide (r.kind ≤ 4)), chk 0x0B p.1 96 (decide (r.budget ≤ 32))] ++
    rsv 0x0B p.1 p.2 [(4, 28), (102, 26)]

def scaleChecks (p : Nat × Nat) : List Check :=
  let g := scaleEntryOf p.2
  [chk 0x0E p.1 0 (decide (1 ≤ g.h) && decide (g.h ≤ 16)), chk 0x0E p.1 8 (decide (-8 ≤ g.margin) && decide (g.margin ≤ 8)),
   chk 0x0E p.1 16 (decide (-127 ≤ g.kInit))] ++ rsv 0x0E p.1 p.2 [(5, 3), (25, 7)]

/-- Whether an operand code is one that Table 4-6 lists, for any use (R95). -/
def operandListed (w64 : Bool) (code : Nat) : Bool :=
  let i := code % 32
  match code / 32 with
  | 0 => decide (i < 16) && (!w64 || decide (i % 2 = 0))
  | 1 => true
  | 2 => decide (i ≤ 6)
  | _ => decide (i ≤ 5)

/-- A micro-op word: listed encodings only, and zero where the opcode uses no field (R94 to R96). -/
def opChecks (p : Nat × Nat) : List Check :=
  let o := Accord.Op.ofWord p.2
  let src := fun (i lo x : Nat) => chk 0x0D p.1 lo (if i < Accord.sources o.opc then operandListed o.w64 x else decide (x = 0))
  [chk 0x0D p.1 0 (Accord.opcListed o.opc),
   chk 0x0D p.1 9 (if Accord.noDst o.opc then decide (o.dst = 0) else operandListed o.w64 o.dst),
   src 0 16 o.a, src 1 23 o.b, src 2 30 o.c,
   chk 0x0D p.1 37 (if o.opc = 0x0E then decide (o.sub ≤ 3) else if o.opc = 0x11 then decide (o.sub ≤ 1) else decide (o.sub = 0)),
   chk 0x0D p.1 40 (if Accord.drawsWord o.opc then true else if o.opc = 0x12 then decide (o.imm < 256) else decide (o.imm = 0)),
   chk 0x0D p.1 56 (!bit o.omask 3)]

/-- A custom Accord (Table 4-8, R99): its header, its words, and the zero bytes after them. -/
def accordChecks (img : List Byte) (p : Nat × Accord.Custom) : List Check :=
  let x := imgNat img p.1 8
  let h := p.2.hdr
  let used := 8 + 8 * (h.nopsA + h.nops)
  [chk 0x0D p.1 0 (decide (0x40 ≤ h.code) && decide (h.code ≤ 0x7F)),
   chk 0x0D p.1 8 (decide (1 ≤ h.nops) && decide (h.nops ≤ 48)),
   chk 0x0D p.1 14 (decide (h.nopsA ≤ 48)),
   chk 0x0D p.1 20 (!bit h.inMask 6),
   chk 0x0D p.1 27 (!bit h.outMask 3)] ++ rsv 0x0D p.1 x [(36, 28)] ++
  (imgEntries img (p.1 + 8) 8 (h.nopsA + h.nops)).flatMap opChecks ++
  [chk 0x0D (p.1 + used) 0 (decide (imgNat img (p.1 + used) (roundUp used 64 - used) = 0))]

/-- The sources, functions and fields that each Atomizer command uses (Tables 7-7, 7-8): unused fields are zero. -/
def atmCmdChecks (p : Nat × Nat) : List Check :=
  let w := atmCmdOf p.2
  let c := w.cmd
  let ck := fun (lo : Nat) (ok : Bool) => chk 0x0C p.1 lo ok
  let fmtOk := fun (x : Nat) => formatListed x
  let op := decide (c = 3)
  let binary := op && decide (w.func ≠ 6)
  let apply := decide (c = 5) && decide (w.func = 0)
  let gen := decide (c = 5) && decide (w.func = 1)
  let usesDst := decide (1 ≤ c) && decide (c ≤ 8) && decide (c ≠ 2) && decide (c ≠ 7)
  let usesA := (decide (2 ≤ c) && decide (c ≤ 8)) && !gen
  let usesB := (binary && !w.bscal) || apply || decide (c = 8)
  let usesSat := op || decide (c = 4) || decide (c = 6)
  let numeric := op || decide (c = 4) || apply || decide (c = 6)
  let zeroOr := fun (used : Bool) (ok : Bool) (x : Nat) => if used then ok else decide (x = 0)
  [ck 0 (decide (1 ≤ c) && decide (c ≤ 9)),
   ck 4 (usesDst || decide (w.dst = 0)),
   ck 6 (usesA || decide (w.srcA = 0)),
   ck 8 (usesB || decide (w.srcB = 0)),
   ck 10 ((op && decide (w.func = 3)) || decide (w.srcC = 0)),
   ck 12 (binary || !w.bscal),
   ck 13 (usesSat || !w.sat),
   ck 14 (decide (field p.2 14 2 = 0)),
   ck 16 (if op then decide (w.func ≤ 6) else if c = 4 then decide (w.func ≤ 5) else if c = 5 then decide (w.func ≤ 1) else decide (w.func = 0)),
   ck 20 (gen || decide (c = 6) || decide (w.sub = 0)),
   ck 24 (if gen then decide (w.fmtR = 0) || decide (w.fmtR = 0x41) else zeroOr numeric (fmtOk w.fmtR) w.fmtR),
   ck 32 (zeroOr (numeric || decide (c = 7)) (fmtOk w.fmtA) w.fmtA),
   ck 40 (if gen then decide (w.fmtB = 0) || decide (w.fmtB = 0x41) else zeroOr (binary || apply) (fmtOk w.fmtB) w.fmtB),
   ck 48 (w.bscal || decide (w.scal = 0)),
   ck 53 (decide (c = 1) || decide (c = 2) || decide (c = 6) || gen || decide (w.opnd = 0)),
   ck 56 (if c = 1 ∨ c = 2 then decide (w.param < 8) else if gen || decide (c = 7) then true
     else if c = 8 then decide (w.param < 32) else decide (w.param = 0))]

/-- An operand descriptor (Table 7-5). -/
def atmOperandChecks (p : Nat × Nat) : List Check :=
  let o := atmOperandOf p.2
  [chk 0x0C p.1 64 (decide (o.foot % 2 ^ 18 = 0)),
   chk 0x0C p.1 128 (decide (1 ≤ o.trows)),
   chk 0x0C p.1 144 (formatListed o.fmt),
   chk 0x0C p.1 152 (decide (o.layout ≠ 3)),
   chk 0x0C p.1 160 (if o.layout = 0 then decide (o.slot = 0)
     else if o.layout = 1 then (decide (o.slot = 16) || decide (o.slot = 32)) && decide (elemBits o.fmt < o.slot)
     else decide (o.slot = 8) || decide (o.slot = 16) || decide (o.slot = 32))] ++
  rsv 0x0C p.1 p.2 [(104, 24), (154, 6), (166, 26)]

/-- An Atomizer program (Table 7-9). -/
def atmProgramChecks (img : List Byte) (p : Nat × AtmProgram) : List Check :=
  let h := imgNat img p.1 64
  let g := p.2
  let no := field h 192 4
  let nc := field h 200 6
  let used := atmProgramBytes h
  [chk 0x0C p.1 128 (decide (1 ≤ g.niter) && decide (g.niter ≤ 65536)),
   chk 0x0C p.1 160 (decide (1 ≤ g.segiter) && decide (g.segiter ≤ g.niter)),
   chk 0x0C p.1 192 (decide (1 ≤ no) && decide (no ≤ 8)),
   chk 0x0C p.1 200 (decide (2 ≤ nc) && decide (nc ≤ 32))] ++
  rsv 0x0C p.1 h [(18, 14), (80, 16), (196, 4), (206, 2), (224, 288)] ++
  (imgEntries img (p.1 + 64) 32 no).flatMap atmOperandChecks ++
  (imgEntries img (p.1 + 64 + 32 * no) 8 nc).flatMap atmCmdChecks ++
  [chk 0x0C (p.1 + used) 0 (decide (imgNat img (p.1 + used) (roundUp used 64 - used) = 0))]

/-- The bytes that arrive for an envelope group in a step (R178): the granules of the contributions of the host ranks, and the CONTRIB
packets of the children, of every shard of the group. kids gives the children of a shard. -/
def envelopeBytes (f : Formula) (kids : Nat → Nat) (g : Nat) : Nat :=
  f.shards.zipIdx.foldl (fun a (p : ShardEntry × Nat) =>
    if p.1.envGroup = g then
      a + hostRanks f p.2 * (32 * ceilDiv (64 + 2 * p.1.n) 32) + kids p.2 * (48 * chunkCount p.1.n + (if p.1.pfmtBf16s then 2 else 4) * p.1.n)
    else a) 0

/-- Whether arrivals can keep an envelope of V bytes (R178). -/
def envelopeKept (e : EnvEntry) (v : Nat) : Bool :=
  decide (e.openTick ≤ e.closeTick) && (decide (v ≤ e.burst) ||
    (decide (e.rate ≠ 0) && decide (v - e.burst ≤ e.rate * (e.closeTick - e.openTick))))

/-- The envelopes, with the offset of the entry (R178). -/
def envelopeChecks (f : Formula) (kids : Nat → Nat) (es : List (Nat × Nat)) : List Check :=
  es.zipIdx.flatMap (fun p =>
    chk 9 p.1.1 0 (envelopeKept (envEntryOf p.1.2) (envelopeBytes f kids p.2)) :: rsv 9 p.1.1 p.1.2 [(96, 32)])

/-- Every field check of an image, header first and then the sections in ascending type (DEDUCED). -/
def fieldChecks (c : Cfg) (ea : Nat) (img : List Byte) (f : Formula) (kids : Nat → Nat) : List Check :=
  let ds := directory img
  let es := sectionEntries img ds
  headerChecks f (imgNat img 0 256) ++ (es 1).flatMap (segmentChecks c) ++
  (es 2).flatMap (fun p => rsv 2 p.1 p.2 [(40, 88)]) ++ (es 3).flatMap slotEntryChecks ++ (es 4).flatMap (shardChecks ea) ++
  (match findSection ds 4 with
   | some d => [chk 4 d.off 0 (decide (d.count ≤ 130048))]
   | none => []) ++
  (es 5).flatMap descriptorChecks ++ (es 6).flatMap (windowChecks c) ++ (es 8).flatMap normChecks ++
  envelopeChecks f kids (es 9) ++
  (match findSection ds 0x0A with
   | some d => constsChecks d.off (imgNat img d.off 128)
   | none => []) ++ customScalarChecks (customEntries img ds) [] ++
  (es 0x0B).flatMap reservationChecks ++
  (programsOf img ds).1.flatMap (atmProgramChecks img) ++
  (accordsOf img ds).1.flatMap (accordChecks img) ++ (es 0x0E).flatMap scaleChecks

/-- The first check that fails: section and offset. -/
def firstFault (cs : List Check) : Option (Nat × Nat) := (cs.find? (fun k => !k.1)).map Prod.snd

end Sys2Proof.Machine
end

