-- ==== Sys2Proof/Machine/Programs.lean ====
section
/-! DEFINITION. What admission checks of membership and of programs (R182, MEMBERSHIP and PROGRAM): custom Accords (R80 to R101), stream
descriptors (R53, R90 to R93), norm groups (R120 to R122), Atomizer programs (R71, R192 to R210), Sillage stream ids (R230, R231). -/

namespace Sys2Proof.Machine

open Sys2Proof.Bits
open Sys2Proof.Convert

/-- The engine with a Formula under admission in place of the admitted one, for the operations that look a Formula up. -/
def State.trying (s : State) (f : Formula) : State := { s with formula := some f }

/-! ### Membership (R183) -/

/-- Whether the Formula does not match the current membership. -/
def State.badMembership (s : State) (f : Formula) : Bool :=
  let ms := s.fabric.members
  decide (f.hdr.epoch ≠ s.fabric.epoch) || decide (f.hdr.members ≠ ms.length) ||
    f.shards.any (fun (e : ShardEntry) => !ms.contains e.owner || !(treeGroup ms e.pfx e.pfxLen).contains e.owner) ||
    (decide (f.hdr.spillRate ≠ 0) && !ms.contains f.hdr.spillEa)

/-! ### Custom Accords -/

/-- The stream ids that the words of a phase draw, with their positions. -/
def drawnIds (ops : List Accord.Op) : List (Nat × Nat) :=
  (ops.zipIdx.filter (fun p => Accord.drawsWord p.1.opc)).map (fun p => (p.2, p.1.imm))

/-- Whether no two consumers of a list use one stream id. -/
def idsDistinct (l : List (Nat × Nat)) : Bool := decide ((l.map Prod.snd).Nodup)

/-- Whether every FSEL tests a predicate: a lane register that FCMP wrote last (R96). -/
def predicatesOk (ops : List Accord.Op) : Bool :=
  (ops.foldl (fun (acc : Bool × List Nat) o =>
    let ok := acc.1 && (decide (o.opc ≠ 0x0F) || (decide (o.a < 16) && acc.2.contains o.a))
    let kept := if Accord.noDst o.opc || decide (o.opc = 0x15) then acc.2
      else acc.2.filter (fun r => decide (r ≠ o.dst) && !(o.w64 && decide (r = o.dst + 1)))
    (ok, if o.opc = 0x0E then o.dst :: kept else kept)) (true, [])).1

/-- Whether one phase of a custom Accord keeps every rule, for input formats fm (R80, R82, R92 to R98, R101, R230, R231). -/
def phaseOk (fm : Nat → Nat) (inMask outMask : Nat) (ops : List Accord.Op) : Bool :=
  Accord.checkProgram fm inMask outMask ops && predicatesOk ops && decide (Accord.depth ops ≤ 255) &&
    (drawnIds ops).all (fun p => decide (0x100 ≤ p.2) && decide (p.2 ≤ 0x3FFF)) && idsDistinct (drawnIds ops)

/-- Whether a custom Accord keeps every rule; its header's flags agree with its words, and a stream id of phase A returns only at the
same position of phase B (R99, R231). -/
def customOk (fm : Nat → Nat) (c : Accord.Custom) : Bool :=
  let h := c.hdr
  let all := c.opsA ++ c.ops
  (decide (h.nopsA = 0) || phaseOk fm h.inMask 0 c.opsA) && phaseOk fm h.inMask h.outMask c.ops &&
    (h.sillage == all.any (fun o => Accord.drawsWord o.opc)) && (h.w64 == all.any (fun o => o.w64)) &&
    (drawnIds c.opsA).all (fun a => (drawnIds c.ops).all (fun b => decide (a.2 ≠ b.2) || decide (a.1 = b.1)))

/-! ### Stream descriptors -/

/-- Formats that a stored stream may have, formats of D, and formats that X may have when it is only read (Table 2-8). -/
def storeFormats : List Nat := [0x01, 0x02, 0x03, 0x04, 0x05, 0x06, 0x10, 0x11, 0x12, 0x13, 0x14, 0x15, 0x20, 0x21]
def decantFormats : List Nat := [0x04, 0x07, 0x08, 0x10, 0x11, 0x14, 0x40, 0x41]
def xReadFormats : List Nat := [0x07, 0x08, 0x40, 0x41]

/-- Whether a descriptor keeps Table 4-4, R53, R91 and R93. -/
def descriptorOk (f : Formula) (d : Desc) : Bool :=
  (if d.stream = 3 then
     decide (d.fmt = 0x02) && d.rd && !d.wr && !d.dbuf && decide (d.ebase0 = 0) && decide (d.sbase0 = 0) && decide (d.ebase1 = 0) &&
       decide (d.sbase1 = 0)
   else if d.stream = 6 then decantFormats.contains d.fmt && !d.rd && d.wr && d.dbuf
   else (storeFormats.contains d.fmt || (decide (d.stream = 4) && xReadFormats.contains d.fmt && !d.wr)) && !d.dbuf &&
     decide (d.ebase1 = 0) && decide (d.sbase1 = 0)) &&
  ((blockFmt d.fmt).isSome || (decide (d.sbase0 = 0) && decide (d.sbase1 = 0))) &&
  (if isTensorScaled d.fmt then
     (match f.scaleGroups[d.scaleGroup]? with
      | some g => g.e5m2 == decide (d.fmt = 0x08)
      | none => false)
   else decide (d.scaleGroup = 0))

/-- The streams of a shard that its descriptors read, as a mask. -/
def rdMask (f : Formula) (e : ShardEntry) : Nat :=
  (descsOf f e).foldl (fun a d => if d.rd then Nat.lor a (2 ^ d.stream) else a) 0

/-- Whether a shard's Accord has two phases (R120). -/
def twoPhase (f : Formula) (e : ShardEntry) : Bool := decide ((passProg f e 1).ops ≠ [])

/-- Whether a shard's norm group is right (R120). -/
def normOk (f : Formula) (e : ShardEntry) : Bool :=
  if twoPhase f e then
    match f.norms.find? (fun (g : NormEntry) => decide (g.group = e.normGroup)) with
    | some g => if e.accord = 0x04 then !g.clipping else if e.accord < 0x40 then g.clipping else true
    | none => false
  else decide (e.normGroup = 0xFFFF)

/-- Whether the Accord code, CLIP and the norm group of a shard, owned or not, keep R99, R120 and R121. -/
def shardCodeOk (f : Formula) (e : ShardEntry) : Bool :=
  (!e.clip || decide (e.accord = 1) || decide (e.accord = 2) || decide (e.accord = 3)) &&
    (decide (e.accord < 0x40) || f.accords.any (fun (c : Accord.Custom) => decide (c.hdr.code = e.accord))) && normOk f e

/-- Whether the descriptors of an owned shard and its Accord keep every rule. -/
def shardProgramOk (f : Formula) (e : ShardEntry) : Bool :=
  let ds := descsOf f e
  let rd := rdMask f e
  let wr := wrMask f e
  let fm := fun (i : Nat) => ((ds.find? (fun d => decide (d.stream = i))).map Desc.fmt).getD 0x02
  decide (e.descFirst + e.descCount ≤ f.descs.length) && decide ((ds.map Desc.stream).Nodup) &&
    (if e.accord < 0x40 then
       decide (rd = Accord.builtinIn e.accord) && decide (Nat.land wr (Accord.builtinOut e.accord) = wr) &&
         ds.all (fun d => !d.rd || decide (d.fmt ≠ 0x01))
     else match f.accords.find? (fun (c : Accord.Custom) => decide (c.hdr.code = e.accord)) with
       | some c => decide (rd = c.hdr.inMask) && decide (wr = c.hdr.outMask) && customOk fm c &&
           c.ops.all (fun o => decide (o.opc ≠ 0x15) || !(decide (fm (o.dst % 32) = 0x40) || decide (fm (o.dst % 32) = 0x41)))
       | none => false)

/-! ### Atomizer programs -/

/-- The numeric Atomizer formats, and the mask formats (Table 2-8). -/
def atmNumeric (x : Nat) : Bool := [0x02, 0x03, 0x04, 0x05, 0x06].contains x
def atmMaskFmt (x : Nat) : Bool := decide (x = 0x40) || decide (x = 0x41)

/-- What a latch holds while a body is checked: nothing, numeric slots of a width, or a mask of a format for slots of a width. -/
inductive LatchSt where
  | unwritten
  | numeric (w : Nat)
  | mask (fmt w : Nat)
deriving DecidableEq, Repr

/-- What an operand's row puts into a latch. -/
def operandLatch (o : AtmOperand) : LatchSt := if o.layout = 2 then .mask o.fmt o.slot else .numeric (operandSlot o)

/-- Whether an operand's format suits its layout (R199 to R201). -/
def operandOk (s : State) (f : Formula) (o : AtmOperand) : Bool :=
  (if o.layout = 2 then atmMaskFmt o.fmt else atmNumeric o.fmt) &&
    (decide (o.shard = 0xFFFFFFFF) || (match shardEntry f o.shard with
      | some e => s.owns e
      | none => false))

/-- Whether the positions that a LOAD or STORE reaches lie in the footprint (R197, R200). -/
def accessInside (o : AtmOperand) (niter delta : Nat) : Bool := decide (accessPos o (niter - 1) delta < 2 * o.trows)

/-- Whether the formats of a command may pair on the configuration's variant (R53, R71, R75, R207). On ATM-M every numeric operand has one
format, so an ATM_FMA, whose C operand has FMT_R, has FMT_R = FMT_A, and an ATM_RND, whose operand is binary32, has a binary32 result (log
entry 99). -/
def formatsPair (c : Cfg) (w : AtmCmd) : Bool :=
  let single := decide (c = .izL)
  match w.cmd with
  | 3 =>
    atmNumeric w.fmtA && atmNumeric w.fmtR && (decide (w.func = 6) || atmNumeric w.fmtB) &&
      (!single || ((decide (w.func = 6) || decide (w.fmtB = w.fmtA)) &&
        (decide (w.fmtR = w.fmtA) || (decide (w.func ≠ 3) && decide (w.fmtR = 0x02)))))
  | 4 => (decide (w.fmtA = 0x04) || decide (w.fmtA = 0x03)) && decide (w.fmtR = w.fmtA)
  | 5 => decide (w.func = 1) ||
      (atmMaskFmt w.fmtB && atmNumeric w.fmtA && (decide (w.fmtR = w.fmtA) || decide (w.fmtR = 0x02)))
  | 6 => decide (w.fmtA = 0x02) && atmNumeric w.fmtR && (!single || decide (w.fmtR = 0x02))
  | 7 => atmNumeric w.fmtA
  | _ => true

/-- Whether a command finds in its latches what it needs, and the latches after it (R194, R199, R200). -/
def latchStep (p : AtmProgram) (x : List LatchSt) (w : AtmCmd) : Bool × List LatchSt :=
  let width := cmdWidth w p.operands
  let at' := fun (i : Nat) => x.getD i .unwritten
  let num := fun (i : Nat) => decide (at' i = .numeric width)
  match w.cmd with
  | 1 => match p.operands[w.opnd]? with
    | some o => (accessInside o p.niter w.param, x.set w.dst (operandLatch o))
    | none => (false, x)
  | 2 => match p.operands[w.opnd]? with
    | some o => (accessInside o p.niter w.param && decide (at' w.srcA = operandLatch o), x)
    | none => (false, x)
  | 3 => (num w.srcA && (decide (w.func = 6) || w.bscal || num w.srcB) && (decide (w.func ≠ 3) || num w.srcC), x.set w.dst (.numeric width))
  | 4 => (num w.srcA, x.set w.dst (.numeric width))
  | 5 =>
    if w.func = 1 then (decide (w.opnd < p.operands.length), x.set w.dst (.mask 0x41 width))
    else (num w.srcA && decide (at' w.srcB = .mask w.fmtB width), x.set w.dst (.numeric width))
  | 6 => (num w.srcA && decide (w.opnd < p.operands.length), x.set w.dst (.numeric width))
  | 7 => (num w.srcA, x)
  | 8 => (decide (at' w.srcA ≠ .unwritten) && decide (at' w.srcB = at' w.srcA), x.set w.dst (at' w.srcA))
  | _ => (true, x)

/-- Whether a body's latches are right from its first command to its last. -/
def latchesOk (p : AtmProgram) : Bool :=
  (p.body.foldl (fun (acc : Bool × List LatchSt) w =>
    let r := latchStep p acc.2 w
    (acc.1 && r.1, r.2)) (true, List.replicate 4 .unwritten)).1

/-- The stretches of a channel's step that are PROC with no TRANSIT, in ticks; none as the end: without end (R162, R163). -/
def procStretches : List Segment → Bool → Option Nat → List (Nat × Option Nat)
  | [], _, none => []
  | [], _, some a => [(a, none)]
  | x :: xs, was, cur =>
    if x.proc then procStretches xs true (some (cur.getD (if was then x.start else x.start + 6)))
    else (match cur with
      | some a => [(a, some x.start)]
      | none => []) ++ procStretches xs false none

/-- The longest stretch of PROC inside one ATOMIZER reservation of a channel that lasts at least ns nanoseconds exists (R210). -/
def stretchHolds (f : Formula) (ch ns : Nat) : Bool :=
  (procStretches (segmentsOf f ch) true none).any (fun x =>
    f.reservations.any (fun (r : Reservation) => decide (r.kind = 3) && bit r.chmask ch &&
      (let lo := max x.1 r.start
       match x.2, decide (r.length = 0) with
       | none, true => true
       | some b, true => decide (20 * lo + ns ≤ 20 * b)
       | none, false => decide (20 * lo + ns ≤ 20 * (r.start + r.length))
       | some b, false => decide (20 * lo + ns ≤ 20 * min b (r.start + r.length)))))

/-- Whether every segment of a program fits the reservations of each of its channels. -/
def segmentsFit (s : State) (f : Formula) (p : AtmProgram) : Bool :=
  (List.range (channels s.cfg)).all (fun ch => !bit p.chmask ch || stretchHolds f ch (segWorst (s.trying f) p 0))

/-- Whether the Sillage flag and ids of a program are right (R210, R230). -/
def atmIdsOk (p : AtmProgram) : Bool :=
  let ds := p.body.filter cmdDraws
  (p.sillage == !ds.isEmpty) && ds.all (fun w => decide (0x4000 ≤ p.streamBase + w.sub) && decide (p.streamBase + w.sub ≤ 0x7FFF))

/-- Whether an Atomizer program keeps every rule of R71, R192, R194, R197, R199, R200, R206, R208 and R210. -/
def atmProgramOk (s : State) (f : Formula) (p : AtmProgram) : Bool :=
  let d := s.disc
  d.aStack && d.isMatch && decide (Nat.land p.chmask d.atmMask = p.chmask) && p.operands.all (operandOk s f) &&
    decide (((p.body.filter (fun (w : AtmCmd) => decide (w.cmd = 9))).length) = 1) &&
    (match p.body.getLast? with
     | some w => decide (w.cmd = 9)
     | none => false) &&
    p.body.all (formatsPair s.cfg) && latchesOk p &&
    p.body.all (fun (w : AtmCmd) => decide (w.cmd ≠ 8) || (decide (1 ≤ field w.param 1 4) && decide (field w.param 1 4 < d.pairs))) &&
    (decide (p.niter ≤ p.segiter) || p.operands.all (fun o => decide (o.layout ≠ 2) || decide (p.segiter % maskIters o = 0))) &&
    atmIdsOk p && segmentsFit s f p &&
    (decide (p.after = 0xFFFFFFFF) || (match shardEntry f p.after with
      | some e => s.owns e
      | none => false))

/-! ### GEIs (R231) -/

/-- Whether slot j of a drawing command's rows is one whose element draws on a channel of group k (R197, R201). -/
def drawsSlot (pairs : Nat) (p : AtmProgram) (w k j : Nat) : Bool :=
  let byte := j * w / 8
  let bank := byte / 2 ^ 13 % 32
  bit p.chmask (4 * k + byte / 64 % 4) && decide (bank / 2 < pairs) && decide (2 * (byte / 2 ^ 18) + bank % 2 < p.niter)

/-- Whether two drawing commands meet at a GEI. -/
def atmGeiMeets (c : Cfg) (pairs : Nat) (p q : AtmProgram) (a b : AtmCmd) : Bool :=
  match p.operands[a.opnd]?, q.operands[b.opnd]? with
  | some o, some r =>
    let w := cmdWidth a p.operands
    let v := cmdWidth b q.operands
    let groups := List.range (channels c / 4)
    groups.any (fun k => groups.any (fun m => (List.range ((p.niter + 1) / 2 * (2 ^ 21 / w))).any (fun j =>
      let g := o.gei + k * o.strideK + j
      let base := r.gei + m * r.strideK
      decide (base ≤ g) && drawsSlot pairs p w k j && drawsSlot pairs q v m (g - base))))
  | _, _ => false

/-- The drawing commands of all programs: program, place in the body, command. -/
def atmConsumers (f : Formula) : List (AtmProgram × Nat × AtmCmd) :=
  f.programs.flatMap (fun p => (p.body.zipIdx.filter (fun x => cmdDraws x.1)).map (fun x => (p, x.2, x.1)))

/-- Whether two Atomizer consumers use one stream id for one GEI. -/
def atmIdClash (s : State) (f : Formula) : Bool :=
  let cs := atmConsumers f
  cs.any (fun x => cs.any (fun y =>
    decide ((x.1.prog, x.2.1) ≠ (y.1.prog, y.2.1)) && decide (x.1.streamBase + x.2.2.sub = y.1.streamBase + y.2.2.sub) &&
      atmGeiMeets s.cfg s.disc.pairs x.1 y.1 x.2.2 y.2.2))

/-- The stream ids that a shard's Accord draws. -/
def shardIds (f : Formula) (e : ShardEntry) : List Nat :=
  ((drawnIds (passProg f e 0).ops ++ drawnIds (passProg f e 1).ops).map Prod.snd).dedup

/-- Whether two owned shards use one stream id for one GEI. -/
def shardIdClash (f : Formula) (es : List ShardEntry) : Bool :=
  es.zipIdx.any (fun x => es.zipIdx.any (fun y => decide (x.2 < y.2) && overlap x.1.gei x.1.n y.1.gei y.1.n &&
    (shardIds f x.1).any (fun i => (shardIds f y.1).contains i)))

/-! ### PROGRAM -/

/-- The planes of a descriptor at a stripe length: base and bytes, both buffers of D. -/
def planesOf (d : Desc) (t : Nat) : List (Nat × Nat) :=
  let el := elemPlaneBytes d.fmt t
  let sc := scalePlaneBytes d.fmt t
  let one := fun (e b : Nat) => [(e, el)] ++ (if sc = 0 then [] else [(b, sc)])
  if d.stream = 3 then [] else one d.ebase0 d.sbase0 ++ (if d.dbuf then one d.ebase1 d.sbase1 else [])

/-- Whether a Still stream of an owned shard names a plane of a mask operand (R200). -/
def streamNamesMask (s : State) (f : Formula) (es : List ShardEntry) : Bool :=
  let masks := f.programs.flatMap (fun p => p.operands.filter (fun (o : AtmOperand) => decide (o.layout = 2)))
  es.any (fun e => (descsOf f e).any (fun d => (planesOf d (stripeLen s.cfg e.n)).any (fun x =>
    masks.any (fun o => overlap x.1 x.2 o.foot (o.trows * 2 ^ 18)))))

/-- The owned shards of a Formula. -/
def State.ownEntries (s : State) (f : Formula) : List ShardEntry := f.shards.filter s.owns

/-- Whether some Accord, descriptor or Atomizer rule is broken (PROGRAM): every descriptor and every shard is checked, and against the
descriptors that it names each owned shard (R173 gives the others none). -/
def State.badProgram (s : State) (f : Formula) : Bool :=
  let es := s.ownEntries f
  !(decide ((f.accords.map (fun (c : Accord.Custom) => c.hdr.code)).Nodup) && f.accords.all (customOk (fun _ => 0x02))) ||
    !f.descs.all (descriptorOk f) || !f.shards.all (shardCodeOk f) || !es.all (shardProgramOk f) || shardIdClash f es ||
    (f.hdr.atomizer && (!(s.disc.aStack && s.disc.isMatch) || !f.programs.all (atmProgramOk s f) ||
      !decide ((f.programs.map AtmProgram.prog).Nodup) || streamNamesMask s f es || atmIdClash s f))

end Sys2Proof.Machine
end

