-- ==== Sys2Proof/Machine/Contract.lean ====
section
/-! DEFINITION. The timing contract at admission (06_formula_and_timing_contract.md): capacity and fit options (R190, R191), layout (R126,
R160), timeline and refresh (R162, R166), slot lists (R113, R172), the waits of R182, slots (R137), bandwidth (R397), and bounds (R184). -/

namespace Sys2Proof.Machine

open Sys2Proof.Bits
open Sys2Proof.Convert

/-! ### Capacity (R190) -/

/-- Bytes of one descriptor's planes over every channel group, at the full stripe length. -/
def planeTotal (c : Cfg) (n : Nat) (d : Desc) : Nat := ((planesOf d (stripeLen c n)).map Prod.snd).sum * logicals c

/-- Whether a descriptor's planes live at SPILL_EA: M1 and M2 of a shard with SPILL. -/
def spilled (e : ShardEntry) (d : Desc) : Bool := e.spill && (decide (d.stream = 1) || decide (d.stream = 2))

/-- Bytes that the planes of a shard need here. -/
def shardBytes (c : Cfg) (f : Formula) (e : ShardEntry) : Nat :=
  (((descsOf f e).filter (fun d => !spilled e d)).map (planeTotal c e.n)).sum

/-- Bytes of a shard's M1 and M2 planes. -/
def momentBytes (c : Cfg) (f : Formula) (e : ShardEntry) : Nat :=
  (((descsOf f e).filter (fun d => decide (d.stream = 1) || decide (d.stream = 2))).map (planeTotal c e.n)).sum

/-- Bytes required. -/
def State.required (s : State) (f : Formula) : Nat :=
  ((s.ownEntries f).map (shardBytes s.cfg f)).sum + f.hdr.nearMib * 2 ^ 20

/-- Bytes available; 0 when the reserved ranges exceed the capacity. -/
def State.available (s : State) (f : Formula) : Nat :=
  s.capacity - (f.hdr.aptSize + (f.hdr.blotMib + f.hdr.stageMib) * 2 ^ 20)

/-! ### Layout (R126, R160) -/

/-- The reserved ranges as stack addresses: base and bytes. -/
def reservedRanges (h : FHeader) : List (Nat × Nat) :=
  [(h.aptBase, h.aptSize), (h.blotBase, h.blotMib * 2 ^ 20), (h.stageBase, h.stageMib * 2 ^ 20)] ++
    (if h.nearFlacon then [(h.nearBase, h.nearMib * 2 ^ 20)] else [])

/-- The channel-group addresses of group k that a stack range covers (R160): first address and bytes. -/
def groupImage (c : Cfg) (k : Nat) (r : Nat × Nat) : Nat × Nat :=
  let m := 2 ^ gBits c
  let first := r.1 / 256
  let last := (r.1 + r.2 - 1) / 256
  let b0 := first + (k + m - first % m) % m
  let b1 := last - (last % m + m - k) % m
  let lo := if b0 = first then cgAddr c r.1 else b0 / m * 256
  let hi := if b1 = last then cgAddr c (r.1 + r.2 - 1) + 1 else b1 / m * 256 + 256
  if r.2 = 0 ∨ last < b0 ∨ last < (last % m + m - k) % m ∨ b1 < b0 then (lo, 0) else (lo, hi - lo)

/-- Whether two ranges of a list share a byte. -/
def anyOverlap : List (Nat × Nat) → Bool
  | [] => false
  | x :: xs => (decide (x.2 ≠ 0) && xs.any (fun y => decide (y.2 ≠ 0) && overlap x.1 x.2 y.1 y.2)) || anyOverlap xs

/-- The planes that owned shards keep here: base and bytes, the same in every channel group. -/
def State.allPlanes (s : State) (f : Formula) : List (Nat × Nat) :=
  (s.ownEntries f).flatMap (fun e => ((descsOf f e).filter (fun d => !spilled e d)).flatMap (fun d => planesOf d (stripeLen s.cfg e.n)))

/-- The footprints of the Atomizer programs. -/
def footprints (f : Formula) : List (Nat × Nat) :=
  if f.hdr.atomizer then f.programs.flatMap (fun p => p.operands.map (fun o => (o.foot, o.trows * 2 ^ 18))) else []

/-- Whether planes, footprints, readiness words and reserved ranges lie right (R160, R201). -/
def State.addressesOk (s : State) (f : Formula) : Bool :=
  let planes := s.allPlanes f
  let foots := footprints f
  let res := reservedRanges f.hdr
  let cap := s.capacity / 2 ^ gBits s.cfg
  res.all (fun r => decide (r.1 + r.2 ≤ s.capacity)) && !anyOverlap res && (planes ++ foots).all (fun x => decide (x.1 + x.2 ≤ cap)) &&
    !anyOverlap planes && decide (((s.ownEntries f).map ShardEntry.readyOff).Nodup) &&
    (List.range (2 ^ gBits s.cfg)).all (fun k =>
      res.all (fun r =>
        let i := groupImage s.cfg k r
        decide (i.2 = 0) || (planes ++ foots).all (fun x => !overlap i.1 i.2 x.1 x.2)))

/-- The enabled windows. -/
def enabledWindows (f : Formula) : List WinEntry := f.windows.filter (fun w => w.enable)

/-- Pages that the slot of a shard needs at this engine (R137), with kids children. -/
def slotNeed (f : Formula) (kids i : Nat) (e : ShardEntry) : Nat :=
  let h := hostRanks f i
  let part := (if e.pfmtBf16s then 2 else 4) * e.n
  if h + kids = 0 then 0
  else if e.wx then ceilDiv (12 * e.n) 65536
  else ceilDiv (4 * e.n + (if h = 0 then (kids - 1) * part else (h - 1) * 2 * e.n + kids * part)) 65536

/-- Children of shard i under a Formula. -/
def State.kidsOf (s : State) (f : Formula) (i : Nat) : Nat := ((s.trying f).childrenOf i).length

/-- Whether the window table keeps R126. -/
def State.windowsOk (s : State) (f : Formula) : Bool :=
  let ws := enabledWindows f
  let grads := ws.filter (fun w => decide (w.kind = 0))
  let need := f.shards.zipIdx.foldl (fun a (p : ShardEntry × Nat) => max a (slotNeed f (s.kidsOf f p.2) p.2 p.1)) 0
  !anyOverlap (ws.map (fun w => (w.base, w.issued * 65536))) &&
    ws.all (fun w => decide (2 ^ 20 ≤ w.base) && decide (w.base + w.issued * 65536 ≤ f.hdr.aptSize)) &&
    (List.range f.shards.length).all (fun i =>
      decide ((grads.filter (fun w => decide (w.firstShard ≤ i) && decide (i ≤ w.lastShard))).length ≤ 1)) &&
    decide (landingPages f + need ≤ intakePages s.cfg) &&
    grads.all (fun w => (slice f.shards w.firstShard (w.lastShard + 1 - w.firstShard)).all (fun e =>
      decide (2 * ceilDiv (64 + 2 * e.n) 65536 ≤ w.issued)))

/-- Whether the Formula's layout is refused (LAYOUT): R126, R160, R275, R277, and an owned shard beside a fenced channel (R385). -/
def State.badLayout (s : State) (f : Formula) : Bool :=
  let ms := s.fabric.members
  !s.addressesOk f || !s.windowsOk f || (f.hdr.nearFlacon && decide (ms.length < 2 * largestTray ms)) ||
    (decide (f.hdr.flaconInterval ≠ 0) && !(enabledWindows f).any (fun w => decide (w.kind = 2))) ||
    (!(s.ownEntries f).isEmpty && (List.range (channels s.cfg)).any (fun c => (s.chan c).fenced))

/-! ### Timeline and refresh (R162, R166) -/

/-- Whether the segments of a channel, in ascending START, tile the step from a tick on; was is the mode in force, none before the first
segment, where either mode may be in force and a bounded segment begins with a TRANSIT. -/
def tilesFrom : List Segment → Nat → Option Bool → Bool
  | [], _, _ => false
  | [x], at', _ => decide (x.start = at') && decide (x.length = 0) && x.proc
  | x :: y :: xs, at', was =>
    decide (x.start = at') && decide (1 ≤ x.length) && (decide (was = some x.proc) || decide (7 ≤ x.length)) &&
      tilesFrom (y :: xs) (at' + x.length) (some x.proc)

/-- Whether the timeline is refused (TIMELINE). -/
def badTimeline (c : Cfg) (f : Formula) : Bool := (List.range (channels c)).any (fun ch => !tilesFrom (segmentsOf f ch) 0 none)

/-- Whether every bounded PROC period that follows MEM holds its TRANSIT and its catch-up refreshes (R22, R165): since is the tick at
which the PROC period began. -/
def catchupFits (need : Nat) : List Segment → Option Nat → Bool
  | [], _ => true
  | x :: xs, since =>
    if x.proc then catchupFits need xs (some (since.getD x.start))
    else (match since with
      | some t => decide (need ≤ 20 * (x.start - t))
      | none => true) && catchupFits need xs none

/-- Whether the refresh cadence is refused (REFRESH). -/
def State.badRefresh (s : State) (f : Formula) (present : Bool) : Bool :=
  !present || !cadenceOk f.cadence s.disc ||
    (List.range (channels s.cfg)).any (fun ch => !catchupFits (tMode + s.disc.nPost * s.disc.tRfcAb) (segmentsOf f ch) none)

/-! ### Slot lists (R107, R113, R172) -/

/-- The passes of a shard in a step. -/
def passPhases (f : Formula) (e : ShardEntry) : List Nat := if twoPhase f e then [1, 2] else [0]

/-- Whether a pass must carry PUBLISH: the only pass of the step that writes a stream (R113). The manual does not say whether a shard of
which no pass writes a stored stream or D is updated in the step: the model asks no PUBLISH for it and admits it (log entry 123). -/
def publishes (f : Formula) (e : ShardEntry) (phase : Nat) : Bool := decide (phase ≠ 1) && decide ((passProg f e phase).outMask ≠ 0)

/-- Whether one list names the passes of its Still, in an order R107 allows, with the right marks. -/
def State.listOk (s : State) (f : Formula) (k : Nat) (l : List SlotEntry) : Bool :=
  let names := l.map (fun (x : SlotEntry) => (x.shard, x.phase))
  let wanted := (f.shards.zipIdx.filter (fun (p : ShardEntry × Nat) => s.owns p.1 && decide (0 < stripeCount s.cfg p.1.n k))).flatMap
    (fun p => (passPhases f p.1).map (fun ph => (p.2, ph)))
  decide (names.Nodup) && wanted.all names.contains && names.all wanted.contains &&
    l.zipIdx.all (fun (x : SlotEntry × Nat) => match shardEntry f x.1.shard with
      | some e => (x.1.publish == publishes f e x.1.phase) &&
          (decide (x.1.phase ≠ 2) || (l.take x.2).any (fun y => decide (y.shard = x.1.shard) && decide (y.phase = 1)))
      | none => false)

/-- Whether two lists name their common passes in one order. -/
def sameOrder (a b : List SlotEntry) : Bool :=
  let key := fun (x : SlotEntry) => (x.shard, x.phase)
  let ka := a.map key
  let kb := b.map key
  decide (ka.filter kb.contains = kb.filter ka.contains)

/-- Whether the slot lists are refused (ORDER); entries is how many entries the section has. -/
def State.badLists (s : State) (f : Formula) (entries : Nat) : Bool :=
  let ls := f.slotLists
  decide (ls.length ≠ logicals s.cfg) || decide ((ls.map (fun l => l.length + 1)).sum ≠ entries) ||
    ls.zipIdx.any (fun p => !s.listOk f p.2 p.1) || ls.any (fun a => ls.any (fun b => !sameOrder a b))

/-! ### Costs (R178, R180, R181), in nanoseconds -/

/-- One cycle of 1.6 GHz. -/
def cycleNs (n : Nat) : ℚ := (5 * n : Nat) / 8

/-- The fold term of a shard (R180). -/
def State.tFold (s : State) (f : Formula) (i : Nat) (e : ShardEntry) : ℚ :=
  let h := hostRanks f i
  let k := h + s.kidsOf f i
  let el := if h = 0 then 512 else e.n
  let n := if k = 0 then 0 else if e.wx then el else k * el
  cycleNs (ceilDiv n (match s.cfg with | .izL => 4096 | .izS => 2048) + 64)

/-- The earliest possible last byte and CLOSE of a shard's envelope (R178). -/
def State.arrival (s : State) (f : Formula) (e : ShardEntry) : ℚ × ℚ :=
  match f.envs[e.envGroup]? with
  | none => (0, 0)
  | some v =>
    let x := envelopeBytes f (s.kidsOf f) e.envGroup - v.burst
    ((20 * v.openTick : Nat) + (if v.rate = 0 then 0 else ((20 * x : Nat) : ℚ) / (v.rate : Nat)), (20 * v.closeTick : Nat))

/-- The sum of the element and scale plane bytes of one buffer of some descriptors, for t elements. -/
def streamBytes (ds : List Desc) (t : Nat) : Nat := (ds.map (fun d => elemPlaneBytes d.fmt t + scalePlaneBytes d.fmt t)).sum

/-- The streams of a pass that move on the stripe's channel group: not the M1 and M2 planes of a shard with SPILL. -/
def movedHere (e : ShardEntry) (ds : List Desc) : List Desc := ds.filter (fun d => !spilled e d)

/-- The pass term (R181). -/
def tPass (c : Cfg) (f : Formula) (e : ShardEntry) (phase : Nat) : ℚ :=
  let p := passProg f e phase
  let t := stripeLen c e.n
  let b := streamBytes (movedHere e (outputDescs f e p)) t +
    (if stripeFits f e p t then 0 else streamBytes (movedHere e (inputDescs f e p)) t)
  cycleNs (max (ceilDiv t 24 * Accord.rate p.w64 p.ops.length) (ceilDiv b 256 + 18 * ceilDiv b 131072))

/-- The pipeline allowance (R180). -/
def tPipe (f : Formula) (e : ShardEntry) (phase : Nat) : ℚ := cycleNs (max 96 (Accord.depth (passProg f e phase).ops))

/-! ### The worst-case waits (R182) -/

/-- A pass placed in a list: its earliest start whatever the passes before it do, its start when it and the passes before it are as early
as they can be, its latest start, its wait, and the time from which the Still is free again. -/
structure Placed where
  still : Nat
  shard : Nat
  phase : Nat
  early : ℚ
  late : ℚ
  soon : ℚ
  start : ℚ
  wait : ℚ
  done : ℚ
deriving DecidableEq, Repr

/-- The completion of a pass's inputs at the earliest and at the latest; aFree is when the shard's phase A became free in the list. R182
lists no values for a phase-A pass under NF_GUARD, which also waits for the count: it takes those of a single-phase pass (log entry 126). -/
def State.inputsAt (s : State) (f : Formula) (i phase : Nat) (e : ShardEntry) (aFree : ℚ) : ℚ × ℚ :=
  let v := s.arrival f e
  let ready := 40 + s.tFold f i e
  let scalar : ℚ × ℚ := (v.1 + ready, v.2 + ready + 7000)
  if phase = 2 then
    if f.hdr.nfGuard then (max aFree scalar.1, max (aFree + 7000) scalar.2) else (aFree, aFree + 7000)
  else if f.hdr.nfGuard then scalar
  else (v.1 + ready, v.2 + ready)

/-- The loop of R182 over one list; freeSoon is the loop's free time with every pass at its earliest. -/
def State.placeList (s : State) (f : Formula) (k : Nat) : List SlotEntry → ℚ → ℚ → List Placed → List Placed
  | [], _, _, acc => acc.reverse
  | x :: xs, free, freeSoon, acc =>
    match shardEntry f x.shard with
    | none => s.placeList f k xs free freeSoon acc
    | some e =>
      let aFree := ((acc.find? (fun p => decide (p.shard = x.shard) && decide (p.phase = 1))).map Placed.done).getD 0
      let t := s.inputsAt f x.shard x.phase e aFree
      let long := tPass s.cfg f e x.phase + tPipe f e x.phase
      let start := max free t.2 + 20
      let soon := max freeSoon t.1 + 20
      s.placeList f k xs (start + long) (soon + long)
        ({ still := k, shard := x.shard, phase := x.phase, early := t.1 + 20, late := t.2, soon := soon, start := start, wait := max 0 (free - t.1),
           done := start + long } :: acc)

/-- Every pass of every list, placed. -/
def State.placed (s : State) (f : Formula) : List Placed :=
  f.slotLists.zipIdx.flatMap (fun p => s.placeList f p.2 p.1 0 0 [])

/-- The largest of a list of times, at least 0. -/
def maxQ (l : List ℚ) : ℚ := l.foldl max 0

/-- The wait of a pass: the longest over the lists. -/
def waitOf (ps : List Placed) (i phase : Nat) : ℚ :=
  maxQ ((ps.filter (fun p => decide (p.shard = i) && decide (p.phase = phase))).map Placed.wait)

/-! ### Bank-pair exclusion (R17, R210) -/

/-- The end of the access interval of a placed pass at its latest position: its window of R397. -/
def State.passEndsAt (s : State) (f : Formula) (p : Placed) (start : ℚ) : ℚ :=
  match shardEntry f p.shard with
  | some e => start + tPass s.cfg f e p.phase + tPipe f e p.phase + 100
  | none => start

/-- Whether some pass can access a channel inside an ATOMIZER reservation of the channel (ORDER). -/
def State.badExclusion (s : State) (f : Formula) (ps : List Placed) : Bool :=
  ps.any (fun p => f.reservations.any (fun (r : Reservation) =>
    decide (r.kind = 3) && decide (field r.chmask (4 * p.still) 4 ≠ 0) &&
      (decide (r.length = 0) || decide (p.early < ((20 * (r.start + r.length) : Nat) : ℚ))) &&
      decide (((20 * r.start : Nat) : ℚ) < s.passEndsAt f p p.start)))

/-! ### Slots (R137, R138) -/

/-- The modelled close of a shard's slot: the latest start of its last pass that reads G, or of its last pass when none does. -/
def State.slotClose (s : State) (f : Formula) (ps : List Placed) (i : Nat) (e : ShardEntry) : ℚ :=
  let mine := ps.filter (fun p => decide (p.shard = i))
  let reading := mine.filter (fun p => (passProg f e p.phase).readsG)
  let readers := if reading.isEmpty then mine else reading
  if s.owns e && !readers.isEmpty then maxQ (readers.map Placed.start) else (s.arrival f e).2 + 40 + s.tFold f i e

/-- Whether the slot plan is refused (SLOTS). The manual names no reason for a shard whose ENV_GROUP lies beyond the envelope section: the
model refuses the Formula here, where its close is first needed (log entry 124). -/
def State.badSlots (s : State) (f : Formula) (ps : List Placed) : Bool :=
  let spans := f.plan.filterMap (fun (p : PlanEntry) => (shardEntry f p.shard).map (fun e =>
    ((((20 * p.openTick : Nat) : ℚ), s.slotClose f ps p.shard e, p.pages) : ℚ × ℚ × Nat)))
  let openAt := fun (t : ℚ) => spans.filter (fun x => decide (x.1 ≤ t) && (decide (t < x.2.1) || decide (x.1 = t)))
  decide (spans.length ≠ f.plan.length) || !decide ((f.plan.map PlanEntry.shard).Nodup) ||
    f.shards.zipIdx.any (fun (p : ShardEntry × Nat) => match planOf f p.2 with
      | some x => decide (x.pages < slotNeed f (s.kidsOf f p.2) p.2 p.1)
      | none => true) ||
    f.shards.any (fun (e : ShardEntry) => decide (f.envs.length ≤ e.envGroup)) ||
    spans.any (fun x => decide (slotLimit s.cfg < (openAt x.1).length) ||
      decide (intakePages s.cfg < landingPages f + ((openAt x.1).map (fun y => y.2.2)).sum))

/-! ### Bandwidth (R397) -/

/-- Of the first n column accesses of a channel group, those of its channel c: two in each run of eight (Table 6-2). -/
def columnsBelow (c n : Nat) : Nat := n / 8 * 2 + min 2 (n % 8 - 2 * c)

/-- Column accesses of channel c of a group that a range of channel-group addresses needs. -/
def columnsOf (c : Nat) (r : Nat × Nat) : Nat :=
  if r.2 = 0 then 0 else columnsBelow c ((r.1 + r.2 - 1) / 32 + 1) - columnsBelow c (r.1 / 32)

/-- Column accesses of channel c that some descriptors' planes need for t elements. -/
def streamColumns (c t : Nat) (ds : List Desc) : Nat :=
  (ds.map (fun d => columnsOf c (d.ebase0, elemPlaneBytes d.fmt t) + columnsOf c (d.sbase0, scalePlaneBytes d.fmt t))).sum

/-- A window of ticks [first, last) with the accesses that it spreads; one that holds no tick demands nothing. -/
structure Demand where
  first : Nat
  last : Nat
  count : Nat
deriving DecidableEq, Repr

/-- The window from one time to another. -/
def demandOf (a b : ℚ) (count : Nat) : Demand := ⟨(a / 20).floor.toNat, (b / 20).ceil.toNat, count⟩

/-- The slots that a window demands in a tick. -/
def Demand.slots (d : Demand) (t : Nat) : ℚ := if d.first ≤ t ∧ t < d.last then (d.count : ℚ) / ((d.last - d.first : Nat) : ℚ) else 0

/-- When the prefetch window of a placed pass begins in one placement (pos): at its PREFETCH tick or, with PREFETCH 0xFFFF, when the
shard's pass before it in the step has committed a stream that it reads (R107). Where R107 allows the read since an earlier step, whose
open-ended segment has no fixed number of ticks, the window is taken from the anchor (log entry 98). -/
def State.prefetchFrom (s : State) (f : Formula) (ps : List Placed) (pos : Placed → ℚ) (p : Placed) (e : ShardEntry) : ℚ :=
  let tick := (((slotList f p.still).find? (fun (x : SlotEntry) => decide (x.shard = p.shard) && decide (x.phase = p.phase))).map
    SlotEntry.prefetch).getD 0xFFFF
  if tick ≠ 0xFFFF then ((20 * tick : Nat) : ℚ)
  else
    let reads := (inputDescs f e (passProg f e p.phase)).map Desc.stream
    ((ps.find? (fun a => decide (a.still = p.still) && decide (a.shard = p.shard) && decide (a.phase = 1) && decide (p.phase = 2) &&
      (outputDescs f e (passProg f e a.phase)).any (fun d => reads.contains d.stream))).map (fun a => s.passEndsAt f a (pos a))).getD 0

/-- The windows of a placed pass on channel c of its group in one placement (R397): its prefetch, empty when the stripe streams, and the
pass. -/
def State.passDemands (s : State) (f : Formula) (ps : List Placed) (pos : Placed → ℚ) (c : Nat) (p : Placed) : List Demand :=
  match shardEntry f p.shard with
  | none => []
  | some e =>
    let g := passProg f e p.phase
    let t := stripeCount s.cfg e.n p.still
    let fits := stripeFits f e g t
    let reads := streamColumns c t (movedHere e (inputDescs f e g))
    let writes := streamColumns c t (movedHere e (outputDescs f e g)) + (if fits then 0 else reads)
    [demandOf (s.prefetchFrom f ps pos p e) (pos p) (if fits then reads else 0), demandOf (pos p) (s.passEndsAt f p (pos p)) writes]

/-- The ticks at which catch-up refreshes are issued on a channel, one on each pseudo-channel (R165). -/
def State.catchupTicks (s : State) (f : Formula) (ch : Nat) : List Nat :=
  let xs := segmentsOf f ch
  let entries := (xs.zip ({ chmask := 0, start := 0, length := 0, proc := false } :: xs)).filter (fun (p : Segment × Segment) => p.1.proc && !p.2.proc)
  entries.flatMap (fun p => (List.range s.disc.nPost).map (fun i => p.1.start + 6 + i * s.disc.tRfcAb / 20))

/-- The foreground slots of a channel in a tick: each window, early or late, counts once where it holds the tick in either placement. -/
def foreground (ds : List (Demand × Demand)) (t : Nat) : ℚ := (ds.map (fun d => max (d.1.slots t) (d.2.slots t))).sum

/-- Whether a channel's foreground demand exceeds its slots in some tick. One refresh may stand in any tick, since refresh periods are not
tied to anchors (R164). Demand is constant between the starts and the ends of windows, so those ticks and the catch-up ticks decide. -/
def overfull (cs : List Nat) (ds : List (Demand × Demand)) : Bool :=
  (ds.flatMap (fun d => [d.1.first, d.1.last, d.2.first, d.2.last]) ++ cs).any (fun t =>
    decide (((64 - (1 + 2 * (cs.filter (fun x => decide (x = t))).length) : Nat) : ℚ) < foreground ds t))

/-- Whether a channel is overfull with the windows at their earliest and at their latest positions taken together (BANDWIDTH). -/
def State.channelOverfull (s : State) (f : Formula) (ps : List Placed) (ch : Nat) : Bool :=
  let mine := ps.filter (fun p => decide (p.still = ch / 4))
  let ds := fun (pos : Placed → ℚ) => mine.flatMap (s.passDemands f ps pos (ch % 4))
  overfull (s.catchupTicks f ch) ((ds Placed.soon).zip (ds Placed.start))

/-- Whether the bandwidth is refused. -/
def State.badBandwidth (s : State) (f : Formula) (ps : List Placed) : Bool :=
  (List.range (channels s.cfg)).any (s.channelOverfull f ps)

/-! ### Bounds (R184) -/

/-- B0(n). -/
def baseBound (c : Cfg) (n : Nat) : ℚ :=
  1000 + ((5 * (n - 65536) : Nat) : ℚ) / (match c with | .izL => 1536 | .izS => 768)

/-- The spill term (R187): W / SPILL_RATE in MB/s, and two latencies. -/
def State.tSpill (s : State) (f : Formula) (e : ShardEntry) : ℚ :=
  if e.spill && decide (f.hdr.spillRate ≠ 0) then
    ((1000 * momentBytes s.cfg f e : Nat) : ℚ) / (f.hdr.spillRate : Nat) + ((2 * f.hdr.spillLat : Nat) : ℚ)
  else 0

/-- The stall of the MEM segments of a shard's groups that overlap an interval (R184). -/
def State.tWin (s : State) (f : Formula) (e : ShardEntry) (a b : ℚ) : ℚ :=
  let mask := (stillsOf s.cfg e.n).foldl (fun m k => m + 15 * 2 ^ (4 * k)) 0
  let hits := f.timeline.filter (fun (x : Segment) => !x.proc && decide (Nat.land x.chmask mask ≠ 0) && decide (x.length ≠ 0) &&
    decide (((20 * x.start : Nat) : ℚ) < b) && decide (a < ((20 * (x.start + x.length) : Nat) : ℚ)))
  if hits.isEmpty then 0
  else ((20 * hits.foldl (fun m x => max m x.length) 0 + tMode + s.disc.nPost * s.disc.tRfcAb : Nat) : ℚ)

/-- T with its stall, which depends on T itself: it grows at most once for each MEM segment. -/
def State.stalled (s : State) (f : Formula) (e : ShardEntry) (base : ℚ) : Nat → ℚ → ℚ
  | 0, t => t
  | n + 1, t => s.stalled f e base n (base + s.tWin f e (s.arrival f e).1 ((s.arrival f e).2 + t))

/-- The bound of an owned shard, in whole nanoseconds. A pass that counts from a scalar has no t_chk and no t_fold (R182). -/
def State.boundOf (s : State) (f : Formula) (ps : List Placed) (i : Nat) (e : ShardEntry) : Nat :=
  let phase := if twoPhase f e then 2 else 0
  let scalar := decide (phase = 2) || f.hdr.nfGuard
  let base := (if scalar then 0 else 40 + s.tFold f i e) + waitOf ps i phase + 20 + tPass s.cfg f e phase + tPipe f e phase + 100 + 20 +
    (s.disc.tRfcPb : ℚ) + s.tSpill f e
  (max (baseBound s.cfg e.n) (s.stalled f e base (f.timeline.length + 1) base)).ceil.toNat

/-- The bounds by shard id, 0 for shards not owned. -/
def State.boundsOf (s : State) (f : Formula) (ps : List Placed) : List Nat :=
  f.shards.zipIdx.map (fun (p : ShardEntry × Nat) => if s.owns p.1 then s.boundOf f ps p.2 p.1 else 0)

/-! ### Fit options (R191, Table 6-21) -/

/-- A fit option: KIND, PARAM, bytes left free, the shards that it names, the worst bound and the partner's bytes. -/
structure FitOption where
  kind : Nat
  param : Nat := 0
  slack : Nat
  named : List Nat := []
  bound : Nat := 0
  partner : Nat := 0
deriving DecidableEq, Repr

/-- The bytes of the near map of the owned shards whose id is a multiple of s, over all groups (R281). -/
def State.nearEstimate (s : State) (f : Formula) (spacing : Nat) : Nat :=
  let t := s.trying f
  logicals s.cfg * ((t.ownedShards.filter (fun i => decide (i % spacing = 0))).map (fun i => match shardEntry f i with
    | some e => (nearStreams s.cfg i e.n (storedStreams f e) 0).2
    | none => 0)).sum

/-- Insert by ascending CLOSE; entries come in ascending id, so ties stay in id order. -/
def insertClose (x : Nat × Nat) : List (Nat × Nat) → List (Nat × Nat)
  | [] => [x]
  | y :: ys => if x.2 < y.2 then x :: y :: ys else y :: insertClose x ys

/-- The shards that the SPILL option names, and the bytes that they free: the first that cover a deficit. -/
def coverDeficit (bytes : Nat → Nat) (deficit : Nat) : List Nat → Nat → List Nat × Nat
  | [], got => ([], got)
  | i :: is, got =>
    if deficit ≤ got then ([], got)
    else
      let r := coverDeficit bytes deficit is (got + bytes i)
      (i :: r.1, r.2)

/-- The Formula with SPILL set in some shards. -/
def Formula.withSpill (f : Formula) (named : List Nat) : Formula :=
  { f with shards := f.shards.zipIdx.map (fun (p : ShardEntry × Nat) => if named.contains p.2 then { p.1 with spill := true } else p.1) }

/-- The worst bound of some shards under SPILL; not computed when the window table, the timeline, the refresh entry or
the slot lists would be refused. -/
def State.spillBound (s : State) (f : Formula) (entries : Nat) (refresh : Bool) (named : List Nat) : Nat :=
  if !s.windowsOk f || badTimeline s.cfg f || s.badRefresh f refresh || s.badLists f entries then 0xFFFFFFFF
  else
    let g := Formula.withSpill f named
    let ps := s.placed g
    named.foldl (fun a i => match shardEntry g i with
      | some e => max a (s.boundOf g ps i e)
      | none => a) 0

/-- The options that make a Formula fit. PARAM has 16 bits: the manual does not say what SPLIT reports for an engine count beyond them, and
the model leaves the option out (log entry 127). -/
def State.fitOptions (s : State) (f : Formula) (entries : Nat) (refresh : Bool) : List FitOption :=
  let req := s.required f
  let avail := s.available f
  let h := f.hdr
  let far := req - h.nearMib * 2 ^ 20
  let spacing := [2, 4, 8].find? (fun x => decide (far + s.nearEstimate f x ≤ avail))
  let bytes := fun (i : Nat) => ((shardEntry f i).map (momentBytes s.cfg f)).getD 0
  let cands := (s.trying f).ownedShards.filter (fun i => decide (bytes i ≠ 0) && !((shardEntry f i).map ShardEntry.spill).getD true)
  let close := fun (i : Nat) => ((shardEntry f i).bind (fun e => f.envs[e.envGroup]?)).map EnvEntry.closeTick |>.getD 0
  let order := (cands.foldl (fun l i => insertClose (i, close i) l) []).map Prod.fst
  let cover := coverDeficit bytes (req - avail) order 0
  let engines := ceilDiv req avail
  (if h.nearFlacon && decide (far ≤ avail) then [{ kind := 1, slack := avail - far }] else []) ++
  (match h.nearFlacon, spacing with
   | true, some x => [{ kind := 2, param := x, slack := avail - (far + s.nearEstimate f x) }]
   | _, _ => []) ++
  (if h.spillRate ≠ 0 ∧ req - avail ≤ cover.2 then
     [{ kind := 3, slack := avail - (req - cover.2), named := cover.1, bound := s.spillBound f entries refresh cover.1, partner := cover.2 }]
   else []) ++
  (if 0 < avail ∧ engines < 2 ^ 16 then [{ kind := 4, param := engines, slack := avail - ceilDiv req engines }] else [])

end Sys2Proof.Machine
end

