-- ==== Sys2Proof/Machine/Bundle.lean ====
section
/-! DEFINITION. Firmware bundles: the manifest, the checks of R362 in their order, and the compatibility of image sets (R361, R368). -/

namespace Sys2Proof.Machine

open Sys2Proof.Bits
open Sys2Proof.Hash

/-! ### Firmware status codes (Table 13-9) -/

def fwFormat : Nat := 0x0040
def fwTarget : Nat := 0x0041
def fwKey : Nat := 0x0042
def fwSignature : Nat := 0x0043
def fwRollback : Nat := 0x0044
def fwCrc : Nat := 0x0045
def fwHash : Nat := 0x0046
def fwCompat : Nat := 0x0047
def fwNoImage : Nat := 0x0048
def fwProbation : Nat := 0x0049
def fwFuse : Nat := 0x004A
def fwSlot : Nat := 0x004B
def fwStagingOff : Nat := 0x004C

/-! ### The manifest (Tables 13-7, 13-8) -/

/-- The first n bytes of a byte string as a little-endian number. -/
def headVal (n : Nat) (bs : List Byte) : Nat := leVal (bs.take n)

/-- A manifest as a number of 4,096 bits. -/
def manifestOf (bs : List Byte) : Nat := headVal 512 bs

def mTarget (m : Nat) : Nat := field m 48 8
def mKeySlot (m : Nat) : Nat := field m 56 1
def mRevokeOther (m : Nat) : Bool := bit m 57
def mSvn (m : Nat) : Nat := field m 64 8
def mSettingsFmt (m : Nat) : Nat := field m 72 8
def mHandoverFmt (m : Nat) : Nat := field m 80 8
def mVersion (m : Nat) : Nat := field m 96 24
def mLen (m : Nat) : Nat := field m 128 32
def mBlocks (m : Nat) : Nat := field m 160 16

/-- Image entry i of a manifest, 512 bits. -/
def mImage (m i : Nat) : Nat := field m (1792 + 512 * i) 512

def iKind (e : Nat) : Nat := field e 0 8
def iPresent (e : Nat) : Bool := bit e 8
def iVersion (e : Nat) : Nat := field e 16 24
def iIface (e : Nat) : Nat := field e 40 8
def iOffset (e : Nat) : Nat := field e 64 32
def iLength (e : Nat) : Nat := field e 96 32
def iHash (e : Nat) : Nat := field e 128 384

/-- The length limit of an image kind (R361); 0 for a reserved kind. -/
def kindLimit (k : Nat) : Nat :=
  if k = 1 then 786432 else if k = 2 then 32768 else if k = 3 then 16384 else 0

/-- Bit ranges of a number that must be 0, as pairs of first bit and width: the byte offset of the first nonzero one. -/
def firstSet (m : Nat) : List (Nat × Nat) → Option Nat
  | [] => none
  | (lo, n) :: r => if field m lo n = 0 then firstSet m r else some ((lo + lowestBit (field m lo n) n 0) / 8)

/-- The reserved fields of the manifest proper (Table 13-7). -/
def manifestReserved : List (Nat × Nat) := [(58, 6), (88, 8), (120, 8), (176, 848)]

/-- Check 1 for one image entry, at manifest byte 224 + 64 i (Table 13-8, R361): the byte offset of the first fault. -/
def entryFault (m i : Nat) (kinds : List Nat) : Option Nat :=
  let e := mImage m i
  let base := 224 + 64 * i
  match firstSet e [(9, 7), (48, 16)] with
  | some o => some (base + o)
  | none =>
    if !iPresent e then (if e = 0 then none else some base)
    else if kindLimit (iKind e) = 0 ∨ kinds.contains (iKind e) then some base
    else if iOffset e % 4096 ≠ 0 ∨ iOffset e < 4096 then some (base + 8)
    else if iLength e = 0 then some base
    else if kindLimit (iKind e) < iLength e ∨ mLen m < iOffset e + iLength e then some (base + 12)
    else none

/-- The present image entries of a manifest. -/
def mPresent (m : Nat) : List Nat := ([0, 1, 2].map (mImage m)).filter iPresent

/-- Whether the 4 KiB ranges of two image entries overlap (R361: each begins at its own multiple of 4 KiB). -/
def entriesClash (a b : Nat) : Bool :=
  overlap (iOffset a) (roundUp (iLength a) 4096) (iOffset b) (roundUp (iLength b) 4096)

/-- Check 1 of R362 on the first 4 KiB of a bundle of which avail bytes can be read: the byte offset of the first fault. -/
def formatFault (bs : List Byte) (avail : Nat) : Option Nat :=
  let m := manifestOf bs
  if field m 0 32 ≠ 0x42444E4C then some 0
  else if field m 32 16 ≠ 3 then some 4
  else if field m 58 6 ≠ 0 then some 7
  else if 64 < mSvn m then some 8
  else match firstSet m manifestReserved with
    | some o => some o
    | none =>
      if mLen m < 8192 ∨ 839680 < mLen m ∨ avail < mLen m then some 16
      else if mLen m ≠ 4096 * (mBlocks m + 1) then some 20
      else if headVal (4096 - 512 - 4 * mBlocks m) (bs.drop (512 + 4 * mBlocks m)) ≠ 0 then some 20
      else
        let k0 := if iPresent (mImage m 0) then [iKind (mImage m 0)] else []
        let k1 := if iPresent (mImage m 1) then iKind (mImage m 1) :: k0 else k0
        match entryFault m 0 [], entryFault m 1 k0, entryFault m 2 k1 with
        | some o, _, _ => some o
        | none, some o, _ => some o
        | none, none, some o => some o
        | none, none, none =>
          if (mPresent m).isEmpty then some 224
          else if iPresent (mImage m 0) && iPresent (mImage m 1) && entriesClash (mImage m 0) (mImage m 1) then some (224 + 64 + 8)
          else if iPresent (mImage m 2) && ((iPresent (mImage m 0) && entriesClash (mImage m 0) (mImage m 2)) ||
              (iPresent (mImage m 1) && entriesClash (mImage m 1) (mImage m 2))) then some (224 + 128 + 8)
          else none

/-- The public key bytes and the signature of a manifest. -/
def pubKeyBytes (bs : List Byte) : List Byte := slice bs 128 96
def sigR (bs : List Byte) : Nat := beVal (slice bs 416 48)
def sigS (bs : List Byte) : Nat := beVal (slice bs 464 48)

/-- The TARGET codes that name a configuration. -/
def targetOk (c : Cfg) (t : Nat) : Bool := decide (t = 3) || decide (t = (match c with | .izL => 1 | .izS => 2))

/-- Check 6: the first block whose CRC differs (R361). -/
def crcFault (bs : List Byte) : Nat → Nat → Option Nat
  | 0, _ => none
  | n + 1, i => if crc32c (slice bs (4096 * i) 4096) = leVal (slice bs (512 + 4 * (i - 1)) 4) then crcFault bs n (i + 1) else some i

/-- Check 7: the kind of the first present image whose HASH differs. -/
def hashFault (bs : List Byte) (m : Nat) : Option Nat :=
  ((mPresent m).find? (fun e => decide (leVal (sha384 (slice bs (iOffset e) (iLength e))) ≠ iHash e))).map iKind

/-- Table 13-12: whether the interfaces of a set of three images agree; the kind that breaks the set, if any. -/
def compatFault (mc cs st : Option Nat) : Option Nat :=
  match mc with
  | none => some 1
  | some a =>
    if a ≠ 0x20 ∧ a ≠ 0x21 ∧ a ≠ 0x22 then some 1
    else match cs with
      | none => some 2
      | some b =>
        if !((decide (b = 0x11) && decide (a ≤ 0x21)) || (decide (b = 0x12) && decide (0x21 ≤ a))) then some 2
        else match st with
          | none => some 3
          | some c => if (decide (c = 0x08) && decide (a ≤ 0x21)) || (decide (c = 0x09) && decide (0x21 ≤ a)) then none else some 3

/-- The images that a bundle brings. -/
def bundleImages (bs : List Byte) : List Image :=
  (mPresent (manifestOf bs)).map (fun e =>
    { kind := iKind e, version := iVersion e, iface := iIface e, bytes := slice bs (iOffset e) (iLength e), manifest := bs.take 4096 })

/-- The images of a slot that takes a bundle: in piecewise mode those that the bundle lacks come from the active slot (R368). -/
def slotImages (bundled : Bool) (bs : List Byte) (active : List Image) : List Image :=
  let b := bundleImages bs
  b ++ (if bundled then [] else active.filter (fun (i : Image) => !b.any (fun (j : Image) => decide (j.kind = i.kind))))

/-- The interface of a kind in a set of images. -/
def ifaceOf (is : List Image) (k : Nat) : Option Nat := (is.find? (fun (i : Image) => decide (i.kind = k))).map Image.iface

/-- The latched hash of a key slot, none when the slot is unusable. -/
def Fuses.key (f : Fuses) (slot : Nat) : Option Nat := if slot = 0 then f.key0 else f.key1

/-- Whether the lock word has a bit (Table 13-4). -/
def Fuses.locked (f : Fuses) (i : Nat) : Bool := bit f.lock i

/-- UPD_BUNDLED. -/
def Fuses.bundled (f : Fuses) : Bool := f.locked 2

/-- The checks of R362 in order, over the bytes of a bundle, of which avail bytes could be read, with the images of the active slot: the
status and its detail when one fails. -/
def bundleFault (c : Cfg) (f : Fuses) (bs : List Byte) (avail : Nat) (active : List Image) : Option (Nat × Nat) :=
  let m := manifestOf bs
  match formatFault bs avail with
  | some o => some (fwFormat, o)
  | none =>
    if !targetOk c (mTarget m) then some (fwTarget, 0)
    else if f.key (mKeySlot m) ≠ some (leVal (sha384 (pubKeyBytes bs))) then some (fwKey, mKeySlot m)
    else if !ecdsaVerify (beVal (slice bs 128 48)) (beVal (slice bs 176 48)) (bs.take 416) (sigR bs) (sigS bs) then some (fwSignature, 0)
    else if mSvn m < f.arb then some (fwRollback, f.arb)
    else match crcFault bs (mBlocks m) 1 with
      | some i => some (fwCrc, i)
      | none => match hashFault bs m with
        | some k => some (fwHash, k)
        | none =>
          let is := slotImages f.bundled bs active
          match compatFault (ifaceOf is 1) (ifaceOf is 2) (ifaceOf is 3) with
          | some k => some (fwCompat, k)
          | none => none

end Sys2Proof.Machine
end

