-- ==== Sys2Proof/Machine/Registers.lean ====
section
/-! DEFINITION. The drain of the Blotter (R288), and the SMP registers that have rows of their own: time, event queue, egress
acknowledge, staging, interrupt mask (R307, R330 to R332, R343). -/

namespace Sys2Proof.Machine

open Sys2Proof.Bits

/-! ### The Blotter's drain (R288) -/

/-- The channel that holds the ring slot of a record. -/
def State.ringChannel (s : State) (r : Nat) : Nat :=
  let a := ringAddr s.blotter r
  chanOf (groupOf s.cfg a) (cgAddr s.cfg a)

/-- The oldest record that is not drained, past the ranges that never reached the ring. -/
def Blotter.front (b : Blotter) : Nat :=
  b.gaps.foldl (fun d (g : Nat × Nat) => if g.1 ≤ d ∧ d ≤ g.2 then g.2 + 1 else d) b.drained

/-- Make room in the ring for record r: while r less the drained point equals the ring's slots, the oldest undrained record, with its
body when it is a prefix, is lost (R288, R289). -/
def State.overwrite (s : State) (r : Nat) : State :=
  let d := s.blotter.front
  if d + ringSlots s.blotter ≤ r then
    let n := if s.dramByte (ringAddr s.blotter d) = 0x08 then 2 else 1
    let join := s.blotter.lost.any (fun (g : Nat × Nat) => decide (g.2 + 1 = d))
    { s with blotter := { s.blotter with
        drained := d + n
        lost := if join then s.blotter.lost.map (fun (g : Nat × Nat) => if g.2 + 1 = d then (g.1, d + n - 1) else g)
                else (d, d + n - 1) :: s.blotter.lost } }
  else s

/-- Move a record from the buffer into the ring. -/
def State.moveRecord (s : State) (r : Nat) (bs : List Byte) : State :=
  let s := (s.overwrite r).writeDram (ringAddr s.blotter r) bs
  { s with blotter := { s.blotter with
      buffer := s.blotter.buffer.drop 1
      inRing := r + 1
      gaps := s.blotter.gaps.filter (fun (g : Nat × Nat) => decide (r < g.2 + ringSlots s.blotter)) } }

/-- Move records in RSEQ order, as long as the channel of the next one is in PROC or TRANSIT and nothing that goes first claims it (R16). -/
def State.moveRecords : Nat → State → State
  | 0, s => s
  | n + 1, s =>
    match s.blotter.buffer with
    | [] => s
    | (r, bs) :: _ => if s.backgroundOpen (s.ringChannel r) then State.moveRecords n (s.moveRecord r bs) else s

/-- Write an overrun record for each lost range, before the next record is drained. -/
def Blotter.overrun (b : Blotter) (step : Nat) : Nat → Blotter
  | 0 => b
  | n + 1 =>
    match b.lost with
    | [] => b
    | (f, l) :: rest =>
      if b.buffer.length < 4096 then
        (({ b with lost := rest }).push (blotRecord 0x06 0 step (f % 2 ^ 64 + l % 2 ^ 64 * 2 ^ 64))).overrun step n
      else b

/-- BLOTTER_DRAIN: the MC moves buffered records into the ring and writes overrun records (R288). -/
def execBlotterDrain (s : State) : Res :=
  act s (fun s => when s.formula.isSome (fun s =>
    let s := s.moveRecords s.blotter.buffer.length
    { s with blotter := s.blotter.overrun s.run.lastStep s.blotter.lost.length }) s)

/-! ### Time, events and interrupt mask -/

/-- SM_TIME_LO_READ: the low word, and the latch of the high word (R330). -/
def execSmTimeLoRead (s : State) : Res :=
  act s (fun s => when s.smpOpen (fun s =>
    (s.modSmp (fun m => { m with timeHi := BitVec.ofNat 32 (s.time / 2 ^ 32) })).readReg 0x10) s)

/-- Remove the head event; when events were dropped, EVQ_OVERFLOW takes the room (R343). -/
def State.popEvent (s : State) : State :=
  let d := s.smp.dropped
  let s := s.modSmp (fun m => { m with events := m.events.drop 1 })
  if d = 0 then s else (s.modSmp (fun m => { m with dropped := 0 })).post 0x0003 6 7 d 0 0

/-- A write of SM_EVQ_POP. -/
def State.writeEvqPop (s : State) (w : Nat) : State :=
  (if bit w 0 then s.popEvent else s).answer 0 (reservedBits .evqPop w)

/-- SM_EVQ_POP. -/
def execSmEvqPop (w : Word32) (s : State) : Res := act s (fun s => when s.smpOpen (fun s => s.writeEvqPop w.toNat) s)

/-- A write of SM_IRQ_MASK (R307). -/
def State.writeIrqMask (s : State) (w : Nat) : State :=
  (s.modSmp (fun m => { m with irqMask := BitVec.ofNat 7 w })).answer 0 (reservedBits .irqMask w)

/-- SM_IRQ_MASK_WRITE. -/
def execSmIrqMaskWrite (w : Word32) (s : State) : Res := act s (fun s => when s.smpOpen (fun s => s.writeIrqMask w.toNat) s)

/-! ### Staging (R332) -/

/-- A write of SM_STAGE_BASE or SM_STAGE_MIB: ignored with SM_ERR while a Formula is admitted. -/
def State.writeStage (s : State) (mib : Bool) (w : Nat) : State :=
  if s.formula.isSome then s.answer 0 true
  else if mib then (s.modSmp (fun m => { m with stageMib := BitVec.ofNat 21 w })).answer 0 (reservedBits .stageMib w)
  else (s.modSmp (fun m => { m with stageBase := BitVec.ofNat 20 w })).answer 0 (reservedBits .stageBase w)

/-- SM_STAGE_WRITE. -/
def execSmStageWrite (mib : Bool) (w : Word32) (s : State) : Res :=
  act s (fun s => when s.smpOpen (fun s => s.writeStage mib w.toNat) s)

/-- The first byte of the staging region and its length. -/
def State.stageStart (s : State) : Nat := s.smp.stageBase.toNat * 2 ^ 20
def State.stageLen (s : State) : Nat := s.smp.stageMib.toNat * 2 ^ 20

/-- Whether a request pointer and its range of n bytes are valid (R332). -/
def State.pointerOk (s : State) (p n : Nat) : Bool :=
  decide (p % 64 = 0) && decide (s.stageStart ≤ p) && decide (p + n ≤ s.stageStart + s.stageLen) && decide (p + n ≤ s.capacity)

/-! ### Egress acknowledge (R246, R331) -/

/-- Whether window w of the admitted Formula is an enabled EGRESS window that is not fenced. -/
def State.egressOpen (s : State) (w : Nat) : Bool :=
  match s.form.windows[w]? with
  | some e => s.formula.isSome && e.enable && decide (e.kind = 2) && !(s.win w).fenced
  | none => false

/-- A write of SM_EGR_ACK. -/
def State.writeEgrAck (s : State) (v : Nat) : State :=
  let w := field v 24 8
  let x := s.win w
  let adv := (field v 0 24 + 2 ^ 24 - x.consumed % 2 ^ 24) % 2 ^ 24
  let lead := (x.returned % 2 ^ 24 + 2 ^ 24 - x.consumed % 2 ^ 24) % 2 ^ 24
  if !s.present 1 then s.answer 0 true
  else if s.egressOpen w && decide (adv ≤ lead) then
    ((s.modWin w (fun x => { x with consumed := x.consumed + adv })).emissionCheck.egressFree).answer 0 false
  else (s.count 6 0 2 1).answer 0 true

/-- SM_EGR_ACK. -/
def execSmEgrAck (w : Word32) (s : State) : Res := act s (fun s => when s.smpOpen (fun s => s.writeEgrAck w.toNat) s)

end Sys2Proof.Machine
end

