-- ==== Sys2Proof/Machine/Fences.lean ====
section
/-! DEFINITION. The fence of a channel (R385), and the reads of the fuse array: MARGINAL words and their resolution (R354 to R358), the
stack descriptor and discovery (R359). -/

namespace Sys2Proof.Machine

open Sys2Proof.Bits
open Sys2Proof.Hash

/-! ### The fence of a channel (R385) -/

/-- The programs of the steps in progress that have work on a channel and have not finished there. -/
def State.programsOn (s : State) (ch : Nat) : List (AtmProgram × Nat) :=
  s.anchoredSteps.flatMap (fun n => (s.form.programs.filter (fun (p : AtmProgram) => bit p.chmask ch &&
    !bit (((s.atmResult p.prog n).map AtmResult.chDone).getD 0) ch)).map (fun p => (p, n)))

/-- The shards that the fence of a channel poisons: those with a stripe in its group, and those that a program writes through an operand
on the channel. -/
def State.channelShards (s : State) (ch : Nat) : List Nat :=
  let striped := s.ownedShards.filter (fun i => match shardEntry s.form i with
    | some e => decide (0 < stripeCount s.cfg e.n (ch / 4))
    | none => false)
  let written := (s.form.programs.filter (fun (p : AtmProgram) => bit p.chmask ch)).flatMap (fun p =>
    (writtenOperands p).filterMap (fun j => (p.operands[j]?).map AtmOperand.shard))
  striped ++ (s.ownedShards.filter (fun i => written.contains i && !striped.contains i))

/-- What the fence of a channel does: TRANSIT to MEM, the Atomizer bus idle, shards of the step in progress poisoned, no further anchor. -/
def State.fenceChannel (s : State) (ch : Nat) : State :=
  if (s.chan ch).fenced then s
  else
    let s := s.transit ch .toMem
    let s := s.modChan ch (fun c => { c with fenced := true })
    let s := s.modAtm ch (fun a => { a with seg := none })
    if s.formula.isNone then s
    else
      let s := { s with anchorBlocked := true }
      let s := if s.run.anchored then eachIn (s.channelShards ch) (fun s i => if s.shardBad i then s else s.poisonQuiet i) s else s
      eachIn (s.programsOn ch) (fun s w =>
        (s.modResult w.1.prog w.2 (fun r => { r with refused := true })).channelsDone w.1 w.2 (2 ^ ch)) s

/-! ### Reads of a fuse word (R311, R356) -/

/-- The bits that differ among values. -/
def differing : List Nat → Nat
  | [] => 2 ^ 32 - 1
  | x :: xs => xs.foldl (fun a y => Nat.lor a (Nat.xor x y)) 0

end Sys2Proof.Machine

namespace Sys2Proof

open Sys2Proof.Bits
open Sys2Proof.Machine

/-- The reads of a word that were answered: normal, low, high. -/
def FuseReads.answers (r : FuseReads) : List Nat := [r.normal, r.low, r.high].filterMap (fun o => o.map BitVec.toNat)

/-- The marginal bits of a word; base: the normal-margin value of the boot read in a re-read. -/
def FuseReads.bits (r : FuseReads) (base : Option Nat) : Nat :=
  let d := differing r.answers
  match r.normal, base with
  | some v, some b => Nat.lor d (Nat.xor v.toNat b)
  | _, _ => d

/-- Whether a word is MARGINAL (R356). -/
def FuseReads.marginal (r : FuseReads) (base : Option Nat) : Bool := decide (r.bits base ≠ 0) || decide (r.answers.length < 3)

/-- The value of a word: its normal-margin read, else any read. -/
def FuseReads.value (r : FuseReads) : Nat :=
  match r.normal with
  | some v => v.toNat
  | none => r.answers.headD 0

end Sys2Proof

namespace Sys2Proof.Machine

open Sys2Proof.Bits
open Sys2Proof.Hash

/-- The class of a fuse word (Table 13-2): 0 K, 1 A, 2 R, 3 T; none for the reserved words. -/
def fuseClass (w : Nat) : Option Nat :=
  if w ≤ 2 then some 1 else if w ≤ 50 then some 0 else if w ≤ 58 then some 2 else if w ≤ 90 then some 3
  else if w ≤ 106 then some 0 else none

/-- The reads of a word in a list of reads. -/
def wordReads (fs : List FuseReads) (w : Nat) : FuseReads := fs.getD w ⟨none, none, none⟩

/-- A class A word: its marginal bits read burned (Table 13-3). -/
def wordA (fs : List FuseReads) (w : Nat) : Nat := Nat.lor (wordReads fs w).value ((wordReads fs w).bits none)

/-- n words from lo as one little-endian number. -/
def wordsVal (fs : List FuseReads) (lo n : Nat) : Nat :=
  (List.range n).foldl (fun a i => a + (wordReads fs (lo + i)).value * 2 ^ (32 * i)) 0

/-- Whether one of n words from lo is MARGINAL. -/
def anyMarginal (fs : List FuseReads) (lo n : Nat) : Bool := (List.range n).any (fun i => (wordReads fs (lo + i)).marginal none)

/-- A clean copy of a class K item. -/
def copyOf (fs : List FuseReads) (lo n : Nat) : Option Nat := if anyMarginal fs lo n then none else some (wordsVal fs lo n)

/-- A class K item from its two copies (Table 13-3). -/
def itemOf (a b : Option Nat) : Option Nat :=
  let v := match a, b with
    | some x, some y => if x = y then some x else none
    | some x, none => some x
    | none, y => y
  match v with
  | some 0 => none
  | v => v

/-- The bits of a word that read 1 at all three margins. -/
def wordBurned (r : FuseReads) : Nat :=
  match r.normal, r.low, r.high with
  | some a, some b, some c => Nat.land a.toNat (Nat.land b.toNat c.toNat)
  | _, _, _ => 0

/-! ### The repair and spare map (Tables 13-3, 13-5) -/

/-- The units that a MARGINAL repair word fences: unit kind and index (Table 14-4). -/
def repairUnits (c : Cfg) (w : Nat) (r : FuseReads) (base : Option Nat) : List (Nat × Nat) :=
  let m := r.bits base
  if w = 51 then (List.range (physicals c)).filterMap (fun i => if bit m i then some (1, i) else none)
  else if w = 52 then (List.range (channels c)).filterMap (fun i => if bit m i then some (2, i) else none)
  else
    let arrays := [0, 1].flatMap (fun h =>
      if field m (16 * h) 16 = 0 then []
      else if r.answers.isEmpty then List.range 16
      else (r.answers.filter (fun v => bit v (16 * h + 15))).map (fun v => field v (16 * h + 11) 4))
    arrays.dedup.filterMap (fun a => if a < physicals c then some (1, a) else if a = 9 ∨ a = 10 then some (0x000C, a - 9) else none)

/-- Fence one unit of a MARGINAL repair word (class F, REPAIR_MARGINAL); by word 51 a Still is fenced by STILL_OFF, by word 52 a channel
by CHAN_OFF. -/
def State.fenceRepair (s : State) (w : Nat) (u : Nat × Nat) : State :=
  let e : ErrSpec := { code := 0x0704, cls := .f, unit := 0x0009, index := w, arg0 := u.1 + u.2 * 2 ^ 16 }
  if u.1 = 1 then
    (if w = 51 then { s with fuses := { s.fuses with stillOff := Nat.lor s.fuses.stillOff (2 ^ u.2) } } else s).fenceStillBy u.2 (fun _ _ => e)
  else if u.1 = 2 then
    ((s.fenceChannel u.2).modChan u.2 (fun c => { c with fencedByFuse := true })).error e
  else (s.modFw (fun f => { f with slots := modV f.slots u.2 (fun c => { c with fenced := true }) })).error e

/-- Report a MARGINAL word (R357): event, counter, marginal map, and a class C record or the records of the units that it fences. -/
def State.reportMarginal (s : State) (w cls again : Nat) (units : List (Nat × Nat)) : State :=
  let s := (s.post 0x0616 5 7 w cls again).count 6 0 4 1
  let s := { s with fuses := { s.fuses with marginal := Nat.lor s.fuses.marginal (2 ^ w) } }
  if units.isEmpty then s.error { code := 0x0703, cls := .c, unit := 0x0009, index := w, arg0 := cls }
  else eachIn units (fun s u => s.fenceRepair w u) s

/-! ### The stack descriptor and discovery (R359, Table 13-6) -/

/-- A descriptor field at bit lo of the descriptor, n bits wide; its default when a word that holds part of it is MARGINAL. -/
def descField (fs : List FuseReads) (lo n dflt : Nat) : Nat :=
  if anyMarginal fs (59 + lo / 32) ((lo + n - 1) / 32 + 1 - lo / 32) then dflt else field (wordsVal fs 59 16) lo n

/-- A latency, unknown when its word is MARGINAL (R300). -/
def descLatency (fs : List FuseReads) (lo : Nat) : Option Nat :=
  if anyMarginal fs (59 + lo / 32) 1 then none else some (field (wordsVal fs 59 16) lo 8)

/-- Whether the descriptor is valid (R359). -/
def descValid (c : Cfg) (fs : List FuseReads) : Bool :=
  let r := wordReads fs 59
  let magic := if field (r.bits none) 0 8 = 0 then decide (field r.value 0 8 = 0xD5) else r.answers.any (fun v => decide (field v 0 8 = 0xD5))
  let crc := crc32c (leBytes 60 (wordsVal fs 59 16))
  magic && (anyMarginal fs 59 16 || decide (crc = field (wordsVal fs 59 16) 480 32)) &&
    decide (descField fs 8 6 (channels c) = channels c)

/-- Stack discovery from the descriptor words of the boot read. -/
def discover (c : Cfg) (fs : List FuseReads) : Discovery :=
  let m := fun (lo n : Nat) => anyMarginal fs (59 + lo / 32) n
  let a := decide (descField fs 19 1 0 = 1) && !m 192 1 && !m 224 1
  let v := decide (descField fs 20 1 0 = 1)
  { valid := descValid c fs, rowbits := descField fs 14 5 15, rows := descField fs 32 16 30208, nPost := descField fs 48 4 8,
    aStack := a, variant := a && v, isMatch := a && decide (v = decide (c = .izS)), pairs := descField fs 21 5 16,
    atmMask := if a then descField fs 192 32 0 else 0, atmCount := if a then descField fs 224 16 0 else 0,
    eccWord := descField fs 52 8 8, tRc := descField fs 64 8 60, tFaw := descField fs 72 8 24, tRfcPb := descField fs 80 10 160,
    tRfcAb := descField fs 96 12 410, tRefi := descField fs 108 16 1950, tRtw := descField fs 128 8 8, tWtr := descField fs 136 8 16,
    tHact := descField fs 144 8 24, tHpre := descField fs 160 8 20, tHwr := descField fs 168 8 30,
    rl := descLatency fs 240, wl := descLatency fs 248 }

/-! ### The boot read (R352, R355 to R359) -/

/-- Latch the outcome of a boot read. -/
def latchFuses (fs : List FuseReads) (old : Fuses) : Fuses :=
  let lock := wordA fs 0
  let t := wordA fs 1 + wordA fs 2 * 2 ^ 32
  let key := fun (a b revoke : Nat) => if bit lock revoke then none else itemOf (copyOf fs a 12) (copyOf fs b 12)
  { old with
    read := true
    key0 := key 3 15 3
    key1 := key 27 39 4
    secret := itemOf (copyOf fs 91 8) (copyOf fs 99 8)
    arb := bitLen t
    thermo := wordBurned (wordReads fs 1) + wordBurned (wordReads fs 2) * 2 ^ 32
    lock := lock % 64
    boot := fs.map FuseReads.normal
    stillOff := field (wordReads fs 51).value 0 9
    chanOff := (wordReads fs 52).value
    firstTemp := false
    due := false }

/-- Report every MARGINAL word of a class of the boot read. -/
def State.reportBoot (s : State) (fs : List FuseReads) : State :=
  eachIn (List.range 107) (fun s w => match fuseClass w with
    | some k => if (wordReads fs w).marginal none then
        s.reportMarginal w k 0 (if k = 2 then repairUnits s.cfg w (wordReads fs w) none else [])
      else s
    | none => s) s

/-- The boot fuse read of a ROM start: what is latched, the units that the repair map fences, discovery. -/
def State.bootRead (s : State) (fs : List FuseReads) : State :=
  let s := { s with fuses := latchFuses fs s.fuses, disc := discover s.cfg fs, fusePass := none }
  let s := { s with fuses := { s.fuses with marginal := 0 } }
  let s := s.modFw (fun w => { w with slots := mapV (fun (c : CodeSlot) => { c with fenced := false }) w.slots })
  let s := eachIn ((List.range (physicals s.cfg)).filter (bit s.fuses.stillOff)) (fun s i => s.dropStill i) s
  let s := eachIn ((List.range (channels s.cfg)).filter (bit s.fuses.chanOff)) (fun s c =>
    (s.fenceChannel c).modChan c (fun x => { x with fencedByFuse := true })) s
  s.reportBoot fs

/-! ### Re-reads (R355, R357) -/

/-- Start the re-read that is due, when the Fuse Port is free. -/
def State.fuseStart (s : State) : State :=
  let burning := match s.fw.commit with
    | some c => c.burning
    | none => false
  if s.fuses.due && s.fusePass.isNone && !burning then
    { s with fuses := { s.fuses with due := false }, fusePass := some { word := 0, margin := 0 } }
  else s

/-- TEMP_SAMPLE: the sample is taken; the first one after a ROM start, and each in another band, makes a re-read due (R316, R355). -/
def execTempSample (code : Byte) (s : State) : Res :=
  act s (fun s => if s.porst then s else
    let s := s.modSmp (fun m => { m with temp := code, tempKnown := true })
    let band := code.toNat / 20
    when (decide (1 ≤ s.level) && s.fuses.read && (!s.fuses.firstTemp || decide (band ≠ s.fuses.band))) (fun s =>
      { s with fuses := { s.fuses with firstTemp := true, band := band, due := true } }.fuseStart) s)

/-- A word of a re-read has its three reads. -/
def State.reread (s : State) (w : Nat) (got : List (Option Word32)) : State :=
  let r : FuseReads := ⟨got.getD 0 none, got.getD 1 none, got.getD 2 none⟩
  let base := (s.fuses.boot.getD w none).map BitVec.toNat
  match fuseClass w with
  | some k => if r.marginal base then s.reportMarginal w k 1 (if k = 2 then repairUnits s.cfg w r base else []) else s
  | none => s

end Sys2Proof.Machine
end

