-- ==== Sys2Proof/Machine/Power.lean ====
section
/-! DEFINITION. Service levels (R28 to R31, R329), power handshakes (R321 to R323), clocks (R317, R318), resets (R319, R320), the ROM
start (R352, R353) and the test wrapper (R313, R314). -/

namespace Sys2Proof.Machine

open Sys2Proof.Bits

/-! ### What a level needs (Table 1-10, R323) -/

/-- The physical Stills that carry a logical Still. -/
def State.carriers (s : State) : List Nat :=
  (healthyStills s.cfg s.stills).filter (fun i => decide (0 < carries s.cfg s.stills i))

/-- The domains that a level needs, by index. -/
def State.levelDomains (s : State) (lvl : Nat) : List Nat :=
  (if 1 ≤ lvl then [0] else []) ++ (if 2 ≤ lvl then 1 :: s.carriers.map (fun i => 4 + i) else []) ++
    (if 3 ≤ lvl then 2 :: 3 :: (healthyStills s.cfg s.stills).map (fun i => 4 + i) else [])

/-- Whether every existing link is fenced: PD-PEER is then fenced (R322). -/
def State.linksFenced (s : State) : Bool := (List.range (links s.cfg)).all (fun p => decide ((s.link p).st = .fenced))

/-- Whether a domain is fenced: the engine never powers it again without a command (R322). -/
def State.domainFenced (s : State) (i : Nat) : Bool :=
  if i = 2 then s.linksFenced else if i = 3 then s.keyFenced else decide (4 ≤ i) && s.stills.fenced.contains (i - 4)

/-- Request every domain of a level that is not fenced (R322, R323). -/
def State.requestLevel (s : State) (lvl : Nat) : State :=
  eachIn ((s.levelDomains lvl).filter (fun i => !s.domainFenced i)) (fun s i => s.requestDom i) s

/-- Whether what Table 1-10 requires for a level reports present: at S2 one PD-STILL is enough (R28). -/
def State.levelPresent (s : State) (lvl : Nat) : Bool :=
  (decide (lvl < 1) || s.present 0) &&
    (decide (lvl < 2) || (s.present 1 && (healthyStills s.cfg s.stills).any (fun i => s.present (4 + i)))) &&
    (decide (lvl < 3) || (s.present 2 && s.present 3 && (healthyStills s.cfg s.stills).all (fun i => s.present (4 + i))))

/-- Whether a channel clock measures 1.6 GHz within 500 ppm (R318). -/
def clockOk (khz : Nat) : Bool := decide (1599200 ≤ khz) && decide (khz ≤ 1600800)

/-- The FAIL code of a raise that cannot succeed (Table 12-4, R28, R353, R359). -/
def State.raiseFault (s : State) (lvl : Nat) : Option Nat :=
  if s.smp.fuseDisabled then some 2
  else if lvl < 2 then none
  else if !s.disc.valid then some 2
  else if (healthyStills s.cfg s.stills).isEmpty || s.channelList.all (fun c => (s.chan c).fenced) then some 4
  else if decide (lvl = 3) && (s.keyFenced || s.linksFenced || s.channelList.any (fun c => (s.chan c).fenced)) then some 4
  else none

/-- A raise fails (R329). -/
def State.failRaise (s : State) (code : Nat) : State :=
  let s := s.modSmp (fun m => { m with fail := code, req := m.level, pendingLevel := false })
  s.modFw (fun w => { w with fetching := false, fetch := [], fetchFail := none })

/-- The slot of the boot fetch and of RECOVERY_LOAD: A, or B when A is fenced (R363, R375). -/
def State.recoverySlot (s : State) : Nat := if (getV s.fw.slots 0 {}).fenced then 1 else 0

/-- A BOOT_CHECK record (R363). -/
def State.bootCheck (s : State) (status : Nat) : State :=
  s.error { code := 0x0708, cls := .c, unit := 0x000C, index := s.recoverySlot, arg0 := status }

/-- Begin the raise to REQ: from S0 the power of PD-MC, with no firmware the boot fetch, else the domains of the level. -/
def State.startRaise (s : State) : State :=
  let lvl := s.smp.req
  if s.smp.fuseDisabled then s.failRaise 2
  else if s.smp.level = 0 then s.requestDom 0
  else match s.raiseFault lvl with
    | some f => s.failRaise f
    | none =>
      if 2 ≤ lvl ∧ s.fw.romMode = true then
        if s.smp.stageMib = 0 then (s.bootCheck fwNoImage).failRaise 3
        else if s.fw.fetching then s
        else s.modFw (fun w => { w with fetching := true, fetch := [], fetchFail := none })
      else s.requestLevel lvl

/-- A write of SM_LEVEL: REQ is its only writable field. -/
def State.writeLevel (s : State) (w : Nat) : State :=
  let req := field w 4 2
  let s := s.answer 0 (reservedBits .level w)
  if s.smp.fuseDisabled ∧ 0 < req then s.failRaise 2
  else
    let s := s.modSmp (fun m => { m with req := req, pendingLevel := decide (req ≠ m.level) })
    if s.fall then s
    else if s.smp.level < req then s.startRaise
    else s.modFw (fun w => { w with fetching := false, fetch := [], fetchFail := none })

/-- SM_LEVEL_WRITE. -/
def execSmLevelWrite (w : Word32) (s : State) : Res := act s (fun s => when s.smpOpen (fun s => s.writeLevel w.toNat) s)

/-- LEVEL_RAISE_DONE: everything required is present (R31), every check holds, the clocks measure 1.6 GHz (R318). -/
def execLevelRaiseDone (s : State) : Res :=
  act s (fun s =>
    let lvl := s.smp.req
    when (s.smp.pendingLevel && decide (s.smp.level < lvl) && !s.fall && !s.wrst && decide (1 ≤ s.smp.level) &&
        !(decide (2 ≤ lvl) && s.fw.romMode) && s.levelPresent lvl) (fun s =>
      match s.raiseFault lvl with
      | some f => s.failRaise f
      | none =>
        if decide (2 ≤ lvl) && !(s.channelList.all (fun c => clockOk (s.clocks.getD c 0))) then s.failRaise 1
        else s.setLevel lvl 0) s)

/-! ### Lowering (R30) -/

/-- A step boundary: every anchored step is decided and complete, and no cut hold runs. -/
def State.atBoundary (s : State) : Bool :=
  !s.run.anchored || (s.anchoredSteps.all (fun n => (s.stepSt n).decided && s.stepDone n) && !s.cutHeld (s.run.lastStep + 1))

/-- Answer every EVAL_OPEN that waits, with a status. -/
def State.answerEval (s : State) (status : Nat) : State :=
  eachIn [0, 1, 2, 3] (fun s m =>
    if s.executing m && decide (reqCode (s.mbx m).taken = cEvalOpen) then s.respond m (s.mbx m).sequenced (Rsp.of status)
    else s) s

/-- LEVEL_LOWER_EFFECT: at the step boundary the operations of higher levels end, and below S2 the aperture closes, the admission ends
and the channels return to MEM; the level falls when they have. A handover goes on while the MC does; on the way to S0 every request that
is still taken ends with LEVEL_LOST (R340, R350). -/
def execLevelLowerEffect (s : State) : Res :=
  act s (fun s =>
    let lvl := s.smp.req
    when (s.lowering && !s.fall && decide (s.fw.levelHold = 0) && s.atBoundary) (fun s =>
      let s := s.levelLost lvl
      if 2 ≤ lvl then s.setLevel lvl 0
      else
        let s := (s.answerEval stLevelLost).endAdmission.channelsToMem
        let s := if lvl = 0 then
            s.requestsLost.modFw (fun w => { w with handover := .none, commit := none, heldQueue := [], stage := [] })
          else s
        (s.modFw (fun w => { w with levelHold := 1 })).lowerCheck) s)

/-! ### The end of a fall (R387), and test instructions (R313, R314) -/

/-- What the engine zeroes before WS_INTEST_SCAN or WS_MBIST: key registers, the MC's attestation key and its settings record with the fence
state of every unit (R374, R376), mailbox buffers, intake store, code slots (R314). -/
def State.wipe (s : State) : State :=
  { s with keyPresent := false, run := {}, cursors := [], digestSel := {}, captureSel := {}, fabric := {}, scales := [],
           wins := [], shards := [], outPages := [], keyFenced := false, pagesFenced := []
           fuses := { s.fuses with secret := none }
           stills := { s.stills with fenced := [] }
           chans := mapV (fun (c : Channel) => { c with fenced := false, fencedByFuse := false }) s.chans
           atm := mapV (fun (a : AtmChannel) => { a with keyOk := false, key := 0, fenced := [], blocked := false }) s.atm
           entropy := { s.entropy with fenced := false }
           fw := { s.fw with slots := Vector.replicate 2 {}, running := none, standby := none, romMode := true,
                             coreFenced := Vector.replicate 2 false }
           smp := { s.smp with mbx := Vector.replicate 4 {} } }

/-- A test instruction takes effect; in reset there is nothing left to zero. -/
def State.enterTest (s : State) (code : Nat) : State :=
  let s := if (code = 3 ∨ code = 5) ∧ s.porst = false then s.wipe else s
  { s with wir := code, testPending := 0 }

/-- WRAPPER_INSTRUCTION: EXTEST, INTEST_SCAN and MBIST are class X errors that take effect after the fall; with the test lock burned the
latter two act as BYPASS (R313, R314). The wrapper runs whatever instruction it holds. -/
def execWrapperInstruction (code : BitVec 4) (s : State) : Res :=
  let n := code.toNat
  let locked := s.fuses.locked 1 && (decide (n = 3) || decide (n = 5))
  if (n = 1 ∨ n = 3 ∨ n = 5) ∧ locked = false then
    if s.testing ∨ s.porst = true then .next (s.hold (s.enterTest n))
    else .next (s.hold { s.classX { code := 0x0712, cls := .x, unit := 0x000F, arg0 := n } with testPending := n })
  else .next { s with wir := if locked then 0 else n, testPending := 0 }

/-- WRSTN_ASSERT: WS_BYPASS is selected. -/
def execWrstnAssert (s : State) : Res := .next { s with wir := 0, testPending := 0 }

/-- The data register that the wrapper selects and whose contents the manual gives: with WS_IDCODE the 32 bits of SM_IDENT (Table 11-7,
R327). -/
def State.wrapperData (s : State) : Option Word32 := if s.wir = 4 then some (BitVec.ofNat 32 (smIdent s.cfg)) else none

/-! ### Power handshakes -/

/-- A command on a domain. -/
def onDomain (s : State) (d : Domain) (f : State → State) : Res :=
  if domExists s.cfg d then act s f else .fault .noSuchUnit

/-- Whether a packet waits in a receive buffer of PD-PEER. -/
def HeldPkt.buffered (h : HeldPkt) : Bool :=
  match h.via with
  | .link p => decide (p < 2)
  | .carried _ _ => false

/-- What the units of a domain lose when it is unpowered or its reset is asserted; with PD-PEER go the packets in its receive buffers. -/
def State.domainOff (s : State) (i : Nat) : State :=
  let s := s.modDom i (fun d => { d with present := false })
  if i = 0 then { s with fuses := { s.fuses with read := false }, fusePass := none }
  else if i = 2 then
    s.modFabric (fun f => { f with
      held := f.held.filter (fun h => !h.buffered), egrHeld := f.egrHeld.filter (fun h => !h.buffered)
      links := mapV (fun (l : Link) =>
        (if l.st = .fenced then l.clear .fenced else { l.clear .down with pinUp := l.pinUp })) f.links })
  else if i = 3 then { s with keyPresent := false, entropy := {} }
  else s

/-- An unrequested loss of a domain (R322). -/
def State.domainLost (s : State) (i : Nat) : State :=
  let s := (s.domainOff i).modDom i (fun d => { d with req := false, lost := true, since := s.time, slow := false })
  if i = 0 ∨ i = 1 then s.classX { code := 0x0710, cls := .x, unit := 0x000F, arg0 := i }
  else if i = 2 then
    let s := s.modFabric (fun f => { f with links := mapV (fun (l : Link) => l.clear .fenced) f.links })
    s.error { code := 0x0707, cls := .f, unit := 0x000F }
  else if i = 3 then s.fenceKey 0
  else s.fenceStill (i - 4)

/-- PWR_ACK_RISE: answers a request; a stray one is ignored and counted (R321). -/
def execPwrAckRise (d : Domain) (s : State) : Res :=
  onDomain s d (fun s =>
    let i := domIndex d
    if (s.dom i).ack then s
    else if (s.dom i).req then s.modDom i (fun d => { d with ack := true, since := s.time, slow := false })
    else s.count 6 0 3 1)

/-- The units of a domain start: its generator has locked, clamps and reset are released (R317, R321). PD-MC comes up with an empty log,
whose record numbers go on (Table 14-2), cleared counters and empty code slots (R364, R388, R390); PD-KEY with its start-up tests to run (R238) and K reloaded (R227). -/
def State.domainUp (s : State) (i : Nat) : State :=
  let s := s.modDom i (fun d => { d with present := true, lost := false })
  if i = 0 then
    { s with log := { s.log with first := [], latest := [], dropped := 0 }, counters := s.counters.filter (fun (c : Counter) => decide (c.set = 3)),
             blotter := {}, run := { s.run with key := 0, setUp := false },
             fw := { s.fw with slots := Vector.replicate 2 {}, running := none, standby := none, standbyBoot := none, fetch := [], warmWait := false } }
  else if i = 2 then
    eachIn (List.range (links s.cfg)) (fun s p =>
      if (s.link p).pinUp && decide ((s.link p).st ≠ .fenced) then s.startBringup p else s) s
  else if i = 3 then { s with entropy := { wanted := s.entropy.wanted }, keyPresent := s.run.setUp && !s.keyFenced }
  else s

/-- GENERATOR_LOCK. -/
def execGeneratorLock (d : Domain) (s : State) : Res :=
  onDomain s d (fun s =>
    let i := domIndex d
    when ((s.dom i).req && (s.dom i).ack && !(s.dom i).present) (fun s => s.domainUp i) s)

/-- LOCK_LOSS (R317). -/
def execLockLoss (d : Domain) (s : State) : Res :=
  onDomain s d (fun s => when (s.dom (domIndex d)).present (fun s => s.domainLost (domIndex d)) s)

/-- The level in force or being entered. -/
def State.wantedLevel (s : State) : Nat := if s.fall then 0 else if s.smp.pendingLevel then max s.smp.level s.smp.req else s.smp.level

/-- The domains that the engine keeps powered (R323). -/
def State.domainNeeded (s : State) (i : Nat) : Bool :=
  let lvl := s.wantedLevel
  if i = 0 then decide (1 ≤ lvl) || s.fall || s.wrst || (decide (s.smp.level = 0) && decide (1 ≤ s.smp.req))
  else if i = 3 then decide (3 ≤ lvl) || (decide (1 ≤ lvl) && s.keyWanted && !s.keyFenced)
  else (s.levelDomains lvl).contains i || (decide (2 ≤ lvl) && s.stills.takeover.any (fun (x : Nat × Nat × Nat) => decide (4 + x.2.1 = i)))

/-- PWR_ACK_FALL: an unrequested loss (R322), or the end of a power-down: a domain that is needed again by then is requested (R321, R323). -/
def execPwrAckFall (d : Domain) (s : State) : Res :=
  onDomain s d (fun s =>
    let i := domIndex d
    when (s.dom i).ack (fun s =>
      let lost := (s.dom i).req
      let s := s.modDom i (fun d => { d with ack := false })
      if lost then s.domainLost i
      else if s.domainNeeded i && !s.domainFenced i then s.requestDom i else s) s)

/-- Whether an Atomizer segment runs on some channel. -/
def State.segmentsRun (s : State) : Bool := s.atm.toList.any (fun (a : AtmChannel) => a.seg.isSome)

/-- Whether the units of a domain are idle or fenced (R27): the MC with no operation, no commit and no loan, the intake store with no Formula and no
test, the links with nothing queued or held, the key island with no segment, seed or drawing pass, a Still while no pass runs on what it
carries. -/
def State.domainIdle (s : State) (i : Nat) : Bool :=
  if i = 0 then s.ops.isEmpty && s.fw.commit.isNone && !s.loan.isOpen
  else if i = 1 then s.formula.isNone && !s.live cSelfTest
  else if i = 2 then s.linksFenced || ((List.range (links s.cfg)).all (fun p => (s.link p).queue.all List.isEmpty) &&
    !(s.fabric.held ++ s.fabric.egrHeld).any HeldPkt.buffered)
  else if i = 3 then s.keyFenced || (!s.segmentsRun && !s.entropy.wanted && !s.live cSelfTest &&
    !s.stills.passes.any (fun (p : Pass) => match shardEntry s.form p.shard with
      | some e => (passProg s.form e p.phase).draws
      | none => false))
  else s.stills.fenced.contains (i - 4) || (!s.live cSelfTest && !s.stills.passes.any (fun (p : Pass) => p.stripes.any (fun (x : Stripe) =>
    decide (s.stills.map.getD x.still 0xF = i - 4))))

/-- Apply the clamps, assert the reset and lower the request of a domain whose request equals its acknowledge (R321). -/
def State.powerDown (s : State) (i : Nat) : State :=
  if (s.dom i).req && (s.dom i).ack then
    (s.domainOff i).modDom i (fun d => { d with req := false, since := s.time, slow := false })
  else s

/-- POWER_DOWN_REQUEST (R27, R323). -/
def execPowerDownRequest (d : Domain) (s : State) : Res :=
  onDomain s d (fun s =>
    let i := domIndex d
    when (!s.domainNeeded i && s.domainIdle i) (fun s => s.powerDown i) s)

/-- PWR_ACK_SLOW: an acknowledge has not arrived 1 ms after the request. -/
def execPwrAckSlow (d : Domain) (s : State) : Res :=
  onDomain s d (fun s =>
    let i := domIndex d
    let x := s.dom i
    when (x.req != x.ack && !x.slow && decide (x.since + 1000000 ≤ s.time)) (fun s =>
      (s.modDom i (fun d => { d with slow := true })).post 0x0602 5 7 i 0 0) s)

/-! ### Clocks -/

/-- CLOCK_CHECK: the measured frequencies in kHz, one for each channel; at S2 and above one out of range is a class X error (R318). -/
def execClockCheck (khz : List Word32) (s : State) : Res :=
  act s (fun s => if khz.length ≠ channels s.cfg then s else
    let fs := khz.map BitVec.toNat
    let s := { s with clocks := fs }
    if s.level < 2 then s
    else match fs.zipIdx.find? (fun (x : Nat × Nat) => !clockOk x.1) with
      | some x => s.classX { code := 0x0711, cls := .x, unit := 0x0002, index := x.2, arg0 := x.1 }
      | none => s)

/-! ### The ROM start (R352, R353) -/

/-- The self-checks of the cores: a core that fails is fenced; core 0 is active unless it is fenced. -/
def State.startCores (s : State) (r : RomStart) : State :=
  let fail := fun (i : Nat) (ok : Bool) (s : State) =>
    if ok then s
    else (s.modFw (fun w => { w with coreFenced := setV w.coreFenced i true })).error
      { code := 0x0701, cls := .f, unit := 0x0006, index := i, arg0 := 2 }
  let s := fail 1 r.core1 (fail 0 r.core0 s)
  s.modFw (fun w => { w with core := if w.coreOut 0 then 1 else 0 })

/-- Whether no MC core is healthy. -/
def State.noCore (s : State) : Bool := s.fw.coreOut 0 && s.fw.coreOut 1

/-- Enter S1: LEVEL becomes 1, and a higher REQ goes on (R329). -/
def State.enterS1 (s : State) : State :=
  let s := (s.setLevel 1 0).modSmp (fun m => { m with pendingLevel := s.smp.pendingLevel && decide (m.req ≠ 1) })
  if 1 < s.smp.req then s.startRaise else s

/-- FUSE_DISABLED: the engine stays at S0 and PD-MC is powered down (R353). -/
def State.disable (s : State) : State :=
  let s := s.modSmp (fun m => { m with fuseDisabled := true, req := 0, fail := 2, pendingLevel := false })
  s.powerDown 0

/-- Whether the latched fuses disable the engine (R353). -/
def Fuses.disabled (f : Fuses) : Bool := f.locked 0 || (f.key0.isNone && f.key1.isNone)

/-- The images of a slot whose bundle is checked again: those that it carried over stay (R368). -/
def CodeSlot.carried (c : CodeSlot) : List Image := c.images

/-- Whether a slot passes the checks of R362 before a boot. -/
def State.slotBoots (s : State) (i : Nat) : Bool :=
  let c := getV s.fw.slots i {}
  (bundleFault s.cfg s.fuses c.bundle c.bundle.length c.carried).isNone

/-- Change a code slot. -/
def State.modCode (s : State) (i : Nat) (f : CodeSlot → CodeSlot) : State := s.modFw (fun w => { w with slots := modV w.slots i f })

/-- A slot by its index. -/
def State.codeSlot (s : State) (i : Nat) : CodeSlot := getV s.fw.slots i {}

/-- A slot index as stored. -/
def slotIx (i : Nat) : Fin 2 := if i = 0 then 0 else 1

/-- Boot a slot on the active core: the ROM mode ends, the standby core boots the same image (R363, R367). -/
def State.bootSlot (s : State) (i : Nat) (st : SlotSt) (cause : Nat) : State :=
  let s := s.modCode i (fun c => { c with st := st })
  let s := s.modFw (fun w => { w with
    romMode := false, running := some (slotIx i), standbyBoot := some (slotIx i), standby := none, fallback := none, soloBoot := false })
  s.post 0x0611 5 7 i s.fw.core.toNat cause

/-- The candidates of a warm start after the staged bundle (R367): a LOADED slot whose image cannot be activated hot (R370), the slot that
was active unless it was in probation, the other slot when it is committed, active or superseded. -/
def State.warmCandidates (s : State) : List Nat :=
  let kept := fun (i : Nat) => decide ((s.codeSlot i).st = .committed) || decide ((s.codeSlot i).st = .active) || decide ((s.codeSlot i).st = .superseded)
  let loaded := [0, 1].filter (fun i => decide ((s.codeSlot i).st = .loaded) && decide (mHandoverFmt (manifestOf (s.codeSlot i).bundle) ≠ 2))
  let active := match s.fw.running with
    | some i => [i.toNat]
    | none => []
  loaded ++ active.filter (fun i => decide ((s.codeSlot i).st ≠ .probation)) ++ [0, 1].filter (fun i => kept i && !active.contains i)

/-- Boot the first candidate that passes; one that fails becomes INVALID; none: ROM recovery. -/
def State.warmTry (s : State) : List Nat → State
  | [] => s.modFw (fun w => { w with romMode := true, running := none })
  | i :: rest =>
    if s.slotBoots i then s.bootSlot i (if (s.codeSlot i).st = .committed then .committed else .active) 1
    else (s.modCode i (fun c => { c with st := .invalid })).warmTry rest

/-- ROM_BOOT: the start from the moment at which PD-MC is present, while REQ asks for a level (Table 13-1, R329). After a power-up the code
slots are empty, so that ROM_MODE becomes 1. -/
def execRomBoot (r : RomStart) (s : State) : Res :=
  act s (fun s => when (s.present 0 && !s.fuses.read && !s.porst && !s.wrst && !s.fall && decide (1 ≤ s.smp.req)) (fun s =>
    let s := s.modFw (fun w => { w with
      standby := none, standbyBoot := none, handover := .none, fetching := false, fetchFail := none, fallback := none, dualSettings := false })
    let s := s.startCores r
    if s.noCore then s.classX { code := 0x0714, cls := .x, unit := 0x000F }
    else
      let s := s.bootRead r.fuses
      if s.fuses.disabled then s.disable else (s.warmTry s.warmCandidates).enterS1) s)

/-! ### Resets -/

/-- PORST_N_ASSERT: every unit except the bypass and the wrapper is in reset (R319). The core dies keep their contents and open rows. -/
def execPorstNAssert (s : State) : Res :=
  if s.testing then .refused .noPromise
  else .next { State.reset with
    cfg := s.cfg, pending := s.pending, free := s.free, dram := s.dram, poisonWords := s.poisonWords, clocks := s.clocks, wir := s.wir,
    out := s.out, chans := mapV (fun (c : Channel) => { rows := c.rows }) s.chans }

/-- PORST_N_RELEASE: the strap is sampled, the timebase starts at 0, and 10 µs later S0 is live and PWR_REQ_MC rises (Table 13-1). -/
def execPorstNRelease (pos : BitVec 3) (s : State) : Res :=
  if s.testing then .refused .noPromise
  else .next (when s.porst (fun s => { s with porst := false, time := 10000, smp := { s.smp with pos := pos } }.requestDom 0) s)

/-- WRST_N_ASSERT: held for at least 100 ns, a class X fall (R320); what follows it comes when the fall is complete. -/
def execWrstNAssert (s : State) : Res :=
  act s (fun s =>
    if s.porst then s
    else if s.wrst then s.modFw (fun w => { w with restart := none })
    else { s.classX { code := 0x0713, cls := .x, unit := 0x000F } with wrst := true, fusePass := none })

/-- The warm boot (R366, R367); loans have brought the staged bundle (R360). -/
def State.warmBoot (s : State) : State :=
  let old := (s.fw.running.map Fin.toNat).getD 0
  let cands := s.warmCandidates
  let s := match s.fw.running with
    | some i => if (s.codeSlot i.toNat).st = SlotSt.probation then s.modCode i.toNat (fun c => { c with st := SlotSt.invalid }) else s
    | none => s
  match s.fw.pendingStage with
  | none => s.warmTry cands
  | some (_, len) =>
    let bs := s.fw.fetch
    let s := s.modFw (fun w => { w with pendingStage := none, fetch := [] })
    match bundleFault s.cfg s.fuses bs len (s.codeSlot old).images with
    | some f => (s.post 0x0615 5 7 1 f.1 0).warmTry cands
    | none =>
      let images := slotImages s.fuses.bundled bs (s.codeSlot old).images
      let s := s.modCode old (fun c => { c with bundle := bs, images := images })
      ((s.post 0x0615 5 7 0 0 0).bootSlot old .active 1).modFw (fun w => { w with soloBoot := true })

/-- Whether a staged bundle is still to be read for a warm boot. -/
def Firmware.short (w : Firmware) : Bool :=
  match w.pendingStage with
  | some p => decide (w.fetch.length < p.2)
  | none => false

/-- The warm boot, then S1. With a staged bundle it waits until loans have brought it (R360, R366). -/
def State.warmStart (s : State) : State :=
  if s.fw.short then s.modFw (fun w => { w with warmWait := true })
  else ((s.modFw (fun w => { w with warmWait := false })).warmBoot.modSmp (fun m => { m with req := max 1 m.req })).enterS1

/-- The MC restarts from ROM: it reads the fuses again and boots what R367 finds (R320). -/
def State.mcRestart (s : State) (r : RomStart) : State :=
  let s := { s with wrst := false }
  let s := s.modFw (fun w => { w with restart := none })
  if !s.present 0 then s
  else
    let s := s.modFw (fun w => { w with
      standby := none, standbyBoot := none, handover := .none, fetching := false, fetch := [], fetchFail := none, fallback := none,
      dualSettings := false, commit := none })
    let s := s.startCores r
    if s.noCore then s.classX { code := 0x0714, cls := .x, unit := 0x000F }
    else
      let s := s.bootRead r.fuses
      if s.fuses.disabled then s.disable else s.warmStart

/-- WRST_N_RELEASE: the MC restarts, or does so when the fall has completed, whichever is later (R320). -/
def execWrstNRelease (r : RomStart) (s : State) : Res :=
  act s (fun s => when s.wrst (fun s =>
    if s.fall then s.modFw (fun w => { w with restart := some r }) else s.mcRestart r) s)

/-! ### The end of a fall (R30, R320, R387) -/

/-- The fall is complete: LEVEL and REQ read 0. After a warm reset the power of every domain but PD-AON and PD-MC goes down, and an MC whose
reset has ended meanwhile restarts (R320); a test instruction that waited takes effect (R313). -/
def State.fallDone (s : State) : State :=
  let s := s.modSmp (fun m => { m with req := 0, fellX := true })
  let s : State := { s.setLevel 0 1 with fall := false }
  let s := s.modSmp (fun m => { m with pendingLevel := false })
  let s := if s.wrst then eachIn ((List.range 12).map (· + 1)) (fun s i => s.powerDown i) s else s
  if s.testPending ≠ 0 then s.enterTest s.testPending
  else match s.fw.restart with
    | some r => s.mcRestart r
    | none => s

/-- FALL_COMPLETE: every channel has reached MEM. -/
def execFallComplete (s : State) : Res := act s (fun s => when (s.fall && s.allMem) State.fallDone s)

end Sys2Proof.Machine
end

