-- ==== Sys2Proof/Machine/Firmware.lean ====
section
/-! DEFINITION. The Fuse Port at work (R311, R312, R355, R373), loans and the boot fetch (R360, R363), bundles loaded by command (R365,
R366, R375), the boot of the standby core and the handover point (R369 to R371), probation (R372). -/

namespace Sys2Proof.Machine

open Sys2Proof.Bits

/-! ### FW_COMMIT (R373) -/

/-- The bits that FW_COMMIT burns for a slot: thermometer bits below its SVN that do not read 1 at all margins, then the REVOKE bit. -/
def commitBits (f : Fuses) (m : Nat) : List (Nat × Nat) :=
  ((List.range (mSvn m)).filter (fun i => !bit f.thermo i)).map (fun i => (1 + i / 32, i % 32)) ++
    (if mRevokeOther m then [(0, 3 + (1 - mKeySlot m))] else [])

/-- The manifest of a slot. -/
def CodeSlot.manifest (c : CodeSlot) : Nat := manifestOf c.bundle

/-- FW_COMMIT is complete: steps 3 to 5 of R373. -/
def State.commitDone (s : State) (m i revoked : Nat) : State :=
  let s := (s.modCode i (fun c => { c with st := SlotSt.committed })).modCode (1 - i) (fun c =>
    if c.st = .empty then c else { c with st := SlotSt.superseded })
  let s := s.modFw (fun w => { w with
    commit := none, dualSettings := false, fallback := none, soloBoot := false, standby := none, standbyBoot := some (slotIx i) })
  let s := s.post 0x0614 5 7 i s.fuses.arb revoked
  s.respond m (s.mbx m).sequenced Rsp.ok

/-- FW_COMMIT fails: the bits burned stay burned, the slot stays ACTIVE. -/
def State.commitFail (s : State) (c : Commit) : State :=
  let w := c.bits.headD (0, 0)
  let s := s.modFw (fun f => { f with commit := none })
  let s := (s.post 0x0617 5 7 w.1 w.2 0).respond c.mbx (s.mbx c.mbx).sequenced ⟨fwFuse, w.1, 0⟩
  s.fuseStart

/-- A burned bit has verified at all three margins: the latched value takes it (R358). -/
def Fuses.burn (f : Fuses) (word b : Nat) : Fuses :=
  if word = 0 then
    let f := { f with lock := Nat.lor f.lock (2 ^ b) }
    if b = 3 then { f with key0 := none } else if b = 4 then { f with key1 := none } else f
  else
    let t := Nat.lor f.thermo (2 ^ (b + 32 * (word - 1)))
    { f with thermo := t, arb := max f.arb (b + 32 * (word - 1) + 1) }

/-- The bit at hand is burned: the next one, or the end. -/
def State.commitNext (s : State) (c : Commit) : State :=
  match c.bits with
  | [] => s
  | (w, b) :: rest =>
    let s := { s with fuses := s.fuses.burn w b }
    let c := { c with bits := rest, since := s.time, burning := false, revoked := if w = 0 then b - 3 else c.revoked }
    let s := s.modFw (fun f => { f with commit := some c })
    let s := match rest, s.fw.running with
      | [], some i => s.commitDone c.mbx i.toNat c.revoked
      | _, _ => s
    s.fuseStart

/-- Whether the Fuse Port asks for the programming supply: only while the engine programs (R312). -/
def State.vppReq (s : State) : Bool := s.fw.commit.isSome && s.fusePass.isNone

/-- The three reads of a burned bit are in. One that does not read 1 at every margin, or is not answered, is MARGINAL: its word is reported
as a re-read of class A reports it (R311, R312, R357; log entry 130), and FW_COMMIT fails. -/
def State.verified (s : State) (b : Nat) (got : List (Option Word32)) : State :=
  match s.fw.commit with
  | none => s
  | some c =>
    if got.all (fun o => match o with
        | some v => bit v.toNat b
        | none => false) then s.commitNext c
    else (s.reportMarginal (c.bits.headD (0, 0)).1 1 1 []).commitFail c

/-! ### Reads of the Fuse Port (R311, R355) -/

/-- The answer to a read: a value, or none after two tries. -/
def State.fuseAnswer (s : State) (p : FusePass) (v : Option Word32) : State :=
  let got := p.got ++ [v]
  if got.length < 3 then { s with fusePass := some { p with margin := p.margin + 1, got := got, tries := 0 } }
  else match p.verify with
    | some b => { s with fusePass := none }.verified b got
    | none =>
      let s := s.reread p.word got
      if p.word < 127 then { s with fusePass := some { word := p.word + 1, margin := 0 } }
      else { s with fusePass := none }.fuseStart

/-- The macro answers the read that is out. -/
def State.fuseValid (s : State) (w : Word32) : State :=
  match s.fusePass with
  | some p => s.fuseAnswer p (some w)
  | none => s

/-- A read is not answered: it is tried once more, then the word is MARGINAL (R311). -/
def State.fuseSilent (s : State) : State :=
  match s.fusePass with
  | some p => if p.tries = 0 then { s with fusePass := some { p with tries := 1 } } else s.fuseAnswer p none
  | none => s

/-- FSP_VPP_ACK: the programming supply is present and the bit is programmed; the port waits for a re-read that is in progress. -/
def execFspVppAck (s : State) : Res :=
  act s (fun s => match s.fw.commit with
    | some c => when (!c.burning && s.fusePass.isNone) (fun s => s.modFw (fun f => { f with commit := some { c with burning := true } })) s
    | none => s)

/-- No programming supply has come within 10 ms (R373). -/
def State.noSupply (s : State) : State :=
  match s.fw.commit with
  | some c => when (!c.burning && decide (c.since + 10000000 ≤ s.time)) (fun s => s.commitFail c) s
  | none => s

/-- FSP_DONE: programming is finished; the word is read at all three margins. -/
def execFspDone (s : State) : Res :=
  act s (fun s => match s.fw.commit with
    | some c => when (c.burning && s.fusePass.isNone) (fun s =>
        let w := c.bits.headD (0, 0)
        { s with fusePass := some { word := w.1, margin := 0, verify := some w.2 } }) s
    | none => s)

/-! ### Loans (R360) -/

/-- Whether the MC has something to transfer by a loan: a boot fetch, the staged bundle of a warm start, an operation that has not read all
its staging bytes, or a command that waits for staging (R398). -/
def State.loanWanted (s : State) : Bool :=
  (s.fw.fetching && s.fw.fetchFail.isNone) || s.fw.warmWait ||
    s.ops.any (fun (o : LongOp) => decide (o.st = .running) && decide (o.input.length < o.reads)) || !s.fw.stage.isEmpty

/-- LOAN_START: at least 20 µs after the last loan, every channel passes through TRANSIT into PROC; not before their latencies are known
(R300). -/
def execLoanStart (s : State) : Res :=
  act s (fun s =>
    when (s.formula.isNone && s.present 0 && (decide (1 ≤ s.level) || s.fw.warmWait) && !s.loan.isOpen && s.allMem && s.loanWanted && s.latenciesKnown &&
        (decide (s.loan.lastEnd = 0) || decide (s.loan.lastEnd + 20000 ≤ s.time))) (fun s =>
      { s with loan := { s.loan with isOpen := true, transferred := false } }.transitAll s.channelList .toProc) s)

/-- What a loan of the boot fetch brings: the manifest block first, which passes check 1 or ends the fetch; then up to 1 MiB more. -/
def State.fetchMore (s : State) : State :=
  if s.fw.fetching = false ∨ s.fw.fetchFail.isSome then s
  else
    let n := s.fw.fetch.length
    if n = 0 then
      let bs := s.dramBytes s.stageStart 4096
      let bad := (formatFault bs s.stageLen).isSome
      s.modFw (fun w => { w with fetch := bs, fetchFail := if bad then some fwFormat else none })
    else
      let left := mLen (manifestOf s.fw.fetch) - n
      s.modFw (fun w => { w with fetch := w.fetch ++ s.dramBytes (s.stageStart + n) (min left (2 ^ 20)) })

/-- What a loan brings of the staged bundle that a warm start checks again: up to 1 MiB more (R360, R366). -/
def State.warmFetch (s : State) : State :=
  match s.fw.pendingStage with
  | some (ptr, len) =>
    let n := s.fw.fetch.length
    s.modFw (fun w => { w with fetch := w.fetch ++ s.dramBytes (ptr + n) (min (len - n) (2 ^ 20)) })
  | none => s

/-- The staging bytes that a loan with room for some bytes brings to the operations that run, in the order of their start (R360). -/
def State.bring (s : State) : Nat → List LongOp → List LongOp
  | _, [] => []
  | room, o :: os =>
    let n := if o.st = .running then min room (o.reads - o.input.length) else 0
    { o with input := o.input ++ s.dramBytes (o.p 8 8 + o.input.length) n } :: s.bring (room - n) os

/-- BOOT_FETCH_DONE: the bundle passes R362 and boots in slot A, and the raise goes on; or the raise fails with NO_FW (R363). -/
def execBootFetchDone (s : State) : Res :=
  act s (fun s =>
    let bs := s.fw.fetch
    let ready := s.fw.fetchFail.isSome || (decide (4096 ≤ bs.length) && decide (mLen (manifestOf bs) ≤ bs.length))
    when (s.fw.fetching && ready && !s.loan.isOpen) (fun s =>
      let i := s.recoverySlot
      let bad := match s.fw.fetchFail with
        | some f => some f
        | none => if (s.codeSlot i).fenced then some fwSlot
          else (bundleFault s.cfg s.fuses bs bs.length []).map Prod.fst
      match bad with
      | some f => (s.bootCheck f).failRaise 3
      | none =>
        let s := s.modCode i (fun c => { c with bundle := bs, images := bundleImages bs })
        let s := s.bootSlot i .active 2
        let s := s.modFw (fun w => { w with fetching := false, fetch := [], fetchFail := none })
        s.startRaise) s)

/-! ### FW_LOAD and RECOVERY_LOAD (R365, R366, R375) -/

/-- The slot that is not active. -/
def State.otherSlot (s : State) : Nat :=
  match s.fw.running with
  | some i => 1 - i.toNat
  | none => s.recoverySlot

/-- The images of the active slot. -/
def State.activeImages (s : State) : List Image :=
  match s.fw.running with
  | some i => (s.codeSlot i.toNat).images
  | none => []

/-- A bundle cut to its BUNDLE_LEN. -/
def bundleBytes (bs : List Byte) : List Byte := bs.take (mLen (manifestOf bs))

/-- FW_LOAD_DONE, once the bundle has been read, by loans or within LONGOP reservations (R300, R360): the slot becomes LOADED, or the staged bundle is pending; a bundle that fails a check
changes no slot. -/
def execFwLoadDone (h : BitVec 16) (s : State) : Res :=
  act s (fun s => match s.findOp h.toNat with
    | none => s
    | some o => when (decide (o.code = cFwLoad) && decide (o.st = .running) && !o.cancelling && s.latenciesKnown && s.opReady o) (fun s =>
        let bs := s.staged o
        let o := { o with done := o.total, committedPoint := true }
        match bundleFault s.cfg s.fuses bs bs.length s.activeImages with
        | some f => s.endOp o .failed f.1 f.2 o.result
        | none =>
          let m := manifestOf bs
          if o.p 20 1 = 0 then
            let i := s.otherSlot
            let is := slotImages s.fuses.bundled bs s.activeImages
            let s := s.modCode i (fun c => { c with st := SlotSt.loaded, bundle := bundleBytes bs, images := is })
            (s.post 0x0610 5 7 i (mVersion m) (mSvn m)).endOp o .done stOk 0 o.result
          else
            let s := s.modFw (fun w => { w with pendingStage := some (o.p 8 8, o.p 16 4) })
            (s.post 0x0610 5 7 2 (mVersion m) (mSvn m)).endOp o .done stOk 0 o.result) s)

/-- RECOVERY_LOAD_DONE: the bundle boots with no probation and ROM_MODE becomes 0 (R375); the bundle has been read by loans,
which wait until the latencies are known (R300, R360). -/
def execRecoveryLoadDone (h : BitVec 16) (s : State) : Res :=
  act s (fun s => match s.findOp h.toNat with
    | none => s
    | some o => when (decide (o.code = cRecoveryLoad) && decide (o.st = .running) && !o.cancelling && s.latenciesKnown && s.opReady o) (fun s =>
        let bs := s.staged o
        let o := { o with done := o.total, committedPoint := true }
        match bundleFault s.cfg s.fuses bs bs.length [] with
        | some f => s.endOp o .failed f.1 f.2 o.result
        | none =>
          let i := s.recoverySlot
          let s := s.modCode i (fun c => { c with bundle := bundleBytes bs, images := bundleImages bs })
          let s := (s.bootSlot i .active 2).modFw (fun w => { w with soloBoot := true })
          s.endOp o .done stOk 0 o.result) s)

/-! ### The standby core, handover and probation (R369 to R372) -/

/-- STANDBY_BOOT_DONE: the LOADED slot is checked, settings are converted and microcode loaded, or the slot becomes INVALID (R370). A boot
of the active image makes the core its standby (R363, R373). -/
def execStandbyBootDone (ok : Bool) (s : State) : Res :=
  act s (fun s => match s.fw.standbyBoot with
    | none => s
    | some i =>
      let s := s.modFw (fun w => { w with standbyBoot := none })
      let good := ok && s.slotBoots i.toNat && !s.fw.coreOut (1 - s.fw.core.toNat)
      match s.fw.handover with
      | .booting j =>
        if i ≠ j then s
        else if good then s.modFw (fun w => { w with handover := .ready i, standby := some i, dualSettings := true })
        else
          let s := (s.modCode i.toNat (fun c => { c with st := SlotSt.invalid })).modFw (fun w => { w with handover := .none })
          s.post 0x0613 5 7 ((s.fw.running.map Fin.toNat).getD 0) 4 i.toNat
      | _ => if good then s.modFw (fun w => { w with standby := some i }) else s)

/-- HANDOVER_POINT: while a run is in progress after the record of the next step, otherwise between commands: doorbells are held and the
active core stops (R371). -/
def execHandoverPoint (s : State) : Res :=
  act s (fun s => match s.fw.handover with
    | .ready i => when (s.fw.commit.isNone && (if s.run.anchored then (s.recordFor (s.run.lastStep + 1)).isSome else s.fw.stage.isEmpty)) (fun s =>
        s.modFw (fun w => { w with handover := .held i })) s
    | _ => s)

/-- MICROCODE_BANK_SWITCH: after the next anchor, with no Atomizer segment and no TRANSIT on the channel (R369). -/
def execMicrocodeBankSwitch (ch : Fin 32) (s : State) : Res :=
  onChan s ch (fun s =>
    let c := s.chan ch
    when (c.bankPending && s.fw.bankArmed && (s.atmCh ch).seg.isNone && decide (c.mode ≠ .toProc) && decide (c.mode ≠ .toMem)) (fun s =>
      s.modChan ch (fun c => { c with bank1 := !c.bank1, bankPending := false })) s)

/-- New microcode at a takeover: with no Formula every bank switches at once, otherwise after the next anchor (R369). -/
def State.newMicrocode (s : State) : State :=
  let is := List.range (physicals s.cfg)
  if s.formula.isNone then
    let s := { s with chans := mapV (fun (c : Channel) => { c with bank1 := !c.bank1, bankPending := false }) s.chans }
    s.modFw (fun w => { w with stillBankPending := [], stillBank1 := is.filter (fun i => !w.stillBank1.contains i) })
  else
    let s := { s with chans := mapV (fun (c : Channel) => { c with bankPending := true }) s.chans }
    s.modFw (fun w => { w with bankArmed := false, stillBankPending := is })

/-- PROBATION_END: ten seconds after takeover without a fault, the slot is ACTIVE (R372). -/
def execProbationEnd (s : State) : Res :=
  act s (fun s => match s.fw.running with
    | none => s
    | some i => when (decide ((s.codeSlot i.toNat).st = .probation) && decide (s.fw.probationEnd ≤ s.time)) (fun s =>
        (s.modCode i.toNat (fun c => { c with st := SlotSt.active })).post 0x0612 5 7 i.toNat 0 0) s)

end Sys2Proof.Machine
end

