-- ==== Sys2Proof/Machine/Admission.lean ====
section
/-! DEFINITION. Admission (R182, R183): the checks in order, the report (Tables 6-19 to 6-21), what an accepted Formula installs, and
ADMIT_DONE. -/

namespace Sys2Proof.Machine

open Sys2Proof.Bits

/-! ### The verdict (R182, Table 6-19) -/

/-- What admission finds: the reason, SECTION and OFFSET of a failing field, bytes required and available once they are compared, the fit
options, and, when the Formula is admitted, the placed passes and the bounds by shard id. -/
structure Verdict where
  reason : Nat
  sec : Nat := 0
  off : Nat := 0
  required : Nat := 0
  available : Nat := 0
  options : List FitOption := []
  placed : List Placed := []
  bounds : List Nat := []
deriving DecidableEq, Repr

/-- TARGET of the configuration (R158). -/
def targetOf : Cfg → Nat
  | .izL => 1
  | .izS => 2

/-- The checks that follow the placement of the passes. -/
def State.verdictPlaced (s : State) (f : Formula) (v : Verdict) : Verdict :=
  let ps := s.placed f
  if s.badExclusion f ps then { v with reason := 0x09 }
  else if s.badSlots f ps then { v with reason := 0x06 }
  else if s.badBandwidth f ps then { v with reason := 0x08 }
  else { v with reason := 0x00, placed := ps, bounds := s.boundsOf f ps }

/-- The checks from capacity on; refresh: the image has a refresh section; entries: the entries of the slot-list section. -/
def State.verdictFit (s : State) (f : Formula) (refresh : Bool) (entries : Nat) : Verdict :=
  let req := s.required f
  let avail := s.available f
  let v : Verdict := { reason := 0, required := req, available := avail }
  if avail < req then { v with reason := 0x04, options := s.fitOptions f entries refresh }
  else if s.badLayout f then { v with reason := 0x05 }
  else if badTimeline s.cfg f then { v with reason := 0x0A }
  else if s.badRefresh f refresh then { v with reason := 0x07 }
  else if s.badLists f entries then { v with reason := 0x09 }
  else s.verdictPlaced f v

/-- Admission of an image. -/
def State.verdict (s : State) (img : List Byte) : Verdict :=
  if badImage img then { reason := 0x01 }
  else
    let f := formulaOf img
    let ds := directory img
    let refresh := (findSection ds 2).isSome
    let entries := (sectionEntries img ds 3).length
    if f.hdr.target ≠ targetOf s.cfg then { reason := 0x02 }
    else match firstFault (fieldChecks s.cfg s.ea img f (s.kidsOf f)) with
      | some p => { reason := 0x03, sec := p.1, off := p.2 }
      | none =>
        if s.badMembership f then { reason := 0x0C }
        else if s.badProgram f then { reason := 0x0B }
        else s.verdictFit f refresh entries

/-! ### The report (Tables 6-20, 6-21) -/

/-- The option records, with the report offsets of their id lists. -/
def optionBytes : List FitOption → Nat → List Byte
  | [], _ => []
  | o :: os, at' =>
    let off := if o.kind = 3 then at' else 0
    leBytes 32 (o.kind % 2 ^ 8 + o.param % 2 ^ 16 * 2 ^ 16 + o.named.length % 2 ^ 32 * 2 ^ 32 + o.slack % 2 ^ 64 * 2 ^ 64 +
      off % 2 ^ 32 * 2 ^ 128 + o.bound % 2 ^ 32 * 2 ^ 160 + o.partner % 2 ^ 64 * 2 ^ 192) ++ optionBytes os (at' + 4 * o.named.length)

/-- The admission report: header, options, bounds, then the ids that a SPILL option names (log entry 40). -/
def Verdict.report (v : Verdict) : List Byte :=
  let deficit := if v.reason = 0x04 then v.required - v.available else 0
  let lists := 64 + 32 * v.options.length + 4 * v.bounds.length
  leBytes 64 (v.reason % 2 ^ 8 + v.sec % 2 ^ 8 * 2 ^ 8 + v.off % 2 ^ 32 * 2 ^ 32 + v.required % 2 ^ 64 * 2 ^ 64 +
    v.available % 2 ^ 64 * 2 ^ 128 + deficit % 2 ^ 64 * 2 ^ 192 + v.options.length % 2 ^ 16 * 2 ^ 256 +
    v.bounds.length % 2 ^ 32 * 2 ^ 288) ++
    optionBytes v.options lists ++ v.bounds.flatMap (leBytes 4) ++ v.options.flatMap (fun o => o.named.flatMap (leBytes 4))

/-! ### Installation -/

/-- M1 and M2 planes that live at SPILL_EA stand at model addresses from 2^40 up, beyond every stack (log entry 41). -/
def Formula.placeSpilled (f : Formula) : Formula :=
  let named := f.shards.flatMap (fun (e : ShardEntry) => if e.spill then (List.range e.descCount).map (· + e.descFirst) else [])
  { f with descs := f.descs.zipIdx.map (fun (p : Desc × Nat) =>
      if named.contains p.2 && (decide (p.1.stream = 1) || decide (p.1.stream = 2)) then
        { p.1 with ebase0 := p.1.ebase0 + 2 ^ 40, sbase0 := p.1.sbase0 + 2 ^ 40 }
      else p.1) }

/-- The Formula as the engine keeps it: without ATOMIZER no program runs. -/
def Formula.kept (f : Formula) : Formula :=
  Formula.placeSpilled (if f.hdr.atomizer then f else { f with programs := [] })

/-- The admitted waits of the passes, in eighths of a nanosecond, by shard and phase. -/
def waitTable (ps : List Placed) : List (Nat × Nat) :=
  ((ps.map (fun (p : Placed) => (p.shard, p.phase))).dedup).map (fun (k : Nat × Nat) => (4 * k.1 + k.2, (8 * waitOf ps k.1 k.2).floor.toNat))

/-- latest(p) of the passes that wait for a scalar, in eighths of a nanosecond, by shard and phase (R182). -/
def latestTable (ps : List Placed) : List (Nat × Nat) :=
  ((ps.map (fun (p : Placed) => (p.shard, p.phase))).dedup).map (fun (k : Nat × Nat) => (4 * k.1 + k.2,
    (8 * maxQ ((ps.filter (fun p => decide (p.shard = k.1) && decide (p.phase = k.2))).map Placed.late)).floor.toNat))

/-- A shard of a fresh admission: VERSION 0, flags clear (R114), intake step NEXT (R134), W of the shard table (R141). -/
def freshShard (next : Nat) (e : ShardEntry) : Shard := { intakeStep := next, w := e.wexp }

/-- What an admission sets beside the Formula: channel tables, Still positions, Atomizer books. -/
def State.installUnits (s : State) (f : Formula) (map : List Nat) : State :=
  let next := s.run.nextStep
  let s := s.modStills (fun t => { t with
    map := map, noCarrier := false, passes := [], current := none, nextRec := none, takeover := [], lateK := [],
    pos := List.replicate (logicals s.cfg) (0, next) })
  let worked := fun (ch : Nat) => f.programs.any (fun (p : AtmProgram) => bit p.chmask ch)
  let s := { s with atm := mapIdxV (fun (a : AtmChannel) (i : Nat) =>
    { a with bucket := 500, refills := 0, seg := none, segIdx := 0, units := [], blocked := a.blocked && worked i }) s.atm }
  if 2 ≤ s.level then s.requestLevel s.level else s

/-- What an admission sets in the run: the loss scale of a fresh run starts at its initial value (R153, log entry 42), which the step status
block shows (Table 5-8); no anchor has been taken since the admission (R328); NEXT stays. -/
def State.installRun (s : State) (f : Formula) : State :=
  let fresh := decide (s.run.nextStep = 1)
  let s := s.modRun (fun r => { r with
    steps := [], cutNext := 0, anchored := false, arrived := false, stepBegin := false, times := {},
    status0 := if fresh then toSigned 8 f.consts.lInit * 2 ^ 48 else r.status0,
    lossExp := if fresh then f.consts.lInit else r.lossExp, good := if fresh then 0 else r.good })
  s.modFabric (fun b => { b with rounds := [] })

/-- Install an admitted Formula (R182): map, readiness words, intake steps, windows, envelope books, scale groups, refresh from now on
(R164), the Blotter ring and its epoch record, the staging region, the power of PD-KEY where an Accord needs it (R323). At the first anchor
after it every channel is in MEM mode (R162). -/
def State.install (s : State) (f : Formula) (v : Verdict) (map : List Nat) (replan : Bool) : State :=
  let s := s.blotStep.channelsToMem.egressLeave
  let s : State :=
    { s with
      formula := some f
      bounds := v.bounds
      waits := waitTable v.placed
      latest := latestTable v.placed
      admitTime := s.time
      anchorBlocked := false
      shards := f.shards.map (freshShard s.run.nextStep)
      wins := f.windows.map (fun _ => {})
      envs := f.envs.map (fun _ => {})
      scales := f.scaleGroups.map (fun (g : ScaleEntry) => { k := g.kInit })
      atmResults := []
      restored := none
      chans := mapV (fun (c : Channel) => { c.endClaims with refreshed := [] }) s.chans
      blotter := { s.blotter with base := f.hdr.blotBase, mib := f.hdr.blotMib } }
  let s := (s.installUnits f map).installRun f
  let s := if s.keyWanted && !s.keyFenced then s.requestDom 3 else s
  let s := s.modSmp (fun m => { m with
    stageBase := BitVec.ofNat 20 (f.hdr.stageBase / 2 ^ 20), stageMib := BitVec.ofNat 21 f.hdr.stageMib })
  let s := s.blot (blotRecord 0x05 (ofBool replan) s.run.lastStep
    (s.fabric.epoch % 2 ^ 32 + s.fabric.members.length % 2 ^ 32 * 2 ^ 32 + leVal (beBytes 48 f.digest) * 2 ^ 64))
  s.topoIfChanged

/-! ### ADMIT_DONE -/

/-- Whether R183 lets ADMIT proceed: a membership, and no Formula or the re-plan for a new epoch. -/
def State.mayAdmit (s : State) (replan : Bool) : Bool :=
  s.fabric.assigned &&
    (match s.formula with
     | none => true
     | some f => replan && decide (s.fabric.epoch ≠ f.hdr.epoch))

/-- The end of an admission whose map exists. The manual does not say when the report is written (R360): the model writes it here, with the
operation's end (log entry 135). -/
def State.admitEnd (s : State) (o : LongOp) (map : List Nat) : State :=
  let img := s.staged o
  let v := s.verdict img
  let rep := v.report
  let rlen := o.p 32 4
  let s := s.writeDram (o.p 24 8) (rep.take rlen)
  let result := v.reason + rep.length % 2 ^ 32 * 2 ^ 32 + ofBool (decide (rlen < rep.length)) * 2 ^ 64
  let o := { o with done := o.total }
  if v.reason = 0 then
    let f := Formula.kept (formulaOf img)
    (s.install f v map (bit (o.p 20 1) 0)).endOp o .done stOk 0 result
  else s.endOp o .failed stAdmission v.reason result

/-- ADMIT_DONE: the image has been read, by loans or within LONGOP reservations (R360), which wait until the latencies are known (R300). -/
def execAdmitDone (h : BitVec 16) (s : State) : Res :=
  act s (fun s => match s.findOp h.toNat with
    | none => s
    | some o =>
      when (decide (o.code = cAdmit) && decide (o.st = .running) && !o.cancelling && s.latenciesKnown && s.opReady o) (fun s =>
        match admissionMap s.cfg s.stills with
        | none => s.endOp o .failed stWrongState 0 o.result
        | some map => if s.mayAdmit (bit (o.p 20 1) 0) then s.admitEnd o map else s.endOp o .failed stWrongState 0 o.result) s)

end Sys2Proof.Machine
end

