-- ==== Sys2Proof/Machine/Mailbox.lean ====
section
/-! DEFINITION. The mailbox protocol (R333 to R340): doorbell, checks in the order of R338, sequence and replay, the answer; the commands
of a session (R336, R337) and IDENTIFY and RUN_STATUS (Table 12-9). -/

namespace Sys2Proof.Machine

open Sys2Proof.Bits

/-! ### Commands and their checks (R338, Table 12-10) -/

/-- What a command leaves, and its answer: none while the request stays unanswered (R339). -/
abbrev Ran := State × Option Rsp

/-- A command of Table 12-10: code, mailboxes, level, used parameter fields, the offset of an out-of-range field, its pointers with the
lengths that they name, whether its execution transfers bytes of the staging region (R398), and its execution. -/
structure Cmd where
  code : Nat
  boxes : List Nat
  level : Nat
  fields : List ParField := []
  bad : State → BitVec 448 → Option Nat := fun _ _ => none
  ptrs : BitVec 448 → List (Nat × Nat) := fun _ => []
  stages : State → Bool := fun _ => false
  run : State → Nat → BitVec 448 → Ran

/-- An answer that leaves the state as it is. -/
def State.say (s : State) (st : Nat) : Ran := (s, some (Rsp.of st))

/-- The codes that MBX3 accepts in ROM mode (R375). -/
def romCodes : List Nat := [0x0001, 0x0002, 0x0003, 0x0004, 0x0005, 0x0401, 0x0402, 0x0403, 0x0404, 0x0604]

/-- Whether the ROM refuses a code of MBX3. -/
def State.romRefuses (s : State) (code : Nat) : Bool := s.fw.romMode && !romCodes.contains code

/-- Checks 4 to 6 of R338. -/
def Cmd.judge (k : Cmd) (s : State) (m : Nat) (q : BitVec 448) (relayed : Bool) : Option Rsp :=
  if s.romRefuses k.code && decide (m = 3) then some (Rsp.of stWrongState)
  else if !k.boxes.contains m then some (Rsp.of stWrongMailbox)
  else if s.level < k.level then some (Rsp.of stWrongLevel)
  else match reservedSet k.fields q with
    | some off => some (Rsp.badField off)
    | none => match k.bad s q with
      | some off => some (Rsp.badField off)
      | none =>
        let ps := k.ptrs q
        if (relayed && !ps.isEmpty) || ps.any (fun (p : Nat × Nat) => !s.pointerOk p.1 p.2) then some (Rsp.of stBadPointer) else none

/-- Whether the core side of a channel is reached: it is in PROC or TRANSIT with its latencies known (R300), or it is fenced. -/
def State.chanReached (s : State) (ch : Nat) : Bool :=
  (s.chan ch).fenced || (decide ((s.chan ch).mode ≠ .mem) && s.latencyKnown ch 0 && s.latencyKnown ch 1)

/-- Whether every channel that is not fenced is in PROC with its catch-up paid: a loan may transfer (R360). -/
def State.loanReady (s : State) : Bool :=
  s.loan.isOpen && !s.loan.transferred && s.channelList.all (fun c => (s.chan c).fenced ||
    (decide ((s.chan c).mode = .proc) && decide ((s.chan c).catchup = 0)))

/-- Whether the MC reaches the staging region now: by a loan, or with a Formula admitted through channels in PROC or TRANSIT (R360, R398). -/
def State.stagingOpen (s : State) : Bool := if s.formula.isSome then s.channelList.all s.chanReached else s.loanReady

/-- A command that transfers staging bytes waits for the channels that are not reached yet (R398); others go on meanwhile (log entry 129). -/
def State.awaitStaging (s : State) (m : Nat) : State :=
  s.modFw (fun w => { w with stage := w.stage ++ [(m, s.channelList.filter (fun c => !s.chanReached c))] })

/-- Checks 3 to 7 and the execution of a request; no command: a code that Table 12-10 does not list. -/
def State.execute (s : State) (m : Nat) (info : Option Cmd) (q : BitVec 448) (relayed : Bool) : Ran :=
  match info with
  | none => s.say (if s.fw.romMode then stWrongState else stBadCode)
  | some k => match k.judge s m q relayed with
    | some r => (s, some r)
    | none => if k.stages s && !s.stagingOpen then (s.awaitStaging m, none) else k.run s m q

/-- Record the answer of a request in the sequence: the stored response, and the session timer (R335, R337). -/
def State.keep (s : State) (m : Nat) (w : BitVec 512) : State := s.modMbx m (fun b => { b with stored := w, timer := s.time })

/-- A request of mailbox m: checks 1 and 2 of R338, then its execution; the response, if it is there. In ROM mode MBX0 to MBX2 answer
WRONG_STATE to all but IDENTIFY and RUN_STATUS, and a request that passes checks 1 and 2 still enters the sequence (R338). -/
def State.request (s : State) (m : Nat) (w : BitVec 512) (relayed : Bool) (info : Option Cmd) : State × Option (BitVec 512) :=
  let code := reqCode w
  let r := reqOf w
  let seq := r.seq.toNat
  let word := fun (a : Rsp) => a.word code seq
  let no := fun (st : Nat) => (s, some (word (Rsp.of st)))
  let b := s.mbx m
  if s.fw.romMode && decide (m ≠ 3) && decide (code ≠ 0x0001) && decide (code ≠ 0x0005) then
    let a := word (Rsp.of stWrongState)
    if b.sequenced && decide (code ≠ 0x0002) && decide ((seq + 65536 - b.last.toNat) % 65536 = 1) then
      ((s.modMbx m (fun x => { x with last := r.seq })).keep m a, some a)
    else (s, some a)
  else if code = 0x0002 then
    let t := s.execute m info r.par relayed
    match t.2 with
    | none => (t.1, none)
    | some a =>
      if a.status = stOk then ((t.1.modMbx m (fun x => { x with last := r.seq })).keep m (word a), some (word a))
      else (t.1, some (word a))
  else if (code = 0x0001 ∨ code = 0x0005) ∧ r.token = 0 then
    let t := s.execute m info r.par relayed
    (t.1, t.2.map word)
  else match b.session with
    | none => no stNoSession
    | some tok =>
      let d := (seq + 65536 - b.last.toNat) % 65536
      if tok ≠ r.token then no stNoSession
      else if d = 0 then (s, some b.stored)
      else if d = 1 then
        let t := (s.modMbx m (fun x => { x with last := r.seq, timer := s.time })).execute m info r.par relayed
        match t.2 with
        | none => (t.1, none)
        | some a => (t.1.keep m (word a), some (word a))
      else if d < 32768 then no stSeqGap
      else no stSeqOld

/-! ### Doorbells (R333, R340) -/

/-- Execute the request that a mailbox has taken. -/
def State.serve (s : State) (m : Nat) (info : Option Cmd) : State :=
  let t := s.request m (s.mbx m).taken false info
  match t.2 with
  | some w => t.1.deliver m w
  | none => t.1

/-- Whether doorbells are held: from the handover point to the takeover (R340, R371). -/
def State.holding (s : State) : Bool :=
  match s.fw.handover with
  | .held _ => true
  | _ => false

/-- Whether the MC takes no request now: doorbells are held, or FW_COMMIT is being executed (R339, R340, R373). -/
def State.mcTaken (s : State) : Bool := s.holding || s.fw.commit.isSome

/-- A doorbell of mailbox m. -/
def State.ring (s : State) (m : Nat) (info : Option Cmd) : State :=
  if s.level < 1 then s.answer 0 true
  else if (s.mbx m).busy then (s.count 6 0 1 1).answer 0 true
  else
    let s := (s.modMbx m (fun b => { b with taken := b.req, busy := true, rspValid := false })).answer 0 false
    if s.mcTaken then
      (s.modMbx m (fun b => { b with held := s.holding, heldSince := s.time })).modFw (fun f => { f with heldQueue := f.heldQueue ++ [m] })
    else s.serve m info

/-- A row of the table for a mailbox command: the host writes the request and rings. -/
def mailboxRow (s : State) (m : Fin 4) (q : Req) (k : Cmd) : Res :=
  act s (fun s => when s.smpOpen (fun s => (s.modMbx m.toNat (fun b => { b with req := q.word k.code })).ring m.toNat (some k)) s)

/-! ### Sessions (R336, R337) -/

/-- The token of a new session: a free value that is neither 0 nor the mailbox's previous token. -/
def newToken (free : Nat) (prev : BitVec 32) : BitVec 32 :=
  let t := Config.freeToken free
  if t ≠ 0 ∧ t ≠ prev then t
  else if prev = 1 then 2
  else 1

/-- SESSION_OPEN: FLAGS.TAKEOVER ends the session that is open. -/
def runSessionOpen (s : State) (m : Nat) (q : BitVec 448) : Ran :=
  let b := s.mbx m
  if b.session.isSome && !bit (par q 8 1) 0 then s.say stSessionBusy
  else
    let s := if b.session.isSome then s.post 0x0002 6 7 m 1 0 else s
    let t := newToken s.free b.prevToken
    (s.tickFree.modMbx m (fun x => { x with session := some t, prevToken := t }),
      some { Rsp.ok with body := res 8 4 t.toNat + res 12 2 1000 })

def cmdSessionOpen : Cmd :=
  { code := 0x0002, boxes := [0, 1, 2, 3], level := 1, fields := [⟨8, 1, 1⟩], run := runSessionOpen }

/-- SESSION_CLOSE. -/
def runSessionClose (s : State) (m : Nat) (_ : BitVec 448) : Ran := (s.modMbx m (fun b => { b with session := none }), some Rsp.ok)

def cmdSessionClose : Cmd := { code := 0x0003, boxes := [0, 1, 2, 3], level := 1, run := runSessionClose }

/-- KEEPALIVE. -/
def runKeepalive (s : State) (_ : Nat) (_ : BitVec 448) : Ran := s.say stOk

def cmdKeepalive : Cmd := { code := 0x0004, boxes := [0, 1, 2, 3], level := 1, run := runKeepalive }

/-! ### IDENTIFY -/

/-- VERSION of the running MC firmware image; 0 in ROM. -/
def State.fwVersion (s : State) : Nat :=
  match s.fw.running with
  | some i => (((s.codeSlot i.toNat).images.find? (fun (x : Image) => decide (x.kind = 1))).map Image.version).getD 0
  | none => 0

/-- The Atomizer discovery record (Table 7-1); all zeros for a P-stack. -/
def Discovery.record (d : Discovery) : Nat :=
  if !d.aStack then 0 else 1 + ofBool d.variant * 2 + ofBool d.isMatch * 4 + d.pairs % 32 * 2 ^ 8 + d.atmMask % 2 ^ 32 * 2 ^ 16 +
    d.atmCount % 2 ^ 16 * 2 ^ 48 + d.tHact % 2 ^ 8 * 2 ^ 64 + d.tHpre % 2 ^ 8 * 2 ^ 72 + d.tHwr % 2 ^ 8 * 2 ^ 80 + d.eccWord % 2 ^ 8 * 2 ^ 88

/-- Bit m: the session of mailbox m is open. -/
def State.sessions (s : State) : Nat := (List.range 4).foldl (fun a m => a + ofBool (s.mbx m).session.isSome * 2 ^ m) 0

/-- IDENTIFY. -/
def runIdentify (s : State) (_ : Nat) (_ : BitVec 448) : Ran :=
  let slot := match s.fw.running with
    | some i => if s.fw.romMode then 0xFF else i.toNat
    | none => 0xFF
  let body := res 8 4 (smIdent s.cfg) + res 12 4 (smFru s) + res 16 4 (if s.fw.romMode then 0 else s.fwVersion) + res 20 1 slot +
    res 21 1 s.level + res 22 1 s.sessions + res 24 4 (s.capacity / 2 ^ 20) + res 28 1 (channels s.cfg) + res 29 1 s.disc.rowbits +
    res 30 1 s.disc.nPost + res 32 16 (Discovery.record s.disc)
  (s, some { Rsp.ok with body := body })

def cmdIdentify : Cmd := { code := 0x0001, boxes := [0, 1, 2, 3], level := 1, run := runIdentify }

/-! ### RUN_STATUS (Table 12-9) -/

/-- FLAGS of RUN_STATUS: ADMITTED, RUN, EVAL, CUT_HOLD, SCALAR_HELD, NO_ANCHOR. -/
def State.runFlags (s : State) : Nat :=
  let held := s.fabric.rounds.any (fun (r : Round) => r.total.isSome && r.poison)
  ofBool s.formula.isSome + ofBool s.run.anchored * 2 + ofBool (decide (s.run.eval = .opened) || decide (s.run.eval = .decanting)) * 4 +
    ofBool (s.formula.isSome && s.run.steps.any (fun (t : StepSt) => s.cutHeld (t.step + 1))) * 8 + ofBool held * 16 +
    ofBool (s.formula.isSome && decide (s.form.hdr.epoch ≠ s.fabric.epoch)) * 32

/-- Insert a number into a rising list. -/
def insertNat (x : Nat) : List Nat → List Nat
  | [] => [x]
  | y :: ys => if x ≤ y then x :: y :: ys else y :: insertNat x ys

/-- RUN_STATUS. -/
def runRunStatus (s : State) (_ : Nat) (_ : BitVec 448) : Ran :=
  let handles := (s.ops.map LongOp.handle).foldr insertNat []
  let hs := (handles.take 8).zipIdx.foldl (fun a (p : Nat × Nat) => a + p.1 % 2 ^ 16 * 2 ^ (16 * p.2)) 0
  let body := res 8 2 s.runFlags + res 10 1 s.level + res 11 1 s.ops.length + res 12 4 s.fabric.epoch + res 16 6 s.run.lastStep +
    res 24 6 s.run.updates + res 30 1 (toSigned 8 s.run.lossExp) + res 32 8 (digest64 s) + res 40 4 (mapWord s.cfg s.stills) +
    res 44 4 s.run.gen + res 48 16 hs
  (s, some { Rsp.ok with body := body })

def cmdRunStatus : Cmd := { code := 0x0005, boxes := [0, 1, 2, 3], level := 1, run := runRunStatus }

/-! ### The rows -/

/-- IDENTIFY. -/
def execIdentify (m : Fin 4) (q : Req) (s : State) : Res := mailboxRow s m q cmdIdentify
/-- SESSION_OPEN. -/
def execSessionOpen (m : Fin 4) (q : Req) (s : State) : Res := mailboxRow s m q cmdSessionOpen
/-- SESSION_CLOSE. -/
def execSessionClose (m : Fin 4) (q : Req) (s : State) : Res := mailboxRow s m q cmdSessionClose
/-- KEEPALIVE. -/
def execKeepalive (m : Fin 4) (q : Req) (s : State) : Res := mailboxRow s m q cmdKeepalive
/-- RUN_STATUS. -/
def execRunStatus (m : Fin 4) (q : Req) (s : State) : Res := mailboxRow s m q cmdRunStatus

/-- Whether a held packet is a relayed request of a mailbox's session (R268). -/
def HeldPkt.ofSession (h : HeldPkt) (b : Mailbox) : Bool :=
  decide (h.pkt.type = 0x0A) && decide (some (field (leVal (h.pkt.payload.take 80)) 160 32) = b.session.map BitVec.toNat)

/-- Whether a relayed request of mailbox 1's session waits (R268). -/
def State.relayWaits (s : State) : Bool := s.fabric.held.any (fun (h : HeldPkt) => h.ofSession (s.mbx 1))

/-- SESSION_EXPIRED: 1 s without a request accepted into the sequence (R337); the timer does not run while a request of the session executes
or is held. -/
def execSessionExpired (m : Fin 4) (s : State) : Res :=
  act s (fun s =>
    let b := s.mbx m.toNat
    when (b.session.isSome && !b.busy && !(decide (m.toNat = 1) && s.relayWaits) && decide (b.timer + 1000000000 ≤ s.time)) (fun s =>
      (s.modMbx m.toNat (fun x => { x with session := none })).post 0x0002 6 7 m.toNat 0 0) s)

end Sys2Proof.Machine
end

