-- ==== Sys2Proof/Machine/RunCommands.lean ====
section
/-! DEFINITION. The commands of a run (R341): RUN_SETUP, FRESH_SEED, ADMIT, STEP_BEGIN, RUN_STOP, CURSOR_SET, EVAL_OPEN, EVAL_CLOSE,
DIGEST_SELECT, GRAD_CAPTURE; the EVAL window (R295) and the effect of RUN_STOP; the entropy source (R238 to R240). -/

namespace Sys2Proof.Machine

open Sys2Proof.Bits
open Sys2Proof.Hash

/-! ### RUN_SETUP (R226, R227, R134) -/

/-- RUN_SETUP: K from the seed, NEXT 1, no update, generation 0, no cursor and no selection. -/
def runRunSetup (s : State) (_ : Nat) (q : BitVec 448) : Ran :=
  if s.formula.isSome then s.say stWrongState
  else
    let s : State :=
      { s with
        run := { key := Sillage.keyOfSeed (par q 8 16), setUp := true, nextStep := 1, stopHold := s.run.stopHold }
        cursors := []
        digestSel := {}
        captureSel := {}
        keyPresent := s.present 3 && !s.keyFenced }
    (s, some Rsp.ok)

def cmdRunSetup : Cmd := { code := 0x0101, boxes := [0], level := 1, fields := [whole 8 16], run := runRunSetup }

/-! ### FRESH_SEED (R238 to R240) -/

/-- The 192 raw samples from place n of the source's sequence. -/
def rawSamples (n : Nat) : List Byte := (List.range 192).map (fun i => Config.freeSample (n + i))

/-- The repetition count test with cutoff 11: whether some sample stands 11 times in a row (R239). -/
def repetitionFails (l : List Byte) : Bool :=
  (List.range (l.length - 10)).any (fun i => ((l.drop i).take 11).all (fun x => decide (some x = l[i]?)))

/-- The adaptive proportion test with window 512: whether the first sample stands in the window as often as the cutoff, which the binomial
formula of SP 800-90B gives as 177 for 2 bits a sample and α = 2^-20 (R239). -/
def proportionFails (l : List Byte) : Bool := decide (177 ≤ ((l.take 512).filter (fun x => decide (some x = l.head?))).length)

/-- The seed of a list of samples: the first 16 bytes of their SHA-384 hash (R240). -/
def seedOf (l : List Byte) : Nat := leVal ((sha384 l).take 16)

/-- A health test fails: the pool is lost and the start-up tests run again; a second failure of the power cycle fences the source (R239). -/
def State.entropyFailed (s : State) (proportion : Bool) : State :=
  let n := s.entropy.failures + 1
  let s := { s with entropy := { s.entropy with ready := false, failures := n, fenced := decide (2 ≤ n) } }
  let s := s.post 0x0601 5 7 (ofBool proportion) 0 0
  if 2 ≤ n then s.error { code := 0x0706, cls := .f, unit := 0x0008, arg0 := ofBool proportion } else s


/-- FRESH_SEED: the samples of the seed run through the health tests; a draw that fails one is not delivered (R239, R240). -/
def runFreshSeed (s : State) (_ : Nat) (_ : BitVec 448) : Ran :=
  if !s.present 3 then ({ s.requestDom 3 with entropy := { s.entropy with wanted := true } }, some (Rsp.of stNotReady))
  else if s.entropy.fenced then s.say stEsFail
  else if !s.entropy.ready then s.say stNotReady
  else
    let l := rawSamples s.free
    let s := { s with free := s.free + 192, entropy := { s.entropy with wanted := false } }
    if repetitionFails l || proportionFails l then
      let s := s.entropyFailed (!repetitionFails l)
      s.say (if s.entropy.fenced then stEsFail else stNotReady)
    else (s, some { Rsp.ok with body := res 8 16 (seedOf l) })

def cmdFreshSeed : Cmd := { code := 0x0102, boxes := [0], level := 1, run := runFreshSeed }

/-- ES_STARTUP_DONE: 1,024 samples have passed the start-up tests (R238). -/
def execEsStartupDone (s : State) : Res :=
  act s (fun s => when (s.present 3 && !s.entropy.fenced) (fun s => { s with entropy := { s.entropy with ready := true } }) s)

/-- ENTROPY_FAIL: a health test fails on samples that the source draws for its own use. -/
def execEntropyFail (proportion : Bool) (s : State) : Res :=
  act s (fun s => when (s.present 3 && !s.entropy.fenced) (fun s => s.entropyFailed proportion) s)

/-! ### ADMIT -/

/-- The answer of a command that starts a long operation; refusals of the state come first. -/
def State.started (s : State) (code par total result : Nat) (st : OpSt) (body : Nat) (f : State → Nat → State) : Ran :=
  match s.startOp code par total result st with
  | .error e => s.say e
  | .ok t => (f t.1 t.2, some { status := stOpStarted, body := res 8 2 t.2 + body })

/-- ADMIT: refused where R183 forbids it, or where too few Stills are healthy for a map (R84). -/
def runAdmit (s : State) (_ : Nat) (q : BitVec 448) : Ran :=
  if !s.mayAdmit (bit (par q 20 1) 0) || (admissionMap s.cfg s.stills).isNone then s.say stWrongState
  else s.started cAdmit q.toNat (par q 16 4) 0 .running 0 (fun s _ => s)

def cmdAdmit : Cmd :=
  { code := cAdmit, boxes := [0, 1], level := 2, fields := [whole 8 8, whole 16 4, ⟨20, 1, 1⟩, whole 24 8, whole 32 4],
    ptrs := fun q => [(par q 8 8, par q 16 4), (par q 24 8, par q 32 4)], run := runAdmit }

/-! ### STEP_BEGIN, RUN_STOP, CURSOR_SET -/

/-- STEP_BEGIN (R134, R161). -/
def runStepBegin (s : State) (_ : Nat) (q : BitVec 448) : Ran :=
  let n := par q 8 6
  if s.formula.isNone then s.say stWrongState
  else if n = s.run.nextStep then (s.modRun (fun r => { r with stepBegin := true }), some Rsp.ok)
  else if s.run.anchored && decide (n = s.run.lastStep) then s.say stOk
  else s.say stWrongState

def cmdStepBegin : Cmd := { code := 0x0104, boxes := [0], level := 2, fields := [whole 8 6], run := runStepBegin }

/-- RUN_STOP: no further anchor; the effect comes at the step boundary. -/
def runRunStop (s : State) (_ : Nat) (_ : BitVec 448) : Ran :=
  if s.formula.isNone then s.say stWrongState else (s.modRun (fun r => { r with stopping := true }), some Rsp.ok)

def cmdRunStop : Cmd := { code := 0x0105, boxes := [0, 1], level := 2, run := runRunStop }

/-- The step of the previous CURSOR_SET. -/
def State.lastCursor (s : State) : Option Nat := (s.cursors.getLast?).map Prod.fst

/-- CURSOR_SET: the 16 latest cursors stay. -/
def runCursorSet (s : State) (_ : Nat) (q : BitVec 448) : Ran :=
  let l := s.cursors ++ [(par q 8 6, s.dramBytes (par q 16 8) 64)]
  ({ s with cursors := l.drop (l.length - 16) }, some Rsp.ok)

def cmdCursorSet : Cmd :=
  { code := 0x0106, boxes := [0], level := 2, fields := [whole 8 6, whole 16 8],
    bad := fun s q => match s.lastCursor with
      | some n => if n < par q 8 6 then none else some 8
      | none => none
    ptrs := fun q => [(par q 16 8, 64)], stages := fun _ => true, run := runCursorSet }

/-! ### EVAL (R295) -/

/-- EVAL_OPEN: unanswered until the window is open. -/
def runEvalOpen (s : State) (_ : Nat) (q : BitVec 448) : Ran :=
  if s.formula.isNone || decide (s.run.eval ≠ .closed) then s.say stWrongState
  else (s.modRun (fun r => { r with eval := .requested (bit (par q 8 1) 0) }), none)

def cmdEvalOpen : Cmd := { code := cEvalOpen, boxes := [0], level := 2, fields := [⟨8, 1, 1⟩], run := runEvalOpen }

/-- Answer the EVAL_OPEN that waits. -/
def State.answerOpen (s : State) (r : Rsp) : State :=
  eachIn [0, 1, 2, 3] (fun s m =>
    if s.executing m && decide (reqCode (s.mbx m).taken = cEvalOpen) then s.respond m (s.mbx m).sequenced r else s) s

/-- FROZEN in every owned readiness word. -/
def State.freeze (s : State) : State :=
  eachIn s.ownedShards (fun s i => s.modShard i (fun h => { h with ready := { h.ready with frozen := true } })) s

/-- The window opens. With EMA the Decant of E runs first, on channels that stay in PROC, as a live operation; the channels return to MEM
when it has ended (log entry 43). -/
def State.openWindow (s : State) (ema : Bool) : State :=
  if ema then
    match s.startOp cEvalOpen 0 0 0 .running with
    | .error e => (s.modRun (fun r => { r with eval := .closed })).answerOpen (Rsp.of e)
    | .ok t =>
      let work := t.1.decantWork { handle := t.2, code := cEvalOpen, st := .running }
      let parity := match work.head? with
        | some w => t.1.decantParity true w.1
        | none => Config.freeNat s.free % 2
      let s := (t.1.tickFree.freeze.modRun (fun r => { r with eval := .decanting })).modOp t.2 (fun o => { o with result := parity })
      s.answerOpen { Rsp.ok with body := res 8 2 t.2 + res 10 1 parity }
  else
    let s := (s.freeze.modRun (fun r => { r with eval := .opened })).channelsToMem
    s.answerOpen { Rsp.ok with body := res 10 1 0xFF }

/-- EVAL_WINDOW_OPEN: after the last readiness flip of the step and any cut hold. -/
def execEvalWindowOpen (s : State) : Res :=
  act s (fun s => match s.run.eval with
    | .requested ema => when (s.formula.isSome && s.atBoundary) (fun s =>
        let s := s.modRun (fun r => { r with times := { r.times with p5 := s.time } })
        s.blotStep.openWindow ema) s
    | _ => s)

/-- EVAL_CLOSE: every channel to PROC; the window is closed when the catch-up refreshes are paid. -/
def runEvalClose (s : State) (_ : Nat) (_ : BitVec 448) : Ran :=
  if s.run.eval = .decanting then s.say stConflict
  else if s.run.eval ≠ .opened then s.say stWrongState
  else (((s.modRun (fun r => { r with eval := .closing })).transitAll s.channelList .toProc).evalCheck, some Rsp.ok)

def cmdEvalClose : Cmd := { code := 0x0108, boxes := [0], level := 2, run := runEvalClose }

/-! ### Selections (R291, R293) -/

/-- DIGEST_SELECT; EVERY 0 restores the default. -/
def runDigestSelect (s : State) (_ : Nat) (q : BitVec 448) : Ran :=
  ({ s with digestSel := { first := par q 8 6, last := par q 16 6, every := par q 24 4 } }, some Rsp.ok)

def cmdDigestSelect : Cmd :=
  { code := 0x0109, boxes := [0], level := 2, fields := [whole 8 6, whole 16 6, whole 24 4], run := runDigestSelect }

/-- GRAD_CAPTURE; EVERY 0: none. -/
def runGradCapture (s : State) (_ : Nat) (q : BitVec 448) : Ran :=
  ({ s with captureSel :=
      { first := par q 8 6, last := par q 16 6, every := par q 24 4, shardFirst := par q 28 4, shardLast := par q 32 4 } }, some Rsp.ok)

def cmdGradCapture : Cmd :=
  { code := 0x010A, boxes := [0], level := 2, fields := [whole 8 6, whole 16 6, whole 24 4, whole 28 4, whole 32 4],
    run := runGradCapture }

/-! ### The effect of RUN_STOP -/

/-- RUN_STOP_EFFECT: after the last readiness flip of the step the admission ends and the channels return to MEM; RUN_STOPPED is posted
when the last of them is there. -/
def execRunStopEffect (s : State) : Res :=
  act s (fun s => when (s.formula.isSome && s.run.stopping && s.atBoundary) (fun s =>
    let s := s.blotStep
    let s := ((s.answerEval stWrongState).endAdmission).channelsToMem
    (s.modRun (fun r => { r with stopHold := some r.lastStep })).stopCheck) s)

/-! ### The rows -/

/-- RUN_SETUP. -/
def execRunSetup (m : Fin 4) (q : Req) (s : State) : Res := mailboxRow s m q cmdRunSetup
/-- FRESH_SEED. -/
def execFreshSeed (m : Fin 4) (q : Req) (s : State) : Res := mailboxRow s m q cmdFreshSeed
/-- ADMIT. -/
def execAdmitCmd (m : Fin 4) (q : Req) (s : State) : Res := mailboxRow s m q cmdAdmit
/-- STEP_BEGIN. -/
def execStepBegin (m : Fin 4) (q : Req) (s : State) : Res := mailboxRow s m q cmdStepBegin
/-- RUN_STOP. -/
def execRunStop (m : Fin 4) (q : Req) (s : State) : Res := mailboxRow s m q cmdRunStop
/-- CURSOR_SET. -/
def execCursorSet (m : Fin 4) (q : Req) (s : State) : Res := mailboxRow s m q cmdCursorSet
/-- EVAL_OPEN. -/
def execEvalOpen (m : Fin 4) (q : Req) (s : State) : Res := mailboxRow s m q cmdEvalOpen
/-- EVAL_CLOSE. -/
def execEvalClose (m : Fin 4) (q : Req) (s : State) : Res := mailboxRow s m q cmdEvalClose
/-- DIGEST_SELECT. -/
def execDigestSelect (m : Fin 4) (q : Req) (s : State) : Res := mailboxRow s m q cmdDigestSelect
/-- GRAD_CAPTURE. -/
def execGradCapture (m : Fin 4) (q : Req) (s : State) : Res := mailboxRow s m q cmdGradCapture

end Sys2Proof.Machine
end

