-- ==== Sys2Proof/Machine/FabricCommands.lean ====
section
/-! DEFINITION. The commands of the fabric manager: MEMBERSHIP (R266, R394), ROUTE_SET (R257), TOPOLOGY (R261). -/

namespace Sys2Proof.Machine

open Sys2Proof.Bits

/-- n little-endian words of w bytes at a stack address. -/
def State.dramWords (s : State) (a w n : Nat) : List Nat := (List.range n).map (fun i => leVal (s.dramBytes (a + w * i) w))

/-! ### MEMBERSHIP -/

/-- Whether a list rises strictly. -/
def rising : List Nat → Bool
  | [] => true
  | [_] => true
  | x :: y :: r => decide (x < y) && rising (y :: r)

/-- The DETAIL with which R266 refuses a membership, 0 when it accepts. -/
def State.epochFault (s : State) (epoch tray chip : Nat) (eas : List Nat) : Nat :=
  let own := s.smp.pos.toNat + chip * 8 + tray * 64
  if epoch ≤ s.fabric.epoch then 1
  else if !rising eas then 2
  else if !eas.contains own then 3
  else if s.formula.isSome && (decide (tray ≠ s.fabric.tray) || decide (chip ≠ s.fabric.chip)) then 4
  else 0

/-- Install an epoch: partner fences and BSEQ state cleared, held packets handled, TOPO on every UP link. -/
def State.installEpoch (s : State) (epoch tray chip : Nat) (eas : List Nat) : State :=
  let s := s.modFabric (fun f => { f with
    epoch := epoch, tray := tray, chip := chip, members := eas, assigned := true, fences := [], bseqTx := [], bseqRx := [] })
  let s := if epoch = 0xFFFFFFFF then s.error { code := 0x0605, cls := .j, unit := 0x000F, arg0 := epoch } else s
  let s := s.epochHeld
  (s.sendTopoAll).modFabric (fun f => { f with lastTopo := topoPayload s })

/-- MEMBERSHIP. -/
def runMembership (s : State) (_ : Nat) (q : BitVec 448) : Ran :=
  let eas := s.dramWords (par q 24 8) 4 (par q 16 4)
  if eas.any (fun a => decide (2 ^ 18 ≤ a)) then (s, some (Rsp.badField 24))
  else
    let d := s.epochFault (par q 8 4) (par q 12 2) (par q 14 1) eas
    if d ≠ 0 then (s, some { status := stEpoch, detail := d })
    else (s.installEpoch (par q 8 4) (par q 12 2) (par q 14 1) eas, some Rsp.ok)

def cmdMembership : Cmd :=
  { code := 0x0201, boxes := [1], level := 1, fields := [whole 8 4, whole 12 2, whole 14 1, whole 16 4, whole 24 8],
    bad := fun _ q => if 0xFFF < par q 12 2 then some 12 else if 7 < par q 14 1 then some 14 else none,
    ptrs := fun q => [(par q 24 8, 4 * par q 16 4)], stages := fun _ => true, run := runMembership }

/-! ### ROUTE_SET -/

/-- The DETAIL with which R257 refuses an entry, 0 when it accepts. -/
def routeFault (c : Cfg) (e : BitVec 64) : Nat :=
  let len := routeFld e 20 5
  let port := routeFld e 26 2
  let via := routeFld e 32 20
  if !bit e.toNat 25 then 0
  else if 20 < len then 1
  else if routeFld e 0 20 % 2 ^ (20 - len) ≠ 0 then 2
  else if port = 1 ∧ c = .izS then 3
  else if port = 2 ∧ via ≠ 0xFFFFF ∧ 2 ^ 18 ≤ via then 4
  else if port < 2 ∧ via ≠ 0xFFFFF then 4
  else 0

/-- The first faulty entry and its DETAIL. -/
def firstRouteFault (c : Cfg) : List (BitVec 64) → Nat → Option (Nat × Nat)
  | [], _ => none
  | e :: es, i => if routeFault c e ≠ 0 then some (i, routeFault c e) else firstRouteFault c es (i + 1)

/-- ROUTE_SET: entries from COUNT on are invalid. -/
def runRouteSet (s : State) (_ : Nat) (q : BitVec 448) : Ran :=
  let es := (s.dramWords (par q 8 8) 8 (par q 16 1)).map (BitVec.ofNat 64)
  if es.any (fun e => decide (routeFld e 28 4 ≠ 0) || decide (routeFld e 52 12 ≠ 0)) then (s, some (Rsp.badField 8))
  else match firstRouteFault s.cfg es 0 with
    | some f => (s, some { status := stRoute, detail := f.2, body := res 8 1 f.1 })
    | none => (s.modFabric (fun f => { f with routes := es ++ List.replicate (64 - es.length) 0 }), some Rsp.ok)

def cmdRouteSet : Cmd :=
  { code := 0x0202, boxes := [1], level := 1, fields := [whole 8 8, whole 16 1],
    bad := fun _ q => if 64 < par q 16 1 then some 16 else none,
    ptrs := fun q => [(par q 8 8, 8 * par q 16 1)], stages := fun _ => true, run := runRouteSet }

/-! ### TOPOLOGY -/

/-- TOPOLOGY: the own view, or the latest TOPO of a neighbour with its age in µs. -/
def runTopology (s : State) (_ : Nat) (q : BitVec 448) : Ran :=
  let w := par q 8 1
  if w = 0 then (s, some { Rsp.ok with body := res 8 32 (leVal (topoPayload s)) })
  else
    let l := s.link (w - 1)
    match (if w ≤ links s.cfg then l.topo else none) with
    | some bs => (s, some { Rsp.ok with body := res 8 32 (leVal bs) + res 40 4 (min ((s.time - l.topoAt) / 1000) 0xFFFFFFFE) })
    | none => (s, some { Rsp.ok with body := res 40 4 0xFFFFFFFF })

def cmdTopology : Cmd :=
  { code := 0x0203, boxes := [1, 2], level := 1, fields := [whole 8 1],
    bad := fun _ q => if 2 < par q 8 1 then some 8 else none, run := runTopology }

/-! ### The rows -/

/-- MEMBERSHIP. -/
def execMembership (m : Fin 4) (q : Req) (s : State) : Res := mailboxRow s m q cmdMembership
/-- ROUTE_SET. -/
def execRouteSet (m : Fin 4) (q : Req) (s : State) : Res := mailboxRow s m q cmdRouteSet
/-- TOPOLOGY. -/
def execTopology (m : Fin 4) (q : Req) (s : State) : Res := mailboxRow s m q cmdTopology

end Sys2Proof.Machine
end

