-- ==== Sys2Proof/Machine/LongCommands.lean ====
section
/-! DEFINITION. Long operations by command (R341, R345 to R349): OP_STATUS, OP_SUSPEND, OP_RESUME, OP_CANCEL; LONGOP reservations (R170);
FLACON_WRITE, DECANT_FULL, INIT_REGION, BLOTTER_DUMP, SELF_TEST, SCRUB_PASS and their ends. -/

namespace Sys2Proof.Machine

open Sys2Proof.Bits
open Sys2Proof.Convert

/-! ### OP_STATUS (Table 12-15) -/

/-- OP_STATUS. -/
def runOpStatus (s : State) (_ : Nat) (q : BitVec 448) : Ran :=
  match s.anyOp (par q 8 2) with
  | none => s.say stNoHandle
  | some o =>
    let body := res 8 2 o.handle + res 10 2 o.code + res 12 1 o.st.code + res 14 2 o.status + res 16 2 o.detail + res 24 8 o.done +
      res 32 8 o.total + res 40 24 o.result
    (s, some { Rsp.ok with body := body })

def cmdOpStatus : Cmd := { code := 0x0401, boxes := [0, 1, 2, 3], level := 1, fields := [whole 8 2], run := runOpStatus }

/-! ### OP_SUSPEND, OP_RESUME, OP_CANCEL (R345 to R347) -/

/-- OK with a state. -/
def State.sayState (s : State) (st : OpSt) : Ran := (s, some { Rsp.ok with body := res 8 1 st.code })

/-- Whether an operation is one that a mailbox may act on: MBX3 on RECOVERY_LOAD only, the others on every other kind (R345). -/
def actsOn (m : Nat) (o : LongOp) : Bool := decide (m = 3) == decide (o.code = cRecoveryLoad)

/-- Act on the operation that a request names: NO_HANDLE without one; an ended one shows its final state. -/
def State.onOp (s : State) (m : Nat) (q : BitVec 448) (f : State → LongOp → Ran) : Ran :=
  match s.anyOp (par q 8 2) with
  | none => s.say stNoHandle
  | some o =>
    if !actsOn m o then s.say stNoHandle
    else if (s.findOp o.handle).isNone then s.sayState o.st
    else f s o

/-- The EVAL window goes on to MEM when its EMA copy is no longer live (R295). -/
def State.evalDecanted (s : State) : State :=
  if s.run.eval = .decanting ∧ s.live cEvalOpen = false then
    (s.modRun (fun r => { r with eval := .opened })).channelsToMem
  else s

/-- OP_SUSPEND: a running operation stops at its next suspend point; one that waits stops at once. -/
def runOpSuspend (s : State) (m : Nat) (q : BitVec 448) : Ran :=
  s.onOp m q (fun s o => match o.st with
    | .running => (s.modOp o.handle (fun x => { x with st := .suspending })).sayState .suspending
    | .waiting => (s.modOp o.handle (fun x => { x with st := .suspended, resumeWaiting := true })).sayState .suspended
    | .waitInput => (s.modOp o.handle (fun x => { x with st := .suspended })).sayState .suspended
    | st => s.sayState st)

def cmdOpSuspend : Cmd := { code := 0x0402, boxes := [0, 1, 3], level := 1, fields := [whole 8 2], run := runOpSuspend }

/-- Whether a RESTORE FAR still needs input (R341). -/
def LongOp.needsInput (o : LongOp) : Bool :=
  decide (o.code = cRestore) && decide (o.p 12 1 = 1) && (decide (o.total = 0) || decide (o.input.length < o.total))

/-! ### LONGOP reservations (R167, R170) -/

/-- Whether an operation may run now: with a Formula admitted, one of R170 runs while a LONGOP reservation grants a channel that it names
(log entry 128). -/
def State.longopOpen (s : State) (o : LongOp) : Bool :=
  s.formula.isNone || !inReservation o.code || (s.opChannels o).any (s.reserved 4)

/-- The state in which an operation starts. -/
def State.longopStart (s : State) (code par : Nat) : OpSt :=
  if s.longopOpen { handle := 0, code := code, st := .running, par := par } then .running else .waiting

/-- The state in which a suspended operation continues; outside its reservations an operation of R170 waits. -/
def State.resumed (s : State) (o : LongOp) : OpSt :=
  if o.needsInput then .waitInput
  else if (inReservation o.code && !s.longopOpen o) || (!inReservation o.code && o.resumeWaiting) then .waiting
  else .running

/-- OP_RESUME. -/
def runOpResume (s : State) (m : Nat) (q : BitVec 448) : Ran :=
  s.onOp m q (fun s o => match o.st with
    | .suspended => (s.modOp o.handle (fun x => { x with st := s.resumed o, resumeWaiting := false })).sayState (s.resumed o)
    | st => s.sayState st)

def cmdOpResume : Cmd := { code := 0x0403, boxes := [0, 1, 3], level := 1, fields := [whole 8 2], run := runOpResume }

/-- Whether an operation has passed its last cancellable point (Table 12-16): ADMIT its last check, ADOPT the switch to ownership. -/
def LongOp.pastCancel (o : LongOp) : Bool :=
  (decide (o.code = cAdmit) || decide (o.code = cAdopt)) && decide (o.total ≠ 0) && decide (o.total ≤ o.done)

/-- OP_CANCEL: at once when the operation stands still, else at its next suspend point. -/
def runOpCancel (s : State) (m : Nat) (q : BitVec 448) : Ran :=
  s.onOp m q (fun s o =>
    if o.pastCancel then s.say stTooLate
    else match o.st with
      | .running => (s.modOp o.handle (fun x => { x with cancelling := true })).sayState .running
      | .suspending => (s.modOp o.handle (fun x => { x with cancelling := true })).sayState .suspending
      | _ => ((s.cancelOp o).evalDecanted).sayState .cancelled)

def cmdOpCancel : Cmd := { code := 0x0404, boxes := [0, 1, 3], level := 1, fields := [whole 8 2], run := runOpCancel }

/-- OP_SUSPEND_POINT: a running operation reaches a suspend point with its progress, at most 1 MiB on (R346). -/
def execOpSuspendPoint (h : BitVec 16) (done : Word64) (s : State) : Res :=
  act s (fun s => match s.findOp h.toNat with
    | none => s
    | some o =>
      let d := done.toNat
      when ((decide (o.st = .running) || decide (o.st = .suspending)) && decide (o.done ≤ d) && decide (d ≤ o.done + 2 ^ 20) &&
          (decide (o.total = 0) || decide (d ≤ o.total))) (fun s =>
        let s := s.modOp o.handle (fun x => { x with done := d })
        if o.cancelling then (s.cancelOp { o with done := d }).evalDecanted
        else if o.st = .suspending then s.modOp o.handle (fun x => { x with st := .suspended })
        else s) s)

/-! ### The windows of R170 -/

/-- LONGOP_WINDOW_ENTER: a waiting operation resumes when a reservation begins. -/
def execLongopWindowEnter (h : BitVec 16) (s : State) : Res :=
  act s (fun s => match s.findOp h.toNat with
    | none => s
    | some o => when (decide (o.st = .waiting) && s.longopOpen o) (fun s => s.modOp o.handle (fun x => { x with st := .running })) s)

/-- LONGOP_WINDOW_END: outside the reservations an operation of R170 waits. -/
def execLongopWindowEnd (h : BitVec 16) (s : State) : Res :=
  act s (fun s => match s.findOp h.toNat with
    | none => s
    | some o =>
      when (decide (o.st = .running) && !s.longopOpen o) (fun s =>
        s.modOp o.handle (fun x => { x with st := .waiting })) s)

/-- With no Formula admitted, the channels of an operation pass into PROC (R170). -/
def State.opEnter (s : State) (h : Nat) : State :=
  match s.findOp h with
  | some o => if s.formula.isNone && o.holdsChannels then s.transitAll (s.opChannels o) .toProc else s
  | none => s

/-- The end of a running operation of a code that is not being cancelled. -/
def State.finishing (s : State) (h : BitVec 16) (code : Nat) (f : LongOp → State → State) : State :=
  match s.findOp h.toNat with
  | none => s
  | some o => when (decide (o.code = code) && decide (o.st = .running) && !o.cancelling && s.opReady o) (f { o with done := o.total }) s

/-! ### FLACON_WRITE -/

/-- The state of the run as a far image of FLACON_WRITE takes it. -/
def State.writeVals (s : State) : CutVals :=
  { gen := s.run.gen + 1, step := s.run.nextStep - 1, skipped := (s.stepSt (s.run.nextStep - 1)).skipped, u := s.run.updates,
    l := s.run.lossExp, good := s.run.good }

/-- FLACON_WRITE: only while an EVAL window is open and no emission is in progress; the next generation number. -/
def runFlaconWrite (s : State) (_ : Nat) (q : BitVec 448) : Ran :=
  if s.run.eval ≠ .opened ∨ s.emission.isSome = true ∨ 2 ^ 32 - 1 ≤ s.run.gen then s.say stWrongState
  else
    let v := s.writeVals
    s.started cFlaconWrite q.toNat s.imageLength v.gen .running (res 12 4 v.gen) (fun s _ =>
      (s.modRun (fun r => { r with gen := v.gen })).beginEmission v false true)

def cmdFlaconWrite : Cmd := { code := cFlaconWrite, boxes := [0, 1], level := 2, run := runFlaconWrite }

/-- FLACON_WRITE_DONE: every page of the image is published. -/
def execFlaconWriteDone (h : BitVec 16) (s : State) : Res :=
  act s (fun s => s.finishing h cFlaconWrite (fun o s =>
    when (!s.outPages.any (fun (p : OutPage) => decide (p.kind = 1) && decide (p.gen = o.result))) (fun s =>
      s.endOp o .done stOk 0 o.result) s))

/-! ### DECANT_FULL (R285) and the EMA copy (R295) -/

/-- Decant bytes that an operation writes. -/
def State.decantBytes (s : State) (o : LongOp) : Nat :=
  ((s.decantWork o).map (fun (w : Nat × ShardEntry × Desc × Desc) =>
    ((stillsOf s.cfg w.2.1.n).map (fun k => let t := stripeCount s.cfg w.2.1.n k
      elemPlaneBytes w.2.2.2.fmt t + scalePlaneBytes w.2.2.2.fmt t)).sum)).sum

/-- DECANT_FULL. -/
def runDecantFull (s : State) (_ : Nat) (q : BitVec 448) : Ran :=
  if s.formula.isNone then s.say stWrongState
  else
    let o : LongOp := { handle := 0, code := cDecantFull, st := .running, par := q.toNat }
    s.started cDecantFull q.toNat (s.decantBytes o) 0 (s.longopStart cDecantFull q.toNat) 0 (fun s _ => s)

def cmdDecantFull : Cmd :=
  { code := cDecantFull, boxes := [0, 1], level := 2, fields := [whole 8 4, whole 12 4], run := runDecantFull }

/-- Publish VERSION v of a shard's restored Decant. -/
def State.publishRestored (s : State) (i : Nat) (e : ShardEntry) : State :=
  s.modShard i (fun h => { h with ready := { h.ready with
    version := h.imageVersion, stepLo := (s.run.nextStep - 1) % 2 ^ 16, tscale := s.tscale e } })

/-- Write the Decants of an operation; a full copy publishes VERSION v where the word shows 0. -/
def State.decantAll (s : State) (o : LongOp) : State :=
  let ema := decide (o.code = cEvalOpen)
  eachIn (s.decantWork o) (fun s w =>
    let s' := s.writeDecant w.2.1 w.2.2.1 w.2.2.2 (s.decantParity ema w.1)
    if !ema && decide ((s.shard w.1).ready.version = 0) then s'.publishRestored w.1 w.2.1 else s') s

/-- PARITY and VERSION of the first shard that a full copy writes (Table 12-16). -/
def State.decantResult (s : State) (o : LongOp) : Nat :=
  match (s.decantWork o).head? with
  | some w =>
    let h := s.shard w.1
    s.decantParity (decide (o.code = cEvalOpen)) w.1 + (if h.ready.version = 0 then h.imageVersion else h.ready.version + 1) % 2 ^ 32 * 2 ^ 32
  | none => o.result

/-- DECANT_FULL_DONE, also the end of an EMA copy, after which the EVAL window's channels return to MEM. -/
def execDecantFullDone (h : BitVec 16) (s : State) : Res :=
  act s (fun s =>
    let done := fun (o : LongOp) (s : State) =>
      if s.formula.isNone then s.endOp o .failed stWrongState 0 o.result
      else ((s.decantAll o).endOp o .done stOk 0 (s.decantResult o)).evalDecanted
    (s.finishing h cDecantFull done).finishing h cEvalOpen done)

/-! ### INIT_REGION -/

/-- The granule of INIT_REGION. -/
def initGrain (c : Cfg) : Nat := match c with | .izL => 2048 | .izS => 1024

/-- Whether a stack range meets a plane, a footprint or a reserved range of the admitted Formula. -/
def State.rangeInUse (s : State) (base len : Nat) : Bool :=
  s.formula.isSome && decide (len ≠ 0) && (
    (reservedRanges s.form.hdr).any (fun (r : Nat × Nat) => decide (r.2 ≠ 0) && overlap base len r.1 r.2) ||
    (List.range (2 ^ gBits s.cfg)).any (fun k =>
      let i := groupImage s.cfg k (base, len)
      (s.allPlanes s.form ++ footprints s.form).any (fun x => decide (x.2 ≠ 0) && decide (i.2 ≠ 0) && overlap i.1 i.2 x.1 x.2)))

/-- INIT_REGION. -/
def runInitRegion (s : State) (_ : Nat) (q : BitVec 448) : Ran :=
  if s.rangeInUse (par q 8 8) (par q 16 8) then s.say stWrongState
  else s.started cInitRegion q.toNat (par q 16 8) 0 (s.longopStart cInitRegion q.toNat) 0 State.opEnter

def cmdInitRegion : Cmd :=
  { code := cInitRegion, boxes := [0], level := 2, fields := [whole 8 8, whole 16 8, whole 24 8],
    bad := fun s q =>
      if par q 8 8 % initGrain s.cfg ≠ 0 then some 8
      else if par q 16 8 % initGrain s.cfg ≠ 0 ∨ s.capacity < par q 8 8 + par q 16 8 then some 16
      else none,
    run := runInitRegion }

/-- INIT_REGION_DONE. -/
def execInitRegionDone (h : BitVec 16) (s : State) : Res :=
  act s (fun s => s.finishing h cInitRegion (fun o s => (s.fillRegion (o.p 8 8) (o.p 16 8) (o.p 24 8)).endOp o .done stOk 0 o.result))

/-! ### BLOTTER_DUMP -/

/-- BLOTTER_DUMP. -/
def runBlotterDump (s : State) (_ : Nat) (q : BitVec 448) : Ran :=
  s.started cBlotterDump q.toNat (min (par q 24 4 / 64) (s.ringRecords (par q 8 8)).length) 0 (s.longopStart cBlotterDump q.toNat) 0 State.opEnter

def cmdBlotterDump : Cmd :=
  { code := cBlotterDump, boxes := [0], level := 2, fields := [whole 8 8, whole 16 8, whole 24 4],
    ptrs := fun q => [(par q 16 8, par q 24 4)], run := runBlotterDump }

/-- BLOTTER_DUMP_DONE: records from FROM on that the ring still holds; OVERRUN when FROM is gone. -/
def execBlotterDumpDone (h : BitVec 16) (s : State) : Res :=
  act s (fun s => s.finishing h cBlotterDump (fun o s =>
    let from' := o.p 8 8
    let rs := (s.ringRecords from').take (o.p 24 4 / 64)
    let first := rs.headD from'
    let s' := s.copyRecords (o.p 16 8) from' (o.p 24 4 / 64)
    s'.endOp { o with done := rs.length } .done (if from' < first then stOverrun else stOk) 0 (first % 2 ^ 64 + rs.length % 2 ^ 64 * 2 ^ 64)))

/-! ### SELF_TEST -/

/-- The units that a SELF_TEST may name: physical Stills, the intake store, the key island. -/
def testUnits (c : Cfg) : Nat := 2 ^ physicals c - 1 + 2 ^ 9 + 2 ^ 10

/-- SELF_TEST: not while a Formula is admitted. -/
def runSelfTest (s : State) (_ : Nat) (q : BitVec 448) : Ran :=
  if s.formula.isSome then s.say stWrongState
  else s.started cSelfTest q.toNat ((List.range 11).filter (bit (par q 8 4))).length 0 .running 0 (fun s _ => s)

def cmdSelfTest : Cmd :=
  { code := cSelfTest, boxes := [2], level := 2, fields := [⟨8, 4, 0x7FF⟩],
    bad := fun s q => if Nat.lor (par q 8 4) (testUnits s.cfg) = testUnits s.cfg then none else some 8, run := runSelfTest }

/-- Fence a unit that failed its test (class F). The intake store fails in a page that the manual does not say: a free value. -/
def State.fenceTested (s : State) (u : Nat) : State :=
  if u < 9 then s.fenceStill u
  else if u = 9 then
    let p := Config.freeNat s.free % intakePages s.cfg
    let s := { s.tickFree with pagesFenced := if s.pagesFenced.contains p then s.pagesFenced else s.pagesFenced ++ [p] }
    (s.count 6 0 8 1).error { code := 0x010C, cls := .f, unit := 0x000B, index := p, arg0 := p }
  else s.fenceKey 1

/-- SELF_TEST_DONE: the units of the request that failed are fenced. -/
def execSelfTestDone (h : BitVec 16) (failing : BitVec 11) (s : State) : Res :=
  act s (fun s => s.finishing h cSelfTest (fun o s =>
    let bad := Nat.land failing.toNat (o.p 8 4)
    (eachIn ((List.range 11).filter (bit bad)) State.fenceTested s).endOp o .done stOk 0 bad))

/-! ### SCRUB_PASS and patrol scrub (R168, R395) -/

/-- SCRUB_PASS. -/
def runScrubPass (s : State) (_ : Nat) (q : BitVec 448) : Ran :=
  let n := (s.channelList.filter (bit (par q 8 4))).length
  s.started cScrubPass q.toNat (n * (s.capacity / channels s.cfg)) 0 (s.longopStart cScrubPass q.toNat) 0 State.opEnter

def cmdScrubPass : Cmd :=
  { code := cScrubPass, boxes := [0, 2], level := 2, fields := [whole 8 4],
    bad := fun s q => if par q 8 4 < 2 ^ channels s.cfg then none else some 8, run := runScrubPass }

/-- A patrol pass of a channel completes: SCRUB_PASSES counts it and the debt returns to 0. -/
def State.scrubbed (s : State) (ch : Nat) : State :=
  ((s.count 3 ch 8 1).modChan ch (fun c => { c with scrubStart := 0, scrubPosts := 0 })).setCounter 8 ch 1 0

/-- SCRUB_PASS_DONE. -/
def execScrubPassDone (h : BitVec 16) (corrected uncorrectable : Word32) (s : State) : Res :=
  act s (fun s => s.finishing h cScrubPass (fun o s =>
    (eachIn (s.opChannels o) State.scrubbed s).endOp o .done stOk 0 (corrected.toNat + uncorrectable.toNat * 2 ^ 32)))

/-- PATROL_SCRUB: one word of a channel in TRANSIT or PROC is scrubbed; last: it ends the pass. Scrub takes only what nothing before it in
Table 1-4 claims: no word while a refresh is due or a segment runs (R16, R168). -/
def execPatrolScrub (ch : Fin 32) (sev : Sev) (last : Bool) (s : State) : Res :=
  onChan s ch (fun s =>
    when (decide (2 ≤ s.level) && s.backgroundOpen ch) (fun s =>
      let s := s.modChan ch (fun c => { c with scrubStart := if c.scrubStart = 0 then s.time else c.scrubStart })
      let s := match sev with
        | .clean => s
        | .corrected a => (s.count 3 ch 5 1).error { code := 0x0202, cls := .c, unit := 0x0002, index := ch, arg0 := a }
        | .uncorrectable a => (s.count 3 ch 7 1).error { code := 0x0204, cls := .c, unit := 0x0002, index := ch, arg0 := a }
      if last then s.scrubbed ch else s) s)

/-- The scrub debt of a channel in seconds. -/
def State.scrubDebt (s : State) (ch : Nat) : Nat :=
  let c := s.chan ch
  if c.scrubStart = 0 then 0 else (s.time - c.scrubStart) / 1000000000

/-- SCRUB_DEBT: at 24 h and each further 24 h of an incomplete pass. -/
def execScrubDebt (ch : Fin 32) (s : State) : Res :=
  onChan s ch (fun s =>
    when (decide (86400 * ((s.chan ch).scrubPosts + 1) ≤ s.scrubDebt ch) && s.present 0) (fun s =>
      let d := s.scrubDebt ch
      ((s.modChan ch (fun c => { c with scrubPosts := c.scrubPosts + 1 })).setCounter 8 ch 1 d).post 0x0104 0 7 ch d 0) s)

/-! ### The rows -/

/-- OP_STATUS. -/
def execOpStatus (m : Fin 4) (q : Req) (s : State) : Res := mailboxRow s m q cmdOpStatus
/-- OP_SUSPEND. -/
def execOpSuspend (m : Fin 4) (q : Req) (s : State) : Res := mailboxRow s m q cmdOpSuspend
/-- OP_RESUME. -/
def execOpResume (m : Fin 4) (q : Req) (s : State) : Res := mailboxRow s m q cmdOpResume
/-- OP_CANCEL. -/
def execOpCancel (m : Fin 4) (q : Req) (s : State) : Res := mailboxRow s m q cmdOpCancel
/-- FLACON_WRITE. -/
def execFlaconWrite (m : Fin 4) (q : Req) (s : State) : Res := mailboxRow s m q cmdFlaconWrite
/-- DECANT_FULL. -/
def execDecantFull (m : Fin 4) (q : Req) (s : State) : Res := mailboxRow s m q cmdDecantFull
/-- INIT_REGION. -/
def execInitRegion (m : Fin 4) (q : Req) (s : State) : Res := mailboxRow s m q cmdInitRegion
/-- BLOTTER_DUMP. -/
def execBlotterDump (m : Fin 4) (q : Req) (s : State) : Res := mailboxRow s m q cmdBlotterDump
/-- SELF_TEST. -/
def execSelfTest (m : Fin 4) (q : Req) (s : State) : Res := mailboxRow s m q cmdSelfTest
/-- SCRUB_PASS. -/
def execScrubPass (m : Fin 4) (q : Req) (s : State) : Res := mailboxRow s m q cmdScrubPass

end Sys2Proof.Machine
end

