-- ==== Sys2Proof/Machine/Recovery.lean ====
section
/-! DEFINITION. RESTORE, RESTORE_PIECE and ADOPT (R283 to R286): the checks of a Flacon image, the data of its shards, and what an
accepted image loads. -/

namespace Sys2Proof.Machine

open Sys2Proof.Bits
open Sys2Proof.Convert
open Sys2Proof.Hash

/-! ### Image metadata (Tables 10-3 to 10-5) -/

def hMagic (h : Nat) : Nat := field h 0 32
def hFormat (h : Nat) : Nat := field h 32 16
def hConfig (h : Nat) : Nat := field h 48 8
def hKind (h : Nat) : Nat := field h 56 1
def hGen (h : Nat) : Nat := field h 64 32
def hStep (h : Nat) : Nat := field h 96 48
def hUpdates (h : Nat) : Nat := field h 144 48
def hOwner (h : Nat) : Nat := field h 192 20
def hLoss (h : Nat) : Nat := field h 288 8
def hGood (h : Nat) : Nat := field h 296 16
def hKey (h : Nat) : Nat := field h 320 128
def hCursor (h : Nat) : List Byte := leBytes 64 (field h 448 512)
def hShards (h : Nat) : Nat := field h 1344 32
def hGroups (h : Nat) : Nat := field h 1376 16
def hLen (h : Nat) : Nat := field h 1408 64
def hDataOff (h : Nat) : Nat := field h 1472 64

/-- The directory entries of metadata, in order. -/
def dirEntries (m : List Byte) (h : Nat) : List Nat :=
  (List.range (hShards h)).map (fun j => leVal (slice m (256 + up64 (80 * hGroups h) + 64 * j) 64))

def dShard (e : Nat) : Nat := field e 0 32
def dPoison (e : Nat) : Bool := bit e 175
def dOff (e : Nat) : Nat := field e 368 40
def dCrc (e : Nat) : Nat := field e 448 32

/-- The format codes of a directory entry agree with the descriptors of a shard. -/
def formatsAgree (f : Formula) (x : ShardEntry) (e : Nat) : Bool :=
  decide (field e 168 7 = (storedStreams f x).foldl (fun a d => a + 2 ^ d.stream) 0) &&
    decide (field e 328 8 = fmtOf f x 0) && decide (field e 336 8 = fmtOf f x 1) && decide (field e 344 8 = fmtOf f x 2) &&
    decide (field e 352 8 = fmtOf f x 4) && decide (field e 360 8 = fmtOf f x 5)

/-- Whether the reserved fields of metadata are zero and its history counts lie within 0 to 16 (R7, Tables 10-3 to 10-5). -/
def metaFieldsOk (m : List Byte) (h : Nat) (es : List Nat) : Bool :=
  decide (field h 58 6 = 0) && decide (field h 212 12 = 0) && decide (field h 312 8 = 0) && decide (field h 1392 16 = 0) &&
    decide (field h 1568 448 = 0) &&
    (List.range (hGroups h)).all (fun i =>
      let r := leVal (slice m (256 + 80 * i) 80)
      decide (field r 8 5 ≤ 16) && decide (field r 13 51 = 0) && decide (field r 576 64 = 0)) &&
    es.all (fun e => decide (field e 177 7 = 0) && decide (field e 192 5 ≤ 16) && decide (field e 197 3 = 0) && decide (field e 480 32 = 0))

/-- Whether a directory entry matches an owned shard of the admitted Formula. -/
def State.entryAgrees (s : State) (e : Nat) : Bool :=
  match shardEntry s.form (dShard e) with
  | none => false
  | some x =>
    s.owns x && decide (field e 32 64 = x.gei) && decide (field e 96 32 = x.n) && decide (field e 160 8 = x.accord) &&
      decide (field e 408 40 = shardImageBytes s.form x) && formatsAgree s.form x e

/-- The status of the first check that metadata fails, 0 when it passes: CRCs, then GEN, OWNER, CONFIG, KIND and the directory, in an image of
this engine's own also WTRACK; reserved fields, with those that format 2 reserves (R286), are zero. The manual gives the last no status of
their own: MISMATCH (log entry 133). -/
def State.metaFault (s : State) (m : List Byte) (gen owner kind : Nat) : Nat :=
  let h := leVal (m.take 256)
  let es := dirEntries m h
  let fmt := hFormat h
  if m.length < 256 ∨ hMagic h ≠ 0x4E434C46 ∨ crc32c (m.take 252) ≠ field h 2016 32 then stCheckFailed
  else if m.length < hDataOff h ∨ crc32c ((m.take (hDataOff h)).drop 256) ≠ field h 1536 32 then stCheckFailed
  else if fmt ≠ 3 ∧ ¬(fmt = 2 ∧ kind = 0) then stMismatch
  else if hGen h ≠ gen ∨ hOwner h ≠ owner ∨ hConfig h ≠ targetOf s.cfg ∨ hKind h ≠ kind then stMismatch
  else if fmt = 2 ∧ (hKey h ≠ 0 ∨ field h 448 512 ≠ 0 ∨ hGroups h ≠ 0 ∨ es.any (fun e => decide (field e 192 5 ≠ 0) || decide (field e 200 128 ≠ 0)))
    then stMismatch
  else if !metaFieldsOk m h es then stMismatch
  else if !rising (es.map dShard) || !es.all s.entryAgrees then stMismatch
  else if owner = s.ea ∧ es.any (fun e => ((shardEntry s.form (dShard e)).map ShardEntry.wtrack) ≠ some (bit e 176)) then stMismatch
  else 0

/-! ### The data of a shard -/

/-- Captured stripes: shard, stream, logical Still, element bytes, scale bytes. -/
abbrev Stripes := List (Nat × Nat × Nat × List Byte × List Byte)

/-- The stripes of a shard from where each stripe's bytes lie. -/
def State.stripesFrom (s : State) (i : Nat) (el sc : Desc → Nat → Nat → List Byte) : Stripes :=
  match shardEntry s.form i with
  | none => []
  | some e => (storedStreams s.form e).flatMap (fun d => (stillsOf s.cfg e.n).map (fun k =>
      let t := stripeCount s.cfg e.n k
      (i, d.stream, k, el d k t, sc d k t)))

/-- The stripes of a shard in a far image (R280). -/
def State.farStripes (s : State) (img : List Byte) (e : Nat) : Stripes :=
  match shardEntry s.form (dShard e) with
  | none => []
  | some x =>
    let sl := stripeLen s.cfg x.n
    let base := fun (d : Desc) => dOff e + streamOffset s.form x d.stream
    s.stripesFrom (dShard e)
      (fun d k t => slice img (base d + k * elemPlaneBytes d.fmt sl) (elemPlaneBytes d.fmt t))
      (fun d k t => slice img (base d + up64 (elemPlaneBytes d.fmt x.n) + k * scalePlaneBytes d.fmt sl) (scalePlaneBytes d.fmt t))

/-- A byte of received pieces: the latest piece of its part that holds it, 0 when none does. -/
def pieceByte (ps : List (Nat × Nat × List Byte)) (tag off : Nat) : Byte :=
  ps.foldl (fun a (p : Nat × Nat × List Byte) => if p.1 = tag ∧ p.2.1 ≤ off ∧ off < p.2.1 + p.2.2.length then p.2.2.getD (off - p.2.1) a else a) 0

/-- n bytes of received pieces. -/
def pieceBytes (ps : List (Nat × Nat × List Byte)) (tag off n : Nat) : List Byte := (List.range n).map (fun i => pieceByte ps tag (off + i))

/-- The stripes of a shard in the RESTORE_DATA of a near copy, by the near map of this engine's own Formula (R281, R284). -/
def State.nearStripes (s : State) (ps : List (Nat × Nat × List Byte)) (shards : List Nat) (e : Nat) : Stripes :=
  let places := (nearMap s.cfg s.form shards 0).1
  let at' := fun (d : Desc) => ((places.find? (fun (p : NearPlace) => decide (p.1 = dShard e) && decide (p.2.1 = d.stream))).map
    (fun p => p.2.2)).getD (0, 0)
  s.stripesFrom (dShard e) (fun d k t => pieceBytes ps k (at' d).1 (elemPlaneBytes d.fmt t))
    (fun d k t => pieceBytes ps k (at' d).2 (scalePlaneBytes d.fmt t))

/-- The stripes of a shard as they stand in its planes. -/
def State.planeStripes (s : State) (e : Nat) : Stripes :=
  s.stripesFrom (dShard e) (fun d k t => s.stripeElems d 0 k t) (fun d k t => s.stripeScales d 0 k t)

/-- Whether the data of a shard has the DCRC of its entry. -/
def State.dataAgrees (s : State) (e : Nat) (x : Stripes) : Bool :=
  match shardEntry s.form (dShard e) with
  | none => false
  | some en => decide (crc32c (imageData s.cfg s.form (dShard e) en x) = dCrc e)

/-- Write the stripes of a shard into its planes. -/
def State.writeStripes (s : State) (x : Stripes) : State :=
  eachIn x (fun s (y : Nat × Nat × Nat × List Byte × List Byte) => match shardEntry s.form y.1 with
    | none => s
    | some e => match descOf s.form e y.2.1 with
      | none => s
      | some d => s.writeStripe d 0 y.2.2.1 y.2.2.2.1 y.2.2.2.2) s

/-! ### What an accepted image loads -/

/-- What the images of a generation have in common; K of a format 2 image comes from the request's seed. -/
def headCommon (h key : Nat) : Restored := ⟨hGen h, key, hStep h, hUpdates h, hLoss h, hGood h⟩

/-- Whether an image agrees with the others of its generation that this engine has restored or adopted (R284). -/
def State.agreesWith (s : State) (x : Restored) : Bool :=
  match s.restored with
  | some y => decide (y.gen ≠ x.gen) || decide (x = y)
  | none => true

/-- The term-exponent history of an entry. -/
def dHist (e : Nat) : List Int := (List.range (field e 192 5)).map (fun j => signed 8 (field e (200 + 8 * j) 8))

/-- The state of a directory entry: VERSION 0 with the image's VERSION kept, W, WHIST and POISON (R284, R285, R386). The poison of a window
that is still fenced stays until its clear (R127). -/
def State.loadEntry (s : State) (e : Nat) : State :=
  match shardEntry s.form (dShard e) with
  | none => s
  | some x =>
    let fenced := match gradWin s.form (dShard e) with
      | some p => (s.win p.1).fenced
      | none => false
    s.modShard (dShard e) (fun h => { h with
      ready := { poison := dPoison e || fenced, frozen := h.ready.frozen }
      w := if x.wtrack then signed 8 (field e 184 8) else x.wexp
      whist := if x.wtrack then dHist e else []
      imageVersion := field e 128 32
      windowFence := fenced && !dPoison e
      badUntil := 0 })

/-- The scale group of a record (Table 10-4). -/
def groupOfRecord (r : Nat) : ScaleGroup :=
  { k := signed 8 (field r 0 8)
    hist := (List.range (field r 8 5)).map (fun j => Fp.widen Fp.binary32 Fp.binary64 (field r (64 + 32 * j) 32)) }

/-- Merge two histories entry by entry, taking the larger value (R283). -/
def mergeHist : List Nat → List Nat → List Nat
  | [], b => b
  | a, [] => a
  | x :: a, y :: b => max x y :: mergeHist a b

/-- The scale groups of metadata go to the engine: merged with those of an image of the same generation while no step has been anchored since
that image (R283), else in their place; those of a format 2 image start anew (R286). A merged group's exponent follows from its history by
R76 (log entry 44). -/
def State.loadGroups (s : State) (m : List Byte) (h : Nat) : State :=
  let same := match s.restored with
    | some y => decide (y.gen = hGen h) && decide (s.run.lastStep = y.step)
    | none => false
  { s with scales := s.scales.zipIdx.map (fun (p : ScaleGroup × Nat) =>
      if hFormat h = 2 then
        { k := ((s.form.scaleGroups[p.2]?).map ScaleEntry.kInit).getD 0 }
      else if hGroups h ≤ p.2 then p.1
      else
        let r := groupOfRecord (leVal (slice m (256 + 80 * p.2) 80))
        if same then
          let hist := mergeHist p.1.hist r.hist
          { r with hist := hist, k := match s.form.scaleGroups[p.2]? with
              | some g => nextScale g hist r.k
              | none => r.k }
        else r) }

/-- The run goes back to the cut: K, N, u, the loss scale, the cursor; what was in progress is gone (R134, R227, R284). -/
def State.loadRun (s : State) (h key : Nat) : State :=
  let n := hStep h
  let s := s.modRun (fun r => { r with
    key := key, setUp := true, nextStep := n + 1, lastStep := n, updates := hUpdates h, lossExp := signed 8 (hLoss h), good := hGood h,
    steps := [], cutNext := 0, arrived := false, stepBegin := false, times := {} })
  let s := s.modStills (fun t => { t with
    passes := [], current := none, nextRec := none, pos := List.replicate (logicals s.cfg) (0, n + 1) })
  let s := s.modFabric (fun f => { f with rounds := [] })
  let s : State :=
    { s with
      keyPresent := s.present 3 && !s.keyFenced
      cursors := [(n, hCursor h)]
      atmResults := []
      atm := mapV (fun (a : AtmChannel) => { a with seg := none, segIdx := 0, units := [] }) s.atm
      shards := s.shards.map (fun (x : Shard) =>
        { x with slot := none, intakeStep := n + 1, groups := [], norm := none, entry := none, gKept := none })
      restored := some (headCommon h key)
      anchorBlocked := s.chans.toList.any Channel.fenced }
  s

/-! ### RESTORE (R284, R286) -/

/-- RESTORE: FAR waits for its pieces, NEAR for the keeper's packets. -/
def runRestore (s : State) (_ : Nat) (q : BitVec 448) : Ran :=
  if s.formula.isNone then s.say stWrongState
  else s.started cRestore q.toNat 0 0 (if par q 12 1 = 1 then .waitInput else .running) 0 (fun s _ => s)

def cmdRestore : Cmd :=
  { code := cRestore, boxes := [0, 1], level := 2, fields := [whole 8 4, whole 12 1, whole 16 16],
    bad := fun _ q => if 1 < par q 12 1 then some 12 else if par q 12 1 = 0 ∧ par q 16 16 ≠ 0 then some 16 else none, run := runRestore }

/-- The length of a far image, once its header is there. -/
def inputLen (bs : List Byte) : Nat := if bs.length < 256 then 0 else hLen (leVal (bs.take 256))

/-- RESTORE_PIECE: the next bytes of the image; the piece that ends at IMAGE_LEN completes the input. -/
def runRestorePiece (s : State) (_ : Nat) (q : BitVec 448) : Ran :=
  match s.anyOp (par q 8 2) with
  | none => s.say stNoHandle
  | some o =>
    if o.code ≠ cRestore ∨ o.st ≠ .waitInput then s.say stWrongState
    else if par q 16 8 ≠ o.input.length then (s, some (Rsp.badField 16))
    else
      let bs := o.input ++ s.dramBytes (par q 24 8) (par q 32 4)
      let len := inputLen bs
      if len ≠ 0 ∧ len < bs.length then (s, some (Rsp.badField 32))
      else
        let full := decide (len ≠ 0) && decide (bs.length = len)
        (s.modOp o.handle (fun x => { x with input := bs, total := len, st := if full then .running else x.st }), some Rsp.ok)

def cmdRestorePiece : Cmd :=
  { code := 0x0303, boxes := [0, 1], level := 2, fields := [whole 8 2, whole 16 8, whole 24 8, whole 32 4],
    bad := fun s q => if s.form.hdr.stageMib * 2 ^ 20 < par q 32 4 + 2 ^ 20 then some 32 else none,
    ptrs := fun q => [(par q 24 8, par q 32 4)], run := runRestorePiece }

/-- Accept an image or give the status of the check that it fails. -/
def State.acceptImage (s : State) (m : List Byte) (gen owner kind seed : Nat) (data : Nat → Stripes) : Nat :=
  let h := leVal (m.take 256)
  let bad := s.metaFault m gen owner kind
  let key := if hFormat h = 2 then Sillage.keyOfSeed seed else hKey h
  if bad ≠ 0 then bad
  else if !(dirEntries m h).all (fun e => s.dataAgrees e (data e)) then stCheckFailed
  else if !s.agreesWith (headCommon h key) then stMismatch
  else 0

/-- Load an accepted image. -/
def State.loadImage (s : State) (m : List Byte) (seed : Nat) (write : Bool) (data : Nat → Stripes) : State :=
  let h := leVal (m.take 256)
  let key := if hFormat h = 2 then Sillage.keyOfSeed seed else hKey h
  let es := dirEntries m h
  let s := if write then eachIn es (fun s e => s.writeStripes (data e)) s else s
  let s := (s.loadGroups m h).loadRun h key
  eachIn es State.loadEntry s

/-- The metadata of a near copy from the received pieces (PART 1). -/
def nearInput (ps : List (Nat × Nat × List Byte)) : List Byte :=
  pieceBytes ps 8 0 (hDataOff (leVal (pieceBytes ps 8 0 256)))

/-- RESTORE_DONE. -/
def execRestoreDone (h : BitVec 16) (s : State) : Res :=
  act s (fun s => s.finishing h cRestore (fun o s =>
    let far := decide (o.p 12 1 = 1)
    if s.formula.isNone then s.endOp o .failed stWrongState 0 o.result
    else when (far || o.committedPoint) (fun s =>
      let m := if far then o.input else nearInput o.near
      let shards := (dirEntries m (leVal (m.take 256))).map dShard
      let data := fun (e : Nat) => if far then s.farStripes o.input e else s.nearStripes o.near shards e
      let bad := s.acceptImage m (o.p 8 4) s.ea (ofBool (!far)) (o.p 16 16) data
      if bad ≠ 0 then s.endOp o .failed bad 0 o.result
      else
        let hd := leVal (m.take 256)
        let s := (s.blotStep).loadImage m (o.p 16 16) true data
        let s := s.post 0x0304 2 7 (hGen hd) (hStep hd) 0
        (s.endOp o .done stOk 0 (hStep hd % 2 ^ 64 + hUpdates hd % 2 ^ 64 * 2 ^ 64)).retryHeld) s))

/-! ### ADOPT (R283) -/

/-- The metadata of the ward's copy in the near region. -/
def State.nearMetadata (s : State) : List Byte := s.dramBytes s.near.base s.nearDataOff

/-- ADOPT: the keeper holds G for the ward, and the admitted Formula is of the current epoch. -/
def runAdopt (s : State) (_ : Nat) (q : BitVec 448) : Ran :=
  if s.formula.isNone || decide (s.form.hdr.epoch ≠ s.fabric.epoch) then s.say stWrongState
  else if s.near.ward ≠ par q 8 4 ∨ s.near.gen ≠ par q 12 4 ∨ s.near.done = false then s.say stNotHeld
  else
    let m := s.nearMetadata
    let total := ((dirEntries m (leVal (m.take 256))).map (fun e => field e 408 40)).sum
    s.started cAdopt q.toNat total 0 .running 0 (fun s _ => s)

def cmdAdopt : Cmd :=
  { code := cAdopt, boxes := [1], level := 3, fields := [whole 8 4, whole 12 4],
    bad := fun _ q => if par q 8 4 < 2 ^ 18 then none else some 8, run := runAdopt }

/-- ADOPT_DONE: the shards verify in their planes and become owned shards with the state of their entries. -/
def execAdoptDone (h : BitVec 16) (s : State) : Res :=
  act s (fun s => s.finishing h cAdopt (fun o s =>
    if s.formula.isNone then s.endOp o .failed stWrongState 0 o.result
    else
      let m := s.nearMetadata
      let bad := s.acceptImage m (o.p 12 4) (o.p 8 4) 1 0 s.planeStripes
      if bad ≠ 0 then s.endOp o .failed bad 0 o.result
      else
        let n := (dirEntries m (leVal (m.take 256))).length
        ((s.loadImage m 0 false s.planeStripes).endOp o .done stOk 0 n).retryHeld))

/-! ### The rows -/

/-- RESTORE. -/
def execRestore (m : Fin 4) (q : Req) (s : State) : Res := mailboxRow s m q cmdRestore
/-- RESTORE_PIECE. -/
def execRestorePiece (m : Fin 4) (q : Req) (s : State) : Res := mailboxRow s m q cmdRestorePiece
/-- ADOPT. -/
def execAdopt (m : Fin 4) (q : Req) (s : State) : Res := mailboxRow s m q cmdAdopt

end Sys2Proof.Machine
end

