-- ==== Sys2Proof/Machine/Containment.lean ====
section
/-! DEFINITION. FENCE_CLEAR (R384, Table 14-4), ERRLOG_READ (R389), COUNTER_READ and COUNTER_CLEAR (R390 to R392), and the faults of a
Channel Sequencer (R385) and of the key island's mixer (R322, Table 14-3). -/

namespace Sys2Proof.Machine

open Sys2Proof.Bits

/-! ### FENCE_CLEAR (R384) -/

/-- The largest INDEX of a unit (Table 14-4); none for a code that names no fenceable unit. -/
def unitIndexMax (c : Cfg) (unit : Nat) : Option Nat :=
  match unit with
  | 1 => some (physicals c - 1)
  | 2 => some (channels c - 1)
  | 3 => some 2047
  | 4 => some 1
  | 5 => some 255
  | 6 => some 1
  | 7 => some 0
  | 8 => some 0
  | 9 => some 127
  | 10 => some 0
  | 11 => some 767
  | 12 => some 1
  | 13 => some 0
  | _ => none

/-- Whether a program of the admitted Formula works on a channel. -/
def State.atomizerWork (s : State) (ch : Nat) : Bool :=
  s.formula.isSome && s.form.programs.any (fun (p : AtmProgram) => bit p.chmask ch)

/-- The (pseudo-channel, pair) of an Atomizer's INDEX; its channel is INDEX / 64. -/
def atomizerOf (idx : Nat) : Nat × Nat := (idx / 32 % 2, idx % 32)

/-- Whether a unit is fenced. -/
def State.unitFenced (s : State) (unit idx : Nat) : Bool :=
  match unit with
  | 1 => s.stills.fenced.contains idx
  | 2 => (s.chan idx).fenced
  | 3 => (s.atmCh (idx / 64)).fenced.contains (atomizerOf idx)
  | 4 => decide ((s.link idx).st = .fenced)
  | 5 => (s.win idx).fenced
  | 6 => s.fw.coreOut idx
  | 7 => s.keyFenced
  | 8 => s.entropy.fenced
  | 9 => bit s.fuses.marginal idx
  | 10 => s.shards.any (fun (h : Shard) => h.ready.poison)
  | 11 => s.pagesFenced.contains idx
  | 12 => (s.codeSlot idx).fenced
  | 13 => !s.fabric.fences.isEmpty
  | _ => false

/-- Whether Table 14-4 lets the command clear the fence of a unit, its condition being met. -/
def State.clearable (s : State) (unit idx : Nat) : Bool :=
  match unit with
  | 1 => !bit s.fuses.stillOff idx
  | 2 => s.formula.isNone && !(s.chan idx).fencedByFuse
  | 3 => !s.atomizerWork (idx / 64)
  | 4 => true
  | 5 => true
  | 6 => true
  | 7 => true
  | 11 => s.formula.isNone
  | _ => false

/-- Request the power of a domain that the level needs, where its acknowledge has gone (R322, R323). -/
def State.repower (s : State) (i : Nat) : State := if s.domainNeeded i && !s.domainFenced i then s.requestDom i else s

/-- Clear the fence of a unit: a Still becomes the spare (R87), an Atomizer's channel stays blocked until an admission (R221), a link retrains
and waits for LINK_UP (R310), a window waits for the step boundary (R384), a core boots the active image as standby, the key island takes K
again (R227). A domain that was fenced is powered again where the level needs it (R323); below S3 the PPT outputs stand at their reset
values (R324). -/
def State.clearFence (s : State) (unit idx : Nat) : State :=
  match unit with
  | 1 => (s.modStills (fun t => { t with fenced := t.fenced.erase idx, spare := idx })).repower (4 + idx)
  | 2 => s.modChan idx (fun c => { c with fenced := false })
  | 3 => s.modAtm (idx / 64) (fun a => { a with fenced := a.fenced.erase (atomizerOf idx) })
  | 4 => ((s.modLink idx (fun l => { l.clear .down with retrain := s.present 2 })).repower 2).topoIfChanged
  | 5 => s.modWin idx (fun x => { x with clearing := true })
  | 6 => s.modFw (fun w => { w with coreFenced := setV w.coreFenced idx false, standbyBoot := w.running })
  | 7 => { s with keyFenced := false, keyPresent := s.present 3 && s.run.setUp }.repower 3
  | 11 => { s with pagesFenced := s.pagesFenced.erase idx }
  | _ => s

/-- FENCE_CLEAR. -/
def runFenceClear (s : State) (_ : Nat) (q : BitVec 448) : Ran :=
  let unit := par q 8 2
  let idx := par q 10 2
  if !s.unitFenced unit idx then s.say stOk
  else if !s.clearable unit idx then s.say stWrongState
  else (s.clearFence unit idx).say stOk

def cmdFenceClear : Cmd :=
  { code := 0x0505, boxes := [0, 1], level := 1, fields := [whole 8 2, whole 10 2],
    bad := fun s q => match unitIndexMax s.cfg (par q 8 2) with
      | none => some 8
      | some m => if par q 10 2 ≤ m then none else some 10
    run := runFenceClear }

/-! ### ERRLOG_READ (R388, R389) -/

/-- The records of the log in the order of R389. -/
def ErrLog.listing (l : ErrLog) : List (BitVec 512) := l.first ++ l.latest

/-- ERRLOG_READ: COUNT records from position FIRST on, none beyond the last one held. -/
def runErrlogRead (s : State) (_ : Nat) (q : BitVec 448) : Ran :=
  let rs := (s.log.listing.drop (par q 8 2)).take (par q 10 2)
  let body := res 8 1 s.log.first.length + res 9 1 s.log.latest.length + res 12 4 s.log.dropped + res 16 2 rs.length
  (s.writeDram (par q 16 8) (rs.flatMap (fun r => leBytes 64 r.toNat)), some { Rsp.ok with body := body })

def cmdErrlogRead : Cmd :=
  { code := 0x0506, boxes := [0, 1, 2], level := 1, fields := [whole 8 2, whole 10 2, whole 16 8],
    ptrs := fun q => [(par q 16 8, 64 * par q 10 2)], stages := fun _ => true, run := runErrlogRead }

/-! ### COUNTER_READ and COUNTER_CLEAR (R390 to R392, Tables 14-5, 14-6) -/

/-- The counters of a set, by index and number (Table 14-5). -/
def setCounters (c : Cfg) (set : Nat) : List (Nat × Nat) :=
  let nums := fun (n index : Nat) => (List.range n).map (fun j => (index, j + 1))
  match set with
  | 1 => nums 11 0
  | 2 => (List.range 256).flatMap (nums 11)
  | 3 => (List.range (channels c)).flatMap (nums 8)
  | 4 => (List.range (links c) ++ [2]).flatMap (nums 12)
  | 5 => (List.range (channels c)).flatMap (nums 3)
  | 6 => nums 8 0
  | 7 => nums 10 0
  | 8 => (List.range (channels c)).map (fun ch => (ch, 1)) ++ [2, 3, 4, 5].map (fun n => (32, n))
  | _ => []

/-- The value of a counter as a read shows it: the scrub debt of a channel is the time since its oldest incomplete pass began (R395). -/
def State.counterValue (s : State) (set index num : Nat) : Nat × Bool :=
  let c := findCounter s.counters set index num
  if set = 8 ∧ num = 1 then (min (s.scrubDebt index) (2 ^ 32 - 1), c.2) else c

/-- A counter entry (Table 14-6). -/
def State.counterEntry (s : State) (set : Nat) (k : Nat × Nat) : List Byte :=
  let v := s.counterValue set k.1 k.2
  leBytes 16 (k.2 % 2 ^ 16 + k.1 % 2 ^ 16 * 2 ^ 16 + ofBool v.2 * 2 ^ 32 + counterWidth set * 2 ^ 40 + v.1 % 2 ^ 64 * 2 ^ 64)

/-- What COUNTER_READ writes: the header and as many whole entries as fit. -/
def State.counterBytes (s : State) (set len : Nat) : List Byte :=
  let ks := (setCounters s.cfg set).take (len / 16 - 1)
  if len < 16 then []
  else leBytes 16 (set + ks.length * 2 ^ 32 + s.time % 2 ^ 64 * 2 ^ 64) ++ ks.flatMap (s.counterEntry set)

/-- COUNTER_READ. -/
def runCounterRead (s : State) (_ : Nat) (q : BitVec 448) : Ran :=
  let bs := s.counterBytes (par q 8 2) (par q 24 4)
  (s.writeDram (par q 16 8) bs, some { Rsp.ok with body := res 8 4 bs.length })

/-- A SET that Table 14-5 does not list is out of range. -/
def badSet (_ : State) (q : BitVec 448) : Option Nat := if 1 ≤ par q 8 2 ∧ par q 8 2 ≤ 8 then none else some 8

def cmdCounterRead : Cmd :=
  { code := 0x0507, boxes := [0, 1, 2], level := 1, fields := [whole 8 2, whole 16 8, whole 24 4], bad := badSet,
    ptrs := fun q => [(par q 16 8, par q 24 4)], stages := fun _ => true, run := runCounterRead }

/-- Whether COUNTER_CLEAR of a set zeroes a counter: in BACKGROUND the debts stay. -/
def clears (set : Nat) (c : Counter) : Bool := decide (c.set = set) && (decide (set ≠ 8) || decide (3 ≤ c.num))

/-- COUNTER_CLEAR. -/
def runCounterClear (s : State) (_ : Nat) (q : BitVec 448) : Ran :=
  { s with counters := s.counters.filter (fun (c : Counter) => !clears (par q 8 2) c) }.say stOk

def cmdCounterClear : Cmd :=
  { code := 0x0508, boxes := [0], level := 1, fields := [whole 8 2], bad := badSet, run := runCounterClear }

/-! ### Faults -/

/-- CSQ_FAULT: the channel is fenced as a class J error (R385). -/
def execCsqFault (ch : Fin 32) (parity : BitVec 16) (s : State) : Res :=
  onChan s ch (fun s => (s.fenceChannel ch).error
    { code := 0x0205, cls := .j, unit := 0x0002, index := ch, arg0 := parity.toNat })

/-- MIXER_SELF_CHECK: the key island is fenced (KEY_LOST). -/
def execMixerSelfCheck (s : State) : Res := act s (fun s => when (s.present 3) (fun s => s.fenceKey 1) s)

/-! ### The rows -/

/-- FENCE_CLEAR. -/
def execFenceClear (m : Fin 4) (q : Req) (s : State) : Res := mailboxRow s m q cmdFenceClear
/-- ERRLOG_READ. -/
def execErrlogRead (m : Fin 4) (q : Req) (s : State) : Res := mailboxRow s m q cmdErrlogRead
/-- COUNTER_READ. -/
def execCounterRead (m : Fin 4) (q : Req) (s : State) : Res := mailboxRow s m q cmdCounterRead
/-- COUNTER_CLEAR. -/
def execCounterClear (m : Fin 4) (q : Req) (s : State) : Res := mailboxRow s m q cmdCounterClear

end Sys2Proof.Machine
end

