-- ==== Sys2Proof/Machine/FirmwareCommands.lean ====
section
/-! DEFINITION. ATTEST (R376) and the firmware commands: FW_LOAD, FW_ACTIVATE, FW_COMMIT, RECOVERY_LOAD (R365, R366, R370, R373, R375). -/

namespace Sys2Proof.Machine

open Sys2Proof.Bits
open Sys2Proof.Hash

/-! ### ATTEST (R376, Table 13-15) -/

/-- The ASCII bytes of "LUAVIK-ATTEST". -/
def attestLabel : List Byte := [0x4C, 0x55, 0x41, 0x56, 0x49, 0x4B, 0x2D, 0x41, 0x54, 0x54, 0x45, 0x53, 0x54]

/-- The private attestation key of a device secret. -/
def attestKey (secret : Nat) : Nat := 1 + beVal (sha384 (leBytes 32 secret ++ attestLabel)) % (p384n - 1)

/-- Bytes 0 to 199 of the attestation report, before the signature. -/
def State.attestBody (s : State) (challenge : List Byte) (d : Nat) : List Byte :=
  let i := (s.fw.running.map Fin.toNat).getD 0
  let c := s.codeSlot i
  let m := c.manifest
  let pk := publicKey d
  leBytes 16 (0x41545354 + 0x0001 * 2 ^ 32 + smIdent s.cfg * 2 ^ 64 + smFru s * 2 ^ 96) ++ challenge ++ sha384 (c.bundle.take 416) ++
    leBytes 8 (s.fuses.arb % 256 + mKeySlot m * 2 ^ 8 + ofBool (decide (c.st = .committed)) * 2 ^ 9 + field s.fuses.lock 1 5 * 2 ^ 10 +
      mVersion m * 2 ^ 16) ++ beBytes 48 pk.1 ++ beBytes 48 pk.2

/-- The attestation report: body, then r and s. -/
def State.attestReport (s : State) (challenge : List Byte) (d : Nat) : List Byte :=
  let b := s.attestBody challenge d
  let sig := ecdsaSign d b
  b ++ beBytes 48 sig.1 ++ beBytes 48 sig.2

/-- ATTEST: refused while the device secret is unusable. -/
def runAttest (s : State) (_ : Nat) (q : BitVec 448) : Ran :=
  match s.fuses.secret with
  | none => s.say stWrongState
  | some x => (s.writeDram (par q 40 8) (s.attestReport (parBytes q 8 32) (attestKey x)), some { Rsp.ok with body := res 8 4 296 })

def cmdAttest : Cmd :=
  { code := 0x0509, boxes := [0, 1, 2], level := 1, fields := [whole 8 32, whole 40 8], ptrs := fun q => [(par q 40 8, 296)],
    stages := fun s => s.fuses.secret.isSome, run := runAttest }

/-! ### FW_LOAD (R365, R366) -/

/-- Whether native placement is refused: the slot that is not active is fenced or holds the fallback of a PROBATION or ACTIVE slot. -/
def State.slotRefused (s : State) : Bool :=
  let j := s.otherSlot
  let st := s.fw.running.map (fun (i : Fin 2) => (s.codeSlot i.toNat).st)
  (s.codeSlot j).fenced ||
    (decide (s.fw.fallback.map Fin.toNat = some j) && (decide (st = some SlotSt.probation) || decide (st = some SlotSt.active)))

/-- Whether a handover is in progress. -/
def State.handingOver (s : State) : Bool := decide (s.fw.handover ≠ .none)

/-- FW_LOAD: any later FW_LOAD discards the pending record of a staged bundle. -/
def runFwLoad (s : State) (_ : Nat) (q : BitVec 448) : Ran :=
  let native := decide (par q 20 1 = 0)
  if s.handingOver then s.say stWrongState
  else if native && s.slotRefused then s.say fwSlot
  else if !native && s.fuses.locked 5 then s.say fwStagingOff
  else s.started cFwLoad q.toNat (par q 16 4) (if native then s.otherSlot else 2) .running 0 (fun s _ =>
    s.modFw (fun w => { w with pendingStage := none }))

def cmdFwLoad : Cmd :=
  { code := cFwLoad, boxes := [0], level := 1, fields := [whole 8 8, whole 16 4, whole 20 1],
    bad := fun _ q => if 1 < par q 20 1 then some 20 else none,
    ptrs := fun q => [(par q 8 8, par q 16 4)], run := runFwLoad }

/-! ### FW_ACTIVATE (R370) -/

/-- The LOADED slot. -/
def State.loadedSlot (s : State) : Option Nat := [0, 1].find? (fun i => decide ((s.codeSlot i).st = SlotSt.loaded))

/-- FW_ACTIVATE: the standby core begins to boot the LOADED slot. While it boots a second request changes nothing. A fenced standby core
cannot boot it. -/
def runFwActivate (s : State) (_ : Nat) (_ : BitVec 448) : Ran :=
  match s.loadedSlot with
  | none => s.say fwNoImage
  | some i =>
    if [0, 1].any (fun j => decide ((s.codeSlot j).st = SlotSt.probation)) then s.say fwNoImage
    else if mHandoverFmt (s.codeSlot i).manifest ≠ 2 then s.say fwCompat
    else if s.handingOver then s.say stOk
    else if s.fw.coreOut (1 - s.fw.core.toNat) then s.say stWrongState
    else (s.modFw (fun w => { w with handover := .booting (slotIx i), standbyBoot := some (slotIx i), standby := none })).say stOk

def cmdFwActivate : Cmd := { code := 0x0602, boxes := [0], level := 1, run := runFwActivate }

/-! ### FW_COMMIT (R373) -/

/-- FW_COMMIT: the request stays unanswered while bits are burned. -/
def runFwCommit (s : State) (m : Nat) (_ : BitVec 448) : Ran :=
  match s.fw.running with
  | none => s.say fwNoImage
  | some i =>
    let c := s.codeSlot i.toNat
    if c.st = SlotSt.probation then s.say fwProbation
    else if c.st ≠ SlotSt.active then s.say fwNoImage
    else
      let bits := commitBits s.fuses c.manifest
      if bits.isEmpty then (s.commitDone m i.toNat 0xFF, none)
      else (s.modFw (fun w => { w with commit := some { bits := bits, mbx := m, since := s.time } }), none)

def cmdFwCommit : Cmd := { code := cFwCommit, boxes := [0], level := 1, run := runFwCommit }

/-! ### RECOVERY_LOAD (R375) -/

/-- RECOVERY_LOAD: in ROM mode only, into slot A, or slot B when A is fenced. -/
def runRecoveryLoad (s : State) (_ : Nat) (q : BitVec 448) : Ran :=
  if !s.fw.romMode then s.say stWrongState
  else if (s.codeSlot s.recoverySlot).fenced then s.say fwSlot
  else s.started cRecoveryLoad q.toNat (par q 16 4) s.recoverySlot .running 0 (fun s _ => s)

def cmdRecoveryLoad : Cmd :=
  { code := cRecoveryLoad, boxes := [3], level := 1, fields := [whole 8 8, whole 16 4],
    ptrs := fun q => [(par q 8 8, par q 16 4)], run := runRecoveryLoad }

/-! ### The rows -/

/-- ATTEST. -/
def execAttest (m : Fin 4) (q : Req) (s : State) : Res := mailboxRow s m q cmdAttest
/-- FW_LOAD. -/
def execFwLoad (m : Fin 4) (q : Req) (s : State) : Res := mailboxRow s m q cmdFwLoad
/-- FW_ACTIVATE. -/
def execFwActivate (m : Fin 4) (q : Req) (s : State) : Res := mailboxRow s m q cmdFwActivate
/-- FW_COMMIT. -/
def execFwCommit (m : Fin 4) (q : Req) (s : State) : Res := mailboxRow s m q cmdFwCommit
/-- RECOVERY_LOAD. -/
def execRecoveryLoad (m : Fin 4) (q : Req) (s : State) : Res := mailboxRow s m q cmdRecoveryLoad

end Sys2Proof.Machine
end

