-- ==== Sys2Proof/Machine/HostPort.lean ====
section
/-! DEFINITION. The host commands at HCP (R298 to R304): the bypass, the aperture (R123, R127, R301 to R303), commands to an owned
channel (R20, R304). -/

namespace Sys2Proof.Machine

open Sys2Proof.Bits

/-! ### The status area (Table 5-1) -/

/-- The readiness word of a shard (Table 4-11). -/
def readyWord (r : Ready) : Nat :=
  r.version % 2 ^ 32 + r.stepLo % 2 ^ 16 * 2 ^ 32 + ofBool r.skipped * 2 ^ 48 + ofBool r.poison * 2 ^ 49 + ofBool r.frozen * 2 ^ 50 +
    r.tscale % 256 * 2 ^ 56

/-- The credit word of a window (Table 5-3). -/
def creditWord (e : WinEntry) (x : Win) : Nat :=
  if e.enable then x.returned % 2 ^ 32 + e.issued % 2 ^ 16 * 2 ^ 32 + 2 ^ 48 + ofBool x.fenced * 2 ^ 49 else 0

/-- The 64-bit word at an offset of the status area that is a multiple of 8. -/
def State.statusWord (s : State) (off : Nat) : Nat :=
  if off = 0 then s.run.status0
  else if off = 8 then s.run.status1
  else if 0x1000 ≤ off ∧ off < 0x1800 then
    match s.form.windows[(off - 0x1000) / 8]? with
    | some e => creditWord e (s.win ((off - 0x1000) / 8))
    | none => 0
  else match s.form.shards.zipIdx.find? (fun (p : ShardEntry × Nat) => s.owns p.1 && decide (p.1.readyOff = off)) with
    | some p => readyWord (s.shard p.2).ready
    | none => 0

/-- The 32 bytes at an offset of the status area. -/
def State.statusBytes (s : State) (off : Nat) : Nat :=
  s.statusWord off + s.statusWord (off + 8) * 2 ^ 64 + s.statusWord (off + 16) * 2 ^ 128 + s.statusWord (off + 24) * 2 ^ 192

/-- The enabled windows whose region holds an aperture offset, by ascending index. -/
def windowsAt (f : Formula) (off : Nat) : List (WinEntry × Nat) :=
  f.windows.zipIdx.filter (fun (p : WinEntry × Nat) => p.1.enable && decide (p.1.base ≤ off) && decide (off < p.1.base + p.1.issued * 65536))

/-- A granule of an EGRESS window: none where the engine has written nothing. -/
def State.egressGranule (x : Win) (issued off : Nat) : Option (BitVec 256) :=
  (x.pages.find? (fun (p : Page) => decide (p.num % issued = off / 65536))).bind (fun p => p.find (off % 65536 / 32))

/-- What an aperture read returns (Table 5-1); none for bytes of an EGRESS page that hold no written data. -/
def State.apertureRead (s : State) (off : Nat) : Option Nat :=
  if off < 2 ^ 20 then some (s.statusBytes off)
  else match (windowsAt s.form off).head? with
    | some p => if p.1.kind = 2 then (State.egressGranule (s.win p.2) p.1.issued (off - p.1.base)).map BitVec.toNat else some 0
    | none => some 0

/-! ### Aperture writes (R123, R127, R130, R303) -/

/-- A write to a part of the aperture that takes none: dropped and counted APERTURE_WRITE. -/
def State.apertureDrop (s : State) (off : Nat) : State :=
  (s.count 6 0 5 1).error { code := 0x010A, cls := .c, unit := 0x000F, arg0 := off }

/-- A write of one granule to window w. -/
def State.windowWrite (relay : State → Packet → State) (s : State) (w : Nat) (e : WinEntry) (off : Nat) (d : BitVec 256) (full : Bool) :
    State :=
  if e.kind = 2 then (if (s.win w).fenced then s.creditViolation w off else s.apertureDrop off)
  else
    let s := s.landWrite w e off (off - e.base) d full
    let fuel := 2 * e.issued + 2
    if e.kind = 0 then s.gradProgress e w fuel else State.carryProgress relay e w fuel s

/-- A claimed write beat at an aperture offset (R127). -/
def State.apertureWrite (relay : State → Packet → State) (s : State) (off : Nat) (d : BitVec 256) (full : Bool) : State :=
  if off < 2 ^ 20 then s.apertureDrop off
  else match windowsAt s.form off with
    | [] => s.apertureDrop off
    | [p] => s.windowWrite relay p.2 p.1 off d full
    | p :: ps =>
      let s := s.windowWrite relay p.2 p.1 off d full
      let s := (s.count 2 p.2 iMultiMatch 1).error { code := 0x0107, cls := .f, unit := 0x0005, index := p.2, arg0 := off }
      eachIn (p :: ps) (fun s (q : WinEntry × Nat) => s.fenceWindow q.2) s

/-! ### Claims (R300 to R302) -/

/-- Whether a stack address lies in the aperture of the admitted Formula. -/
def inAperture (f : Formula) (a : Nat) : Bool := decide (f.hdr.aptBase ≤ a) && decide (a < f.hdr.aptBase + f.hdr.aptSize)

/-- Whether the engine claims an ACT (R301, R300). -/
def State.claims (s : State) (ch pc bank row : Nat) : Bool :=
  decide (2 ≤ s.level) && s.formula.isSome && inAperture s.form (columnAddr s.cfg ch pc bank row 0) &&
    s.latencyKnown ch 0 && s.latencyKnown ch 1

/-- An entry of a bank among the open rows of a kind. -/
def bankRow (l : List (Nat × Nat × Nat)) (pc bank : Nat) : Option Nat :=
  (l.find? (fun (x : Nat × Nat × Nat) => decide (x.1 = pc) && decide (x.2.1 = bank))).map (fun x => x.2.2)

/-- Close a bank's row. -/
def dropBank (l : List (Nat × Nat × Nat)) (pc bank : Nat) : List (Nat × Nat × Nat) :=
  l.filter (fun (x : Nat × Nat × Nat) => !(decide (x.1 = pc) && decide (x.2.1 = bank)))

/-- Close the rows of a pseudo-channel. -/
def dropPc (l : List (Nat × Nat × Nat)) (pc : Nat) : List (Nat × Nat × Nat) := l.filter (fun (x : Nat × Nat × Nat) => decide (x.1 ≠ pc))

/-- Whether a bank holds an aperture mark, with its row; the claim of a mark in `stale` has ended (R302). -/
def Channel.marked (c : Channel) (pc bank : Nat) : Bool := (bankRow c.marks pc bank).isSome || (bankRow c.stale pc bank).isSome

/-! ### Outputs -/

/-- A command reaches CCP of its channel (R299). -/
def State.pass (s : State) (ch kind pc bank a b : Nat) : State := { s with out := { ch := ch, ccp := some (kind, pc, bank, a, b) } }

/-- A command at a channel's port is not passed. -/
def State.suppress (s : State) (ch : Nat) : State := { s with out := { ch := ch } }

/-- The error record of a command to an owned channel (R20, R304). -/
def State.owned (s : State) (ch num arg : Nat) : State :=
  ((s.suppress ch).count 3 ch num 1).error { code := 0x0201, cls := .c, unit := 0x0002, index := ch, arg0 := arg }

/-- A read answered as an owned channel answers it: 256 ones, uncorrectable. -/
def State.ownedRead (s : State) (ch : Nat) : State :=
  { s.owned ch 1 0 with out := { ch := ch, rdata := BitVec.allOnes 256, rvalid := true, rsev := 2 } }

/-- HOST_ACT. -/
def execHostAct (ch : Fin 32) (pc : Fin 2) (bank : Fin 32) (row : BitVec 16) (s : State) : Res :=
  onPort s ch (fun s =>
    if s.claims ch pc bank row.toNat then
      (s.suppress ch).modChan ch (fun c => { c with
        marks := dropBank c.marks pc bank ++ [(pc.toNat, bank.toNat, row.toNat)], stale := dropBank c.stale pc bank })
    else if chOwn (s.chan ch) then s.owned ch 4 3
    else (s.pass ch 1 pc bank row.toNat 0).modChan ch (fun c => { c with rows := dropBank c.rows pc bank ++ [(pc.toNat, bank.toNat, row.toNat)] }))

/-- 32 free bytes: what the manual does not give. -/
def freeBeat (n : Nat) : BitVec 256 := BitVec.ofNat 256 (leVal ((List.range 32).map (fun i => Config.freeByte (n + i))))

/-- Whether a beat holds a byte of a word that carries the poison code (R222). -/
def State.beatPoisoned (s : State) (a : Nat) : Bool :=
  s.poisonWords.any (fun w => decide (w < a + 32) && decide (a < w + s.eccBytes))

/-- A read that the core die answers: the bytes of the open row, uncorrectable where a word of them carries the poison code (R222), or a
value that the manual does not give when no row is open. -/
def State.coreRead (s : State) (ch pc bank col sev : Nat) : State :=
  match bankRow (s.chan ch).rows pc bank with
  | some row =>
    let a := columnAddr s.cfg ch pc bank row col
    let d := BitVec.ofNat 256 (leVal (s.dramBytes a 32))
    let sev := if s.beatPoisoned a then 2 else sev
    { s with out := { ch := ch, ccp := some (17, pc, bank, col, 0), rdata := d, rvalid := true, rsev := sev } }
  | none =>
    { s with out := { ch := ch, ccp := some (17, pc, bank, col, 0), rdata := freeBeat s.free, rvalid := true, rsev := sev }, free := s.free + 32 }

/-- A claimed read: HCP_RSEV 0 (R301, R303). -/
def State.claimedRead (s : State) (ch pc bank row col : Nat) : State :=
  match s.apertureRead (columnAddr s.cfg ch pc bank row col - s.form.hdr.aptBase) with
  | some v => { s with out := { ch := ch, rdata := BitVec.ofNat 256 v, rvalid := true } }
  | none => { s with out := { ch := ch, rdata := freeBeat s.free, rvalid := true }, free := s.free + 32 }

/-- HOST_READ. -/
def execHostRead (ch : Fin 32) (pc : Fin 2) (bank : Fin 32) (col : Fin 32) (sev : BitVec 2) (s : State) : Res :=
  onPort s ch (fun s =>
    let c := s.chan ch
    match bankRow c.marks pc bank with
    | some row => s.claimedRead ch pc bank row col
    | none =>
      if c.marked pc bank || chOwn c then s.ownedRead ch
      else s.coreRead ch pc bank col sev.toNat)

/-- The bytes of a beat with its mask. -/
def maskedBytes (old : List Byte) (d : BitVec 256) (mask : Word32) : List Byte :=
  old.zipIdx.map (fun (p : Byte × Nat) => if bit mask.toNat p.2 then BitVec.ofNat 8 (field d.toNat (8 * p.2) 8) else p.1)

/-- A write that the core die takes. What a beat with a link error leaves there the manual does not give. A word that is written whole
loses its poison code (R222). -/
def State.coreWrite (s : State) (ch pc bank col : Nat) (d : BitVec 256) (mask : Word32) (pois : Bool) : State :=
  let o : PortOut := { ch := ch, ccp := some (18, pc, bank, col, 0), wd := some (d, mask, pois) }
  match bankRow (s.chan ch).rows pc bank with
  | none => { s with out := o }
  | some row =>
    let a := columnAddr s.cfg ch pc bank row col
    let d := if pois then freeBeat s.free else d
    let s := { s.writeDram a (maskedBytes (s.dramBytes a 32) d mask) with out := o, free := if pois then s.free + 32 else s.free }
    let e := s.eccBytes
    let whole := fun (w : Nat) => decide (a ≤ w) && decide (w + e ≤ a + 32) && (List.range e).all (fun i => bit mask.toNat (w - a + i))
    { s with poisonWords := s.poisonWords.filter (fun w => !whole w) }

/-- A claimed write beat (R301, R303). -/
def State.claimedWrite (relay : State → Packet → State) (s : State) (ch pc bank row col : Nat) (d : BitVec 256) (mask : Word32)
    (pois : Bool) : State :=
  (s.suppress ch).apertureWrite relay (columnAddr s.cfg ch pc bank row col - s.form.hdr.aptBase) (if pois then 0 else d)
    (decide (mask = BitVec.allOnes 32))

/-- What HOST_WRITE does; `relay` handles an MBX_RELAY packet of a batch (R268). -/
def State.hostWrite (relay : State → Packet → State) (s : State) (ch pc bank col : Nat) (d : BitVec 256) (mask : Word32) (pois : Bool) :
    State :=
  let c := s.chan ch
  match bankRow c.marks pc bank with
  | some row => s.claimedWrite relay ch pc bank row col d mask pois
  | none =>
    if c.marked pc bank || chOwn c then s.owned ch 2 1
    else s.coreWrite ch pc bank col d mask pois

/-- HOST_PRE. -/
def execHostPre (ch : Fin 32) (pc : Fin 2) (bank : Fin 32) (s : State) : Res :=
  onPort s ch (fun s =>
    let c := s.chan ch
    if c.marked pc bank then
      (s.suppress ch).modChan ch (fun c => { c with marks := dropBank c.marks pc bank, stale := dropBank c.stale pc bank })
    else if chOwn c then s.owned ch 4 3
    else (s.pass ch 2 pc bank 0 0).modChan ch (fun c => { c with rows := dropBank c.rows pc bank }))

/-- HOST_PREA: clears the aperture marks of its pseudo-channel in every mode, and reaches CCP in MEM mode only (R301, R304). -/
def execHostPrea (ch : Fin 32) (pc : Fin 2) (s : State) : Res :=
  onPort s ch (fun s =>
    let own := chOwn (s.chan ch)
    let s := (s.suppress ch).modChan ch (fun c => { c with marks := dropPc c.marks pc, stale := dropPc c.stale pc })
    if own then s else (s.pass ch 3 pc 0 0 0).modChan ch (fun c => { c with rows := dropPc c.rows pc }))

/-- HOST_REFRESH: REFPB, or REFAB when all is set. -/
def execHostRefresh (ch : Fin 32) (pc : Fin 2) (bank : Fin 32) (all : Bool) (s : State) : Res :=
  onPort s ch (fun s =>
    if chOwn (s.chan ch) then s.owned ch 3 2
    else s.pass ch (if all then 5 else 4) pc (if all then 0 else bank.toNat) 0 0)

/-- An MRS: passed, and recorded by the Channel Sequencer unless PORST_N holds it in reset (R300, R319); dropped on an owned channel
(R304). -/
def State.hostMrs (s : State) (ch pc arg : Nat) : State :=
  if chOwn (s.chan ch) then s.owned ch 4 3
  else
    let s := s.pass ch 6 pc 0 0 arg
    if s.porst then s
    else s.modChan ch (fun c => { c with
      mrs := c.mrs.filter (fun (x : Nat × Nat) => decide (x.1 ≠ arg / 256)) ++ [(arg / 256, arg % 256)] })

/-- HOST_OTHER_ROW_CMD: PDE, PDX, SRE, SRX and the reserved kinds (R298, R304). -/
def execHostOtherRowCmd (ch : Fin 32) (kind : BitVec 4) (pc : Fin 2) (s : State) : Res :=
  onPort s ch (fun s =>
    when (otherRowKind kind) (fun s => if chOwn (s.chan ch) then s.owned ch 4 3 else s.pass ch kind.toNat pc 0 0 0) s)

end Sys2Proof.Machine
end

