-- ==== Sys2Proof/Machine/Commands.lean ====
section
/-! DEFINITION. What needs the whole command set (Table 12-10): requests held in a handover and TAKEOVER (R340, R371), faults of the MC
cores (R372, R385), writes of SMP registers (R10, R11, R306), relayed requests (R268), the host's column write and its MRS (R299, R300),
requests that wait for the staging region (R398) or for the end of FW_COMMIT (R339, R373). -/

namespace Sys2Proof.Machine

open Sys2Proof.Bits

/-! ### The command set -/

/-- The commands of Table 12-10. -/
def commandSet : List Cmd :=
  [cmdIdentify, cmdSessionOpen, cmdSessionClose, cmdKeepalive, cmdRunStatus, cmdRunSetup, cmdFreshSeed, cmdAdmit, cmdStepBegin,
   cmdRunStop, cmdCursorSet, cmdEvalOpen, cmdEvalClose, cmdDigestSelect, cmdGradCapture] ++
  [cmdMembership, cmdRouteSet, cmdTopology, cmdFlaconWrite, cmdRestore, cmdRestorePiece, cmdAdopt, cmdDecantFull, cmdOpStatus,
   cmdOpSuspend, cmdOpResume, cmdOpCancel] ++
  [cmdInitRegion, cmdBlotterDump, cmdSelfTest, cmdScrubPass, cmdFenceClear, cmdErrlogRead, cmdCounterRead, cmdCounterClear, cmdAttest,
   cmdFwLoad, cmdFwActivate, cmdFwCommit, cmdRecoveryLoad]

/-- The command of a code, none when Table 12-10 does not list it. -/
def commandOf (code : Nat) : Option Cmd := commandSet.find? (fun k => decide (k.code = code))

/-- The command of a request. -/
def commandIn (w : BitVec 512) : Option Cmd := commandOf (reqCode w)

/-! ### Relayed requests (R268) -/

/-- An MBX_RELAY packet for this engine: a request runs on MBX1 under its session checks, and its response goes back with the same tag.
During a handover, and while FW_COMMIT is executed, it waits, as doorbells do. A response has no requester at this engine's ports. -/
def State.relay (s : State) (k : Packet) : State :=
  let v := leVal (k.payload.take 16)
  if bit v 36 ∨ s.level < 1 then s
  else if s.mcTaken then s.holdPacket (.link 2) k
  else
    let w : BitVec 512 := BitVec.ofNat 512 (leVal (slice k.payload 16 64))
    let t := s.request 1 w true (commandIn w)
    match t.2 with
    | some a => t.1.send 0x0A (field v 0 20) false (leBytes 16 (v % 2 ^ 36 + 2 ^ 36) ++ leBytes 64 a.toNat)
    | none => t.1

/-- MBX_RELAY. -/
def execMbxRelay (p : Fin 2) (k : Packet) (s : State) : Res := onLink s p (fun s => s.arrive State.relay p 0x0A k)

/-- HOST_WRITE. -/
def execHostWrite (ch : Fin 32) (pc : Fin 2) (bank : Fin 32) (col : Fin 32) (data : BitVec 256) (mask : Word32) (pois : Bool) (s : State) :
    Res :=
  onPort s ch (fun s => s.hostWrite State.relay ch pc bank col data mask pois)

/-! ### Held requests (R340) -/

/-- A queued request runs now, or waits on; the session timer has not run meanwhile (R337). -/
def State.unhold (s : State) (m : Nat) : State :=
  if s.mcTaken then s.modFw (fun w => { w with heldQueue := w.heldQueue ++ [m] })
  else
    let waited := s.time - (s.mbx m).heldSince
    (s.modMbx m (fun b => { b with held := false, timer := b.timer + waited })).serve m (commandIn (s.mbx m).taken)

/-- A relayed request that has waited; the timer of its session has not run meanwhile (R268, R337). -/
def State.unholdRelay (s : State) (h : HeldPkt) : State :=
  (s.modMbx 1 (fun b => if h.ofSession b then { b with timer := b.timer + (s.time - h.since) } else b)).relay h.pkt

/-- Execute the queued requests in doorbell order, then the relayed ones; those after an FW_COMMIT wait for its end. -/
def State.runHeld (s : State) : State :=
  let ms := s.fw.heldQueue
  let s := eachIn ms State.unhold (s.modFw (fun w => { w with heldQueue := [] }))
  s.release HeldPkt.relayed State.unholdRelay

/-- After a step of the Fuse Port: when FW_COMMIT has been answered by it, the requests that waited run (R339). -/
def State.afterCommit (s : State) (f : State → State) : State :=
  let t := f s
  when (s.fw.commit.isSome && t.fw.commit.isNone) State.runHeld t

/-- FSP_VALID: the macro answers the read that is out. -/
def execFspValid (w : Word32) (s : State) : Res := act s (fun s => s.afterCommit (fun s => s.fuseValid w))

/-- FSP_READ_TIMEOUT: the read is tried once more, then the word is MARGINAL. -/
def execFspReadTimeout (s : State) : Res := act s (fun s => s.afterCommit State.fuseSilent)

/-- VPP_TIMEOUT: no supply within 10 ms. -/
def execVppTimeout (s : State) : Res := act s (fun s => s.afterCommit State.noSupply)

/-! ### Requests that wait for the staging region (R398) -/

/-- The request of a mailbox that has waited for the staging region: it is executed and answered. -/
def State.runStaged (s : State) (m : Nat) : State :=
  let w := (s.mbx m).taken
  match commandIn w with
  | none => s
  | some k =>
    let t := k.run s m (reqOf w).par
    match t.2 with
    | none => t.1
    | some a =>
      let word := a.word (reqCode w) (reqOf w).seq.toNat
      (t.1.keep m word).deliver m word

/-- The staging bytes that the request of a mailbox transfers, at most 1 MiB (R398). -/
def State.requestBytes (s : State) (m : Nat) : Nat :=
  let w := (s.mbx m).taken
  min (2 ^ 20) (((commandIn w).map (fun k => ((k.ptrs (reqOf w).par).map Prod.snd).sum)).getD 0)

/-- How many requests of given sizes, in their order, a room for bytes holds. -/
def fitting : Nat → List Nat → Nat
  | _, [] => 0
  | room, n :: ns => if n ≤ room then fitting (room - n) ns + 1 else 0

/-- How many of the requests that wait for the staging region one loan serves: at most 1 MiB is transferred (R360, R398). -/
def State.served (s : State) : Nat := fitting (2 ^ 20) (s.fw.stage.map (fun e => s.requestBytes e.1))

/-- Execute the requests that wait for the staging region, those that one loan serves. -/
def State.runStage (s : State) : State :=
  let n := s.served
  eachIn ((s.fw.stage.take n).map Prod.fst) State.runStaged (s.modFw (fun w => { w with stage := w.stage.drop n }))

/-- What a loan leaves for the operations of its 1 MiB, beside the requests that it serves and the fetch of a bundle. -/
def State.loanRoom (s : State) : Nat :=
  if s.fw.fetching then 0 else 2 ^ 20 - ((s.fw.stage.take s.served).map (fun e => s.requestBytes e.1)).sum

/-- What a loan transfers (R360): the staged bundle of a warm start, or a boot fetch, requests that wait, and what operations read. -/
def State.loanMoves (s : State) : State :=
  if s.fw.warmWait then s.warmFetch
  else
    let room := s.loanRoom
    let s := s.fetchMore.runStage
    { s with ops := s.bring room s.ops }

/-- With a Formula admitted a waiting request transfers the part that a channel holds while the channel is in PROC or TRANSIT; the request
whose last channel has been reached is executed. -/
def State.stageResume (s : State) : State :=
  if s.formula.isNone then s
  else
    let left := s.fw.stage.map (fun (e : Nat × List Nat) => (e.1, e.2.filter (fun c => !s.chanReached c)))
    let ready := left.filter (fun e => e.2.isEmpty)
    eachIn (ready.map Prod.fst) State.runStaged (s.modFw (fun w => { w with stage := left.filter (fun e => !e.2.isEmpty) }))

/-- TRANSIT_END: 120 ns after the TRANSIT began (R18); a TRANSIT that cannot complete is CHANNEL_STUCK (R385). Requests that wait for the
channel's part of staging go on (R398). -/
def execTransitEnd (ch : Fin 32) (stuck : Bool) (s : State) : Res :=
  onChan s ch (fun s => (s.transitEnds ch stuck).stageResume)

/-- LOAN_END: the transfer is done, the requests that waited for it are answered (R398), and every channel returns to MEM; the loan ends when
the last one is there. A warm start whose staged bundle is there goes on (R366). -/
def execLoanEnd (s : State) : Res :=
  act s (fun s => when s.loanReady (fun s =>
    let s := s.loanMoves
    let s := { s with loan := { s.loan with transferred := true } }.channelsToMem.loanCheck
    when s.fw.warmWait State.warmStart s) s)

/-- HOST_MRS. -/
def execHostMrs (ch : Fin 32) (arg : Mrs) (s : State) : Res := onPort s ch (fun s => s.hostMrs ch arg.pc arg.arg.toNat)

/-! ### What a core fault leaves (R372, R385) -/

/-- The requests being executed are answered INTERNAL, and live operations end FAILED with INTERNAL; held requests stay held. -/
def State.coreLost (s : State) : State :=
  let s := eachIn [0, 1, 2, 3] (fun s m =>
    if s.executing m then s.respond m (s.mbx m).sequenced (Rsp.of stInternal) else s) s
  let s := s.modFw (fun w => { w with commit := none, stage := [] })
  let s := match s.fusePass with
    | some p => if p.verify.isSome then { s with fusePass := none } else s
    | none => s
  let s := s.modRun (fun r => { r with eval := match r.eval with
      | .requested _ => .closed
      | e => e })
  (eachIn s.ops (fun s o => s.failOp o stInternal) s).evalDecanted

/-- A slot fails (R370, R372): it becomes INVALID, the new-format settings record is discarded, FW_FALLBACK is posted. -/
def State.slotFailed (s : State) (slot cause : Nat) : State :=
  let s := s.modCode slot (fun c => { c with st := SlotSt.invalid })
  let s := s.modFw (fun w => { w with dualSettings := false, handover := .none })
  s.post 0x0613 5 7 ((s.fw.running.map Fin.toNat).getD 0) cause slot

/-- The class F error of a fallback (Table 14-3). -/
def fallbackError (slot : Nat) : ErrSpec := { code := 0x0702, cls := .f, unit := 0x000C, index := slot, arg0 := slot }

/-- The MC_CORE_FAULT record of a core. -/
def coreError (core cause : Nat) : ErrSpec := { code := 0x0701, cls := .f, unit := 0x0006, index := core, arg0 := cause }

/-- Fence an MC core. -/
def State.fenceCore (s : State) (core cause : Nat) : State :=
  (s.modFw (fun w => { w with coreFenced := setV w.coreFenced core true })).error (coreError core cause)

/-- The other core. -/
def otherCore (c : Fin 2) : Fin 2 := if c = 0 then 1 else 0

/-- The old image's microcode runs again: a bank that has not switched stays, one that has switches back (R369). -/
def State.oldMicrocode (s : State) : State :=
  let idle := s.formula.isNone
  let s := { s with chans := mapV (fun (c : Channel) =>
    if c.bankPending then { c with bankPending := false } else if idle then { c with bank1 := !c.bank1 } else { c with bankPending := true }) s.chans }
  let is := List.range (physicals s.cfg)
  s.modFw (fun w => { w with
    bankArmed := w.bankArmed && idle
    stillBank1 := if idle then is.filter (fun i => w.stillBank1.contains i == w.stillBankPending.contains i) else w.stillBank1
    stillBankPending := if idle then [] else is.filter (fun i => !w.stillBankPending.contains i) })

/-- A fault of the new core during probation: the old core resumes with the old image (R372). -/
def State.fallBack (s : State) (failed resumed : Fin 2) (cause : Nat) : State :=
  let s := s.modFw (fun w => { w with
    core := otherCore w.core, running := some resumed, fallback := none, standby := none, standbyBoot := none
    coreFenced := if cause = 3 then setV w.coreFenced w.core.toNat true else w.coreFenced })
  let s := s.modCode resumed.toNat (fun c => { c with st := s.fw.fallbackSt })
  (((s.coreLost).slotFailed failed.toNat cause).error (fallbackError failed.toNat)).oldMicrocode

/-- The active core faults outside probation: it is fenced, and the other one takes over from the settings record; an image with no image
left to resume leaves the ROM (R375, R385). -/
def State.coreOver (s : State) (core cause : Nat) : State :=
  let s := s.fenceCore core cause
  if s.noCore then s.classX { code := 0x0714, cls := .x, unit := 0x000F }
  else
    let s := s.coreLost
    let s := s.modFw (fun w => { w with
      core := otherCore w.core, standby := none, standbyBoot := none, handover := .none
      romMode := w.romMode || w.soloBoot, running := if w.soloBoot then none else w.running, soloBoot := false })
    s.runHeld

/-- The standby core faults: it is fenced, and a handover in progress fails as its boot would (R370). -/
def State.standbyOver (s : State) (core cause : Nat) : State :=
  let s := (s.fenceCore core cause).modFw (fun w => { w with standby := none, standbyBoot := none })
  match s.fw.handover with
  | .none => s
  | .booting i => s.slotFailed i.toNat 4
  | .ready i => s.slotFailed i.toNat 4
  | .held i => (s.slotFailed i.toNat 4).runHeld

/-- A fault of an MC core, with its cause as FW_FALLBACK gives it. A fenced core's fault is recorded only (R382). -/
def State.coreFault (s : State) (core : Fin 2) (cause : Nat) : State :=
  if s.fw.coreOut core.toNat then s.error (coreError core.toNat cause)
  else if core ≠ s.fw.core then s.standbyOver core.toNat cause
  else match s.fw.running, s.fw.fallback with
    | some i, some j =>
      if (s.codeSlot i.toNat).st = SlotSt.probation ∧ s.fw.coreOut (otherCore core).toNat = false then s.fallBack i j cause
      else s.coreOver core.toNat cause
    | _, _ => s.coreOver core.toNat cause

/-- MC_CORE_FAULT. -/
def execMcCoreFault (core : Fin 2) (cause : BitVec 2) (s : State) : Res :=
  act s (fun s => when (s.present 0 && !s.wrst) (fun s => s.coreFault core cause.toNat) s)

/-- WATCHDOG_EXPIRY: a watchdog unserviced for 2 ms is a core fault of cause 1. -/
def execWatchdogExpiry (core : Fin 2) (s : State) : Res :=
  act s (fun s => when (s.present 0 && !s.wrst) (fun s => s.coreFault core 1) s)

/-! ### TAKEOVER (R371) -/

/-- The new core takes over: the slot is in PROBATION for 10 s, the old image is held as its fallback, the held requests run. -/
def State.takeOver (s : State) (i : Fin 2) : State :=
  let old := s.fw.running
  let s := match old with
    | some j => (s.modFw (fun w => { w with fallbackSt := (s.codeSlot j.toNat).st })).modCode j.toNat (fun c => { c with st := SlotSt.superseded })
    | none => s
  let s := s.modCode i.toNat (fun c => { c with st := SlotSt.probation })
  let s := s.modFw (fun w => { w with
    core := otherCore w.core, running := some i, standby := old, standbyBoot := none, fallback := old, dualSettings := true, soloBoot := false
    probationEnd := s.time + 10000000000, handover := .none })
  let s := s.newMicrocode.runHeld
  s.post 0x0611 5 7 i.toNat s.fw.core.toNat 0

/-- TAKEOVER: from the handover point the standby core takes over, or fails its self-check and the old core goes on. -/
def execTakeover (selfCheck : Bool) (s : State) : Res :=
  act s (fun s => match s.fw.handover with
    | .held i =>
      if selfCheck then s.takeOver i
      else
        let s := s.modFw (fun w => { w with standby := none })
        (((s.coreLost).slotFailed i.toNat 2).error (fallbackError i.toNat)).runHeld
    | _ => s)

/-! ### Register writes (R10, R11, R306) -/

/-- A write whose fields are RO: it sets nothing. -/
def State.writeNone (s : State) (r : SmpReg) (w : Nat) : State := s.answer 0 (reservedBits r w)

/-- A write of a REQ register: word i of the request. -/
def State.writeReq (s : State) (m i w : Nat) : State :=
  let v := (s.mbx m).req.toNat
  let r : BitVec 512 := BitVec.ofNat 512 (v - field v (32 * i) 32 * 2 ^ (32 * i) + w % 2 ^ 32 * 2 ^ (32 * i))
  (s.modMbx m (fun b => { b with req := r })).answer 0 false

/-- A write of a doorbell: RING submits the request; reserved bits set SM_ERR. -/
def State.writeDoorbell (s : State) (m w : Nat) : State :=
  if bit w 0 then
    let s := s.ring m (commandIn (s.mbx m).req)
    s.modSmp (fun x => { x with err := x.err || reservedBits (.mbxDoorbell m) w })
  else s.writeNone (.mbxDoorbell m) w

/-- A write of one register by its access codes. -/
def State.writeReg (s : State) (r : SmpReg) (w : Nat) : State :=
  match r with
  | .level => s.writeLevel w
  | .irqMask => s.writeIrqMask w
  | .evqPop => s.writeEvqPop w
  | .stageBase => s.writeStage false w
  | .stageMib => s.writeStage true w
  | .egrAck => s.writeEgrAck w
  | .mbxReq m i => s.writeReq m i w
  | .mbxDoorbell m => s.writeDoorbell m w
  | .status => (s.modSmp (fun x => { x with fellX := x.fellX && !bit w 12 })).writeNone .status w
  | .mbxStat m => (s.modMbx m (fun b => { b with rspValid := b.rspValid && !bit w 1 })).writeNone (.mbxStat m) w
  | r => s.writeNone r w

/-- REGISTER_WRITE: an address that holds no register completes with SM_ERR. -/
def execRegisterWrite (addr : BitVec 16) (w : Word32) (s : State) : Res :=
  act s (fun s => when s.smpOpen (fun s => match smpReg addr.toNat with
    | some r => s.writeReg r w.toNat
    | none => s.answer 0 true) s)

end Sys2Proof.Machine
end

