-- ==== Sys2Proof/Machine/Dispatch.lean ====
section
/-! DEFINITION. The meaning of each command: one arm per constructor of Instr. -/

namespace Sys2Proof.Machine

def exec (i : Instr) (s : State) : Host.Outcome State Fault Refusal :=
  match i with
  | .identify m q => Sys2Proof.Machine.execIdentify m q s
  | .sessionOpen m q => Sys2Proof.Machine.execSessionOpen m q s
  | .sessionClose m q => Sys2Proof.Machine.execSessionClose m q s
  | .keepalive m q => Sys2Proof.Machine.execKeepalive m q s
  | .runStatus m q => Sys2Proof.Machine.execRunStatus m q s
  | .runSetup m q => Sys2Proof.Machine.execRunSetup m q s
  | .freshSeed m q => Sys2Proof.Machine.execFreshSeed m q s
  | .admitCmd m q => Sys2Proof.Machine.execAdmitCmd m q s
  | .stepBegin m q => Sys2Proof.Machine.execStepBegin m q s
  | .runStop m q => Sys2Proof.Machine.execRunStop m q s
  | .cursorSet m q => Sys2Proof.Machine.execCursorSet m q s
  | .evalOpen m q => Sys2Proof.Machine.execEvalOpen m q s
  | .evalClose m q => Sys2Proof.Machine.execEvalClose m q s
  | .digestSelect m q => Sys2Proof.Machine.execDigestSelect m q s
  | .gradCapture m q => Sys2Proof.Machine.execGradCapture m q s
  | .membership m q => Sys2Proof.Machine.execMembership m q s
  | .routeSet m q => Sys2Proof.Machine.execRouteSet m q s
  | .topology m q => Sys2Proof.Machine.execTopology m q s
  | .flaconWrite m q => Sys2Proof.Machine.execFlaconWrite m q s
  | .restore m q => Sys2Proof.Machine.execRestore m q s
  | .restorePiece m q => Sys2Proof.Machine.execRestorePiece m q s
  | .adopt m q => Sys2Proof.Machine.execAdopt m q s
  | .decantFull m q => Sys2Proof.Machine.execDecantFull m q s
  | .opStatus m q => Sys2Proof.Machine.execOpStatus m q s
  | .opSuspend m q => Sys2Proof.Machine.execOpSuspend m q s
  | .opResume m q => Sys2Proof.Machine.execOpResume m q s
  | .opCancel m q => Sys2Proof.Machine.execOpCancel m q s
  | .initRegion m q => Sys2Proof.Machine.execInitRegion m q s
  | .blotterDump m q => Sys2Proof.Machine.execBlotterDump m q s
  | .selfTest m q => Sys2Proof.Machine.execSelfTest m q s
  | .scrubPass m q => Sys2Proof.Machine.execScrubPass m q s
  | .fenceClear m q => Sys2Proof.Machine.execFenceClear m q s
  | .errlogRead m q => Sys2Proof.Machine.execErrlogRead m q s
  | .counterRead m q => Sys2Proof.Machine.execCounterRead m q s
  | .counterClear m q => Sys2Proof.Machine.execCounterClear m q s
  | .attest m q => Sys2Proof.Machine.execAttest m q s
  | .fwLoad m q => Sys2Proof.Machine.execFwLoad m q s
  | .fwActivate m q => Sys2Proof.Machine.execFwActivate m q s
  | .fwCommit m q => Sys2Proof.Machine.execFwCommit m q s
  | .recoveryLoad m q => Sys2Proof.Machine.execRecoveryLoad m q s
  | .admitDone h => Sys2Proof.Machine.execAdmitDone h s
  | .flaconWriteDone h => Sys2Proof.Machine.execFlaconWriteDone h s
  | .restoreDone h => Sys2Proof.Machine.execRestoreDone h s
  | .adoptDone h => Sys2Proof.Machine.execAdoptDone h s
  | .decantFullDone h => Sys2Proof.Machine.execDecantFullDone h s
  | .initRegionDone h => Sys2Proof.Machine.execInitRegionDone h s
  | .blotterDumpDone h => Sys2Proof.Machine.execBlotterDumpDone h s
  | .selfTestDone h failing => Sys2Proof.Machine.execSelfTestDone h failing s
  | .scrubPassDone h corrected uncorrectable => Sys2Proof.Machine.execScrubPassDone h corrected uncorrectable s
  | .fwLoadDone h => Sys2Proof.Machine.execFwLoadDone h s
  | .recoveryLoadDone h => Sys2Proof.Machine.execRecoveryLoadDone h s
  | .opSuspendPoint h done => Sys2Proof.Machine.execOpSuspendPoint h done s
  | .longopWindowEnter h => Sys2Proof.Machine.execLongopWindowEnter h s
  | .evalWindowOpen => Sys2Proof.Machine.execEvalWindowOpen s
  | .runStopEffect => Sys2Proof.Machine.execRunStopEffect s
  | .smLevelWrite w => Sys2Proof.Machine.execSmLevelWrite w s
  | .levelRaiseDone => Sys2Proof.Machine.execLevelRaiseDone s
  | .levelLowerEffect => Sys2Proof.Machine.execLevelLowerEffect s
  | .fallComplete => Sys2Proof.Machine.execFallComplete s
  | .smTimeLoRead => Sys2Proof.Machine.execSmTimeLoRead s
  | .smEvqPop w => Sys2Proof.Machine.execSmEvqPop w s
  | .smEgrAck w => Sys2Proof.Machine.execSmEgrAck w s
  | .smStageWrite mib w => Sys2Proof.Machine.execSmStageWrite mib w s
  | .smIrqMaskWrite w => Sys2Proof.Machine.execSmIrqMaskWrite w s
  | .registerWrite addr w => Sys2Proof.Machine.execRegisterWrite addr w s
  | .porstNAssert => Sys2Proof.Machine.execPorstNAssert s
  | .porstNRelease pos => Sys2Proof.Machine.execPorstNRelease pos s
  | .romBoot r => Sys2Proof.Machine.execRomBoot r s
  | .wrstNAssert => Sys2Proof.Machine.execWrstNAssert s
  | .wrstNRelease r => Sys2Proof.Machine.execWrstNRelease r s
  | .wrapperInstruction code => Sys2Proof.Machine.execWrapperInstruction code s
  | .wrstnAssert => Sys2Proof.Machine.execWrstnAssert s
  | .tempSample code => Sys2Proof.Machine.execTempSample code s
  | .pwrAckRise d => Sys2Proof.Machine.execPwrAckRise d s
  | .generatorLock d => Sys2Proof.Machine.execGeneratorLock d s
  | .lockLoss d => Sys2Proof.Machine.execLockLoss d s
  | .pwrAckFall d => Sys2Proof.Machine.execPwrAckFall d s
  | .powerDownRequest d => Sys2Proof.Machine.execPowerDownRequest d s
  | .pwrAckSlow d => Sys2Proof.Machine.execPwrAckSlow d s
  | .clockCheck khz => Sys2Proof.Machine.execClockCheck khz s
  | .hostAct ch pc bank row => Sys2Proof.Machine.execHostAct ch pc bank row s
  | .hostRead ch pc bank col sev => Sys2Proof.Machine.execHostRead ch pc bank col sev s
  | .hostWrite ch pc bank col data mask pois => Sys2Proof.Machine.execHostWrite ch pc bank col data mask pois s
  | .hostPre ch pc bank => Sys2Proof.Machine.execHostPre ch pc bank s
  | .hostPrea ch pc => Sys2Proof.Machine.execHostPrea ch pc s
  | .hostRefresh ch pc bank all => Sys2Proof.Machine.execHostRefresh ch pc bank all s
  | .hostMrs ch arg => Sys2Proof.Machine.execHostMrs ch arg s
  | .hostOtherRowCmd ch kind pc => Sys2Proof.Machine.execHostOtherRowCmd ch kind pc s
  | .stepAnchor => Sys2Proof.Machine.execStepAnchor s
  | .segmentBoundary ch => Sys2Proof.Machine.execSegmentBoundary ch s
  | .transitEnd ch stuck => Sys2Proof.Machine.execTransitEnd ch stuck s
  | .catchupRefreshDone ch => Sys2Proof.Machine.execCatchupRefreshDone ch s
  | .refreshTick ch pc bank => Sys2Proof.Machine.execRefreshTick ch pc bank s
  | .slotOpen shard => Sys2Proof.Machine.execSlotOpen shard s
  | .oaFold shard => Sys2Proof.Machine.execOaFold shard s
  | .prefetch still shard => Sys2Proof.Machine.execPrefetch still shard s
  | .prefetchDone still shard sev => Sys2Proof.Machine.execPrefetchDone still shard sev s
  | .passStart shard => Sys2Proof.Machine.execPassStart shard s
  | .blockCommit still shard sev => Sys2Proof.Machine.execBlockCommit still shard sev s
  | .laneError still => Sys2Proof.Machine.execLaneError still s
  | .stillTakeover still => Sys2Proof.Machine.execStillTakeover still s
  | .stepRecordWrite => Sys2Proof.Machine.execStepRecordWrite s
  | .atmSegmentStart ch => Sys2Proof.Machine.execAtmSegmentStart ch s
  | .atmGo ch half => Sys2Proof.Machine.execAtmGo ch half s
  | .bucketRefill ch => Sys2Proof.Machine.execBucketRefill ch s
  | .atmDone ch half => Sys2Proof.Machine.execAtmDone ch half s
  | .atmRpt ch beat => Sys2Proof.Machine.execAtmRpt ch beat s
  | .atmErr ch status => Sys2Proof.Machine.execAtmErr ch status s
  | .atmKeyOkFall ch => Sys2Proof.Machine.execAtmKeyOkFall ch s
  | .hello p k => Sys2Proof.Machine.execHello p k s
  | .helloAck p k => Sys2Proof.Machine.execHelloAck p k s
  | .topo p k => Sys2Proof.Machine.execTopo p k s
  | .scalarUp p k => Sys2Proof.Machine.execScalarUp p k s
  | .scalarDown p k => Sys2Proof.Machine.execScalarDown p k s
  | .contrib p k => Sys2Proof.Machine.execContrib p k s
  | .flaconData p k => Sys2Proof.Machine.execFlaconData p k s
  | .flaconAck p k => Sys2Proof.Machine.execFlaconAck p k s
  | .restoreData p k => Sys2Proof.Machine.execRestoreData p k s
  | .mbxRelay p k => Sys2Proof.Machine.execMbxRelay p k s
  | .fenceNotice p k => Sys2Proof.Machine.execFenceNotice p k s
  | .packetTransmit p => Sys2Proof.Machine.execPacketTransmit p s
  | .batchTimeout dst => Sys2Proof.Machine.execBatchTimeout dst s
  | .egressPagePublish win => Sys2Proof.Machine.execEgressPagePublish win s
  | .discoverTimer p => Sys2Proof.Machine.execDiscoverTimer p s
  | .heartbeatSend p => Sys2Proof.Machine.execHeartbeatSend p s
  | .heartbeatCheck p => Sys2Proof.Machine.execHeartbeatCheck p s
  | .creditHelloTimer p => Sys2Proof.Machine.execCreditHelloTimer p s
  | .epochExpired => Sys2Proof.Machine.execEpochExpired s
  | .pptLinkUp p => Sys2Proof.Machine.execPptLinkUp p s
  | .pptLinkDown p => Sys2Proof.Machine.execPptLinkDown p s
  | .pptErr p => Sys2Proof.Machine.execPptErr p s
  | .blotterDrain => Sys2Proof.Machine.execBlotterDrain s
  | .loanStart => Sys2Proof.Machine.execLoanStart s
  | .loanEnd => Sys2Proof.Machine.execLoanEnd s
  | .bootFetchDone => Sys2Proof.Machine.execBootFetchDone s
  | .standbyBootDone ok => Sys2Proof.Machine.execStandbyBootDone ok s
  | .handoverPoint => Sys2Proof.Machine.execHandoverPoint s
  | .takeover selfCheck => Sys2Proof.Machine.execTakeover selfCheck s
  | .microcodeBankSwitch ch => Sys2Proof.Machine.execMicrocodeBankSwitch ch s
  | .probationEnd => Sys2Proof.Machine.execProbationEnd s
  | .watchdogExpiry core => Sys2Proof.Machine.execWatchdogExpiry core s
  | .mcCoreFault core cause => Sys2Proof.Machine.execMcCoreFault core cause s
  | .fspValid w => Sys2Proof.Machine.execFspValid w s
  | .fspReadTimeout => Sys2Proof.Machine.execFspReadTimeout s
  | .fspVppAck => Sys2Proof.Machine.execFspVppAck s
  | .vppTimeout => Sys2Proof.Machine.execVppTimeout s
  | .fspDone => Sys2Proof.Machine.execFspDone s
  | .sessionExpired m => Sys2Proof.Machine.execSessionExpired m s
  | .esStartupDone => Sys2Proof.Machine.execEsStartupDone s
  | .entropyFail proportion => Sys2Proof.Machine.execEntropyFail proportion s
  | .csqFault ch parity => Sys2Proof.Machine.execCsqFault ch parity s
  | .scrubDebt ch => Sys2Proof.Machine.execScrubDebt ch s
  | .patrolScrub ch sev last => Sys2Proof.Machine.execPatrolScrub ch sev last s
  | .longopWindowEnd h => Sys2Proof.Machine.execLongopWindowEnd h s
  | .mixerSelfCheck => Sys2Proof.Machine.execMixerSelfCheck s

end Sys2Proof.Machine
end

