-- ==== Sys2Proof/Safety.lean ====
section
/-! DEFINITION. What claims are stated in: when the block takes commands, when a mailbox takes a request and what answering one leaves, the
fields of an answer, and the invariant of power-on reset. -/

namespace Sys2Proof.Machine

open Sys2Proof.Bits

/-- Commands are taken: PORST_N is released (R319) and no test instruction of the wrapper is in effect (R313). -/
abbrev Awake (s : State) : Prop := s.testing = false ∧ s.porst = false

/-- The port of a channel works: no test instruction of the wrapper is in effect (R313) and the configuration has the channel. -/
abbrev Ported (s : State) (ch : Fin 32) : Prop := s.testing = false ∧ ch.toNat < channels s.cfg

/-- A channel of the configuration, on an engine that takes commands. -/
abbrev OnChannel (s : State) (ch : Fin 32) : Prop := Awake s ∧ ch.toNat < channels s.cfg

/-- A link of the configuration, on an engine that takes commands. -/
abbrev OnLink (s : State) (p : Fin 2) : Prop := Awake s ∧ p.toNat < links s.cfg

/-- A domain of the configuration, on an engine that takes commands. -/
abbrev OnDomain (s : State) (d : Domain) : Prop := Awake s ∧ domExists s.cfg d = true

/-! ### Units that a command names (Table 0-2) -/

/-- Whether the configuration has the channel, link, domain or Still that a command names. -/
def unitExists (c : Cfg) : Instr → Bool
  | .hostAct ch _ _ _ => decide (ch.toNat < channels c)
  | .hostRead ch _ _ _ _ => decide (ch.toNat < channels c)
  | .hostWrite ch _ _ _ _ _ _ => decide (ch.toNat < channels c)
  | .hostPre ch _ _ => decide (ch.toNat < channels c)
  | .hostPrea ch _ => decide (ch.toNat < channels c)
  | .hostRefresh ch _ _ _ => decide (ch.toNat < channels c)
  | .hostMrs ch _ => decide (ch.toNat < channels c)
  | .hostOtherRowCmd ch _ _ => decide (ch.toNat < channels c)
  | .segmentBoundary ch => decide (ch.toNat < channels c)
  | .transitEnd ch _ => decide (ch.toNat < channels c)
  | .catchupRefreshDone ch => decide (ch.toNat < channels c)
  | .refreshTick ch _ _ => decide (ch.toNat < channels c)
  | .atmSegmentStart ch => decide (ch.toNat < channels c)
  | .atmGo ch _ => decide (ch.toNat < channels c)
  | .bucketRefill ch => decide (ch.toNat < channels c)
  | .atmDone ch _ => decide (ch.toNat < channels c)
  | .atmRpt ch _ => decide (ch.toNat < channels c)
  | .atmErr ch _ => decide (ch.toNat < channels c)
  | .atmKeyOkFall ch => decide (ch.toNat < channels c)
  | .microcodeBankSwitch ch => decide (ch.toNat < channels c)
  | .csqFault ch _ => decide (ch.toNat < channels c)
  | .scrubDebt ch => decide (ch.toNat < channels c)
  | .patrolScrub ch _ _ => decide (ch.toNat < channels c)
  | .hello p _ => decide (p.toNat < links c)
  | .helloAck p _ => decide (p.toNat < links c)
  | .topo p _ => decide (p.toNat < links c)
  | .scalarUp p _ => decide (p.toNat < links c)
  | .scalarDown p _ => decide (p.toNat < links c)
  | .contrib p _ => decide (p.toNat < links c)
  | .flaconData p _ => decide (p.toNat < links c)
  | .flaconAck p _ => decide (p.toNat < links c)
  | .restoreData p _ => decide (p.toNat < links c)
  | .mbxRelay p _ => decide (p.toNat < links c)
  | .fenceNotice p _ => decide (p.toNat < links c)
  | .packetTransmit p => decide (p.toNat < links c)
  | .discoverTimer p => decide (p.toNat < links c)
  | .heartbeatSend p => decide (p.toNat < links c)
  | .heartbeatCheck p => decide (p.toNat < links c)
  | .creditHelloTimer p => decide (p.toNat < links c)
  | .pptLinkUp p => decide (p.toNat < links c)
  | .pptLinkDown p => decide (p.toNat < links c)
  | .pptErr p => decide (p.toNat < links c)
  | .pwrAckRise d => domExists c d
  | .generatorLock d => domExists c d
  | .lockLoss d => domExists c d
  | .pwrAckFall d => domExists c d
  | .powerDownRequest d => domExists c d
  | .pwrAckSlow d => domExists c d
  | .prefetch k _ => decide (k.toNat < logicals c)
  | .prefetchDone k _ _ => decide (k.toNat < logicals c)
  | .blockCommit k _ _ => decide (k.toNat < logicals c)
  | .stillTakeover k => decide (k.toNat < logicals c)
  | .laneError i => decide (i.toNat < physicals c)
  | _ => true

/-! ### Packets -/

/-- A link-local packet comes in order: it agrees with its CRC, has the lane's next SEQ within the granted credits, which a HELLO or HELLO_ACK
does not need, and every field is in range, on a link that is up or in bring-up (R251, R253, R256). -/
abbrev Arrives (s : State) (p : Fin 2) (k : Packet) : Prop :=
  OnLink s p ∧ s.present 2 = true ∧ ((s.link p).st = .up ∨ (s.link p).st = .bringup) ∧
  field (packetCrc k.head.toNat k.payload) 0 32 = k.fld 224 32 ∧
  (k.seq + 4096 - (s.link p).seqRx.getD 0 0) % 4096 = 0 ∧
  (k.type = 0x03 → (s.link p).inBuf.getD 0 0 + (s.link p).owed.getD 0 0 + k.cost ≤ (if (s.link p).granted then 32 else 0)) ∧
  badHead k = false ∧ badPayload k = false

/-- The state with a HELLO or HELLO_ACK taken on a link: the link has heard, lane 0's SEQ is one on, the credits that it returns are added. -/
def State.heard (s : State) (p : Nat) (k : Packet) : State :=
  let s := s.modLink p (fun l => { l with rxSince := true })
  let s := s.modLink p (fun l => { l with seqRx := modAt l.seqRx 0 (fun x => (x + 1) % 4096) })
  s.takeCredits p k

/-- The state with a packet taken on a link: the link has heard, the lane's SEQ is one on, the packet holds its place in the lane's buffer,
and the credits that it returns are added (R253, R256). -/
def State.received (s : State) (p : Nat) (k : Packet) : State :=
  let s := s.modLink p (fun l => { l with rxSince := true })
  let s := s.modLink p (fun l => { l with seqRx := modAt l.seqRx (laneOf k.type) (fun x => (x + 1) % 4096) })
  let s := s.modLink p (fun l => { l with inBuf := modAt l.inBuf (laneOf k.type) (fun x => x + k.cost) })
  s.takeCredits p k

/-- A packet that passes rows 1 to 11 of Table 9-5 on a link: it agrees with its CRC and comes in sequence within the granted credits, every
field is in range, the engine is assigned, the source is a member and not fenced, the destination is this engine, the epoch the present one. -/
abbrev Deliverable (s : State) (p : Fin 2) (k : Packet) : Prop :=
  OnLink s p ∧ s.present 2 = true ∧ ((s.link p).st = .up ∨ (s.link p).st = .bringup) ∧
  field (packetCrc k.head.toNat k.payload) 0 32 = k.fld 224 32 ∧
  (k.seq + 4096 - (s.link p).seqRx.getD (laneOf k.type) 0) % 4096 = 0 ∧
  (s.link p).inBuf.getD (laneOf k.type) 0 + (s.link p).owed.getD (laneOf k.type) 0 + k.cost ≤
    (if (s.link p).granted then laneGrant.getD (laneOf k.type) 0 else 0) ∧
  badHead k = false ∧ badPayload k = false ∧ s.fabric.assigned = true ∧ s.fabric.fences.contains k.src = false ∧ k.dst = s.ea ∧
  k.epoch = s.fabric.epoch ∧ s.fabric.members.contains k.src = true

/-! ### Mailboxes -/

/-- A doorbell of mailbox m is taken and served at once: S1 or above, not BUSY, no handover and no FW_COMMIT in progress (R333, R339, R340). -/
abbrev Rings (s : State) (m : Fin 4) : Prop :=
  Awake s ∧ 1 ≤ s.level ∧ (s.mbx m).busy = false ∧ s.mcTaken = false

/-- A request that mailbox m accepts into its sequence (R335 to R338): a session is open, TOKEN is its token, SEQ follows LAST. -/
abbrev InSequence (s : State) (m : Fin 4) (q : Req) : Prop :=
  Rings s m ∧ (s.fw.romMode = false ∨ m = 3) ∧ (s.mbx m).session = some q.token ∧ q.token ≠ 0 ∧ q.seq = (s.mbx m).last + 1

/-- A request of command k that passes every check of R338 but those of its own state, and, where the command transfers bytes of the
staging region, finds that region reached (R398). -/
abbrev Accepted (k : Cmd) (s : State) (m : Fin 4) (q : Req) : Prop :=
  InSequence s m q ∧ k.judge s m q.par false = none ∧ (k.stages s = true → s.stagingOpen = true)

/-- A request of command k that passes every check of R338, of a command that transfers bytes of the staging region while a channel of it
is not reached (R398). -/
abbrev Staged (k : Cmd) (s : State) (m : Fin 4) (q : Req) : Prop :=
  InSequence s m q ∧ k.judge s m q.par false = none ∧ k.stages s = true ∧ s.stagingOpen = false

/-- The state with the request of mailbox m taken, entered into its sequence, and not answered: BUSY (R333, R335). -/
def State.entered (s : State) (m : Fin 4) (code : Nat) (q : Req) : State :=
  let boxes := modV s.smp.mbx m (fun b => { b with
    req := q.word code, taken := q.word code, busy := true, rspValid := false, last := q.seq, timer := s.time })
  { s with smp := { s.smp with rdata := 0, err := false, mbx := boxes } }

/-- The state with the request of mailbox m answered: the response stands in the buffer and is stored for a replay, RSP_VALID is 1, BUSY
is 0, SEQ is LAST, the session timer starts again, MBX_DONE is posted (R333, R335, R337). -/
def State.answered (s : State) (m : Fin 4) (code : Nat) (q : Req) (a : Rsp) : State :=
  let w := a.word code q.seq.toNat
  let boxes := modV s.smp.mbx m (fun b => { b with
    req := q.word code, taken := q.word code, rsp := w, rspValid := true, busy := false, held := false, last := q.seq, stored := w,
    timer := s.time })
  let done := mkEvent 0x0001 6 7 m q.seq.toNat a.status s.time
  { s with smp := { s.smp with rdata := 0, err := false, mbx := boxes }.post done }

/-- The state with a request answered that is not part of the sequence: token-free, or refused by check 1 or 2 (R336, R338). -/
def State.answeredApart (s : State) (m : Fin 4) (code : Nat) (q : Req) (w : BitVec 512) : State :=
  let boxes := modV s.smp.mbx m (fun b => { b with
    req := q.word code, taken := q.word code, rsp := w, rspValid := true, busy := false, held := false })
  let done := mkEvent 0x0001 6 7 m (field w.toNat 16 16) (field w.toNat 32 16) s.time
  { s with smp := { s.smp with rdata := 0, err := false, mbx := boxes }.post done }

/-- What a command leaves, once its answer, if there is one, is kept for a replay and delivered (R333, R335). -/
def Ran.finish (r : Ran) (m : Fin 4) (code : Nat) (q : Req) : State :=
  match r.2 with
  | some a => (r.1.keep m (a.word code q.seq.toNat)).deliver m (a.word code q.seq.toNat)
  | none => r.1

/-- Nothing of R349 and R345 is in the way of a long operation of a code with these parameters. -/
abbrev CanStart (s : State) (code : Nat) (q : Req) : Prop :=
  s.opConflict { handle := 0, code := code, st := .running, par := q.par.toNat } = false ∧ s.ops.length < 8

/-- The handle that the next long operation gets (R345). -/
def State.handleNext (s : State) : Nat := freshHandle (s.ops.map LongOp.handle ++ s.retained.map LongOp.handle) 32 s.nextHandle

/-- The state with a long operation started (R345). -/
def State.begun (s : State) (code : Nat) (q : Req) (total result : Nat) (st : OpSt) : State :=
  let o : LongOp := { handle := s.handleNext, code := code, st := st, total := total, result := result, par := q.par.toNat }
  { s with ops := s.ops ++ [o], nextHandle := (s.handleNext + 1) % 2 ^ 16 }

/-- OP_STARTED with a handle. -/
def Rsp.started (h : Nat) : Rsp := { status := stOpStarted, body := res 8 2 h }

/-- The command, mailbox and request of a mailbox row. -/
def rowCmd : Instr → Option (Cmd × Fin 4 × Req)
  | .identify m q => some (cmdIdentify, m, q)
  | .sessionOpen m q => some (cmdSessionOpen, m, q)
  | .sessionClose m q => some (cmdSessionClose, m, q)
  | .keepalive m q => some (cmdKeepalive, m, q)
  | .runStatus m q => some (cmdRunStatus, m, q)
  | .runSetup m q => some (cmdRunSetup, m, q)
  | .freshSeed m q => some (cmdFreshSeed, m, q)
  | .admitCmd m q => some (cmdAdmit, m, q)
  | .stepBegin m q => some (cmdStepBegin, m, q)
  | .runStop m q => some (cmdRunStop, m, q)
  | .cursorSet m q => some (cmdCursorSet, m, q)
  | .evalOpen m q => some (cmdEvalOpen, m, q)
  | .evalClose m q => some (cmdEvalClose, m, q)
  | .digestSelect m q => some (cmdDigestSelect, m, q)
  | .gradCapture m q => some (cmdGradCapture, m, q)
  | .membership m q => some (cmdMembership, m, q)
  | .routeSet m q => some (cmdRouteSet, m, q)
  | .topology m q => some (cmdTopology, m, q)
  | .flaconWrite m q => some (cmdFlaconWrite, m, q)
  | .restore m q => some (cmdRestore, m, q)
  | .restorePiece m q => some (cmdRestorePiece, m, q)
  | .adopt m q => some (cmdAdopt, m, q)
  | .decantFull m q => some (cmdDecantFull, m, q)
  | .opStatus m q => some (cmdOpStatus, m, q)
  | .opSuspend m q => some (cmdOpSuspend, m, q)
  | .opResume m q => some (cmdOpResume, m, q)
  | .opCancel m q => some (cmdOpCancel, m, q)
  | .initRegion m q => some (cmdInitRegion, m, q)
  | .blotterDump m q => some (cmdBlotterDump, m, q)
  | .selfTest m q => some (cmdSelfTest, m, q)
  | .scrubPass m q => some (cmdScrubPass, m, q)
  | .fenceClear m q => some (cmdFenceClear, m, q)
  | .errlogRead m q => some (cmdErrlogRead, m, q)
  | .counterRead m q => some (cmdCounterRead, m, q)
  | .counterClear m q => some (cmdCounterClear, m, q)
  | .attest m q => some (cmdAttest, m, q)
  | .fwLoad m q => some (cmdFwLoad, m, q)
  | .fwActivate m q => some (cmdFwActivate, m, q)
  | .fwCommit m q => some (cmdFwCommit, m, q)
  | .recoveryLoad m q => some (cmdRecoveryLoad, m, q)
  | _ => none

/-- A result field of an answer: n bytes at byte offset off of the response (Tables 12-9, 12-10). -/
def Rsp.result (a : Rsp) (off n : Nat) : Nat := field a.body (8 * (off - 8)) (8 * n)

/-! ### Power-on reset -/

/-- The outputs and books that the bypass and the wrapper keep working while PORST_N is 0, with what the core dies hold, taken from
another state. -/
def State.outsideReset (s t : State) : State :=
  { t with cfg := s.cfg, pending := s.pending, free := s.free, wir := s.wir, out := s.out, dram := s.dram, poisonWords := s.poisonWords,
           clocks := s.clocks
           chans := mapIdxV (fun (c : Channel) i => { c with rows := (s.chan i).rows }) t.chans }

/-- While PORST_N is 0 every unit except the bypass and the wrapper is in reset (R319). -/
def HeldInReset (s : State) : Prop := s.porst = true → s = s.outsideReset State.reset

end Sys2Proof.Machine
end

