-- ==== Sys2Proof/Certificates/Slice0/Obligations.lean ====
section
/-! DEFINITION. The statements for the provers: what the commands of each family do, what they leave unchanged, and the whole-machine
rules of the manual. -/

open Sys2Proof Sys2Proof.Machine Sys2Proof.Bits

/-! ### The step, the queue, power-on reset -/

/-- A step takes the command at the front of the queue and runs it on the state with the queue's rest. -/
def Obligations.StepRunsFrontCommand : Prop :=
  ∀ (c : Instr) (rest : List Instr) (s : State),
    step { s with pending := c :: rest } = exec c { s with pending := rest }

/-- On an empty queue the timebase counts a nanosecond while PORST_N is 1, and nothing happens while it is 0 (the model's choice, log
entry 4). -/
def Obligations.EmptyQueueIsATick : Prop :=
  ∀ s : State, s.pending = [] →
    (s.porst = false → step s = .next { s with time := s.time + 1 }) ∧ (s.porst = true → step s = .next s)

/-- No command changes the queue or the configuration, and only the rows of PORST_N change PORST_N. -/
def Obligations.CommandsKeepQueueAndConfiguration : Prop :=
  ∀ (c : Instr) (s t : State), exec c s = .next t →
    t.pending = s.pending ∧ t.cfg = s.cfg ∧
      ((c ≠ .porstNAssert ∧ ∀ pos, c ≠ .porstNRelease pos) → t.porst = s.porst)

/-- While PORST_N is 0 every unit except the bypass and the wrapper is in reset, whatever is commanded (R319). -/
def Obligations.StepKeepsUnitsInReset : Prop :=
  ∀ s t : State, HeldInReset s → step s = .next t → HeldInReset t

/-- The state after power-on reset has PORST_N at 0, every unit in reset, service level 0 with a request for 1, nothing queued, no event,
and no admitted Formula. -/
def Obligations.ResetState : Prop :=
  HeldInReset State.reset ∧ State.reset.porst = true ∧ State.reset.pending = [] ∧ smLevel State.reset = 0x10 ∧
    State.reset.smp.events = [] ∧ State.reset.formula = none ∧ smFru State.reset = 0x13FFF8 ∧
    Memory.wf State.reset.dram ∧ (∀ i < 13, ((State.reset.dom i).req = false ∧ (State.reset.dom i).present = false)) ∧
    (∀ m < 4, mbxStat (State.reset.mbx m) = 0) ∧ (∀ c < 32, (State.reset.chan c).mode = .mem)

/-- PORST_N to 0: every unit except the bypass and the wrapper is in reset; the core dies keep what they hold. PORST_N to 1 samples the
strap, starts the timebase, which stands at 10 µs when the engine answers, and requests power for PD-MC; released already, it changes
nothing (R319). -/
def Obligations.PowerOnReset : Prop :=
  ∀ (s : State) (pos : BitVec 3), s.testing = false →
    (∃ t, exec .porstNAssert s = .next t ∧ t.porst = true ∧ HeldInReset t ∧ t.dram = s.dram ∧ t.poisonWords = s.poisonWords ∧
      t.out = s.out ∧ t.wir = s.wir ∧ ∀ c < 32, (t.chan c).rows = (s.chan c).rows) ∧
    (s.porst = true → s.dom 0 = {} → ∃ t, exec (.porstNRelease pos) s = .next t ∧ t.porst = false ∧ t.time = 10000 ∧ t.smp.pos = pos ∧
      (t.dom 0).req = true ∧ (t.dom 0).since = 10000 ∧ (∀ i, i ≠ 0 → t.dom i = s.dom i) ∧
      { t with porst := s.porst, time := s.time, smp := { t.smp with pos := s.smp.pos }, doms := s.doms } = s) ∧
    (s.porst = false → exec (.porstNRelease pos) s = .next s)

/-! ### Mailboxes: words, doorbells, sequence, checks -/

/-- The 64 request bytes give back CODE, SEQ, TOKEN and every parameter bit (Table 12-8). A response word carries CODE, SEQ, STATUS and
DETAIL in the places of Table 12-8. -/
def Obligations.MailboxWords : Prop :=
  (
  ∀ (code : Nat) (q : Req), code < 2 ^ 16 → reqCode (q.word code) = code ∧ reqOf (q.word code) = q) ∧
  (
  ∀ (code seq : Nat) (r : Rsp), code < 2 ^ 16 → seq < 2 ^ 16 → r.status < 2 ^ 16 → r.detail < 2 ^ 16 → r.body < 2 ^ 448 →
    let w := (r.word code seq).toNat
    field w 0 16 = code ∧ field w 16 16 = seq ∧ field w 32 16 = r.status ∧ field w 48 16 = r.detail ∧ field w 64 448 = r.body)

/-- The command set: code, mailboxes and level of every command, in the order of Table 12-10, and each row of the table is one of them.
The order of the later checks: ROM recovery on MBX3, mailbox, level, fields, pointers (R338, R332, R341, R375). A reserved parameter bit
that is set makes a request BAD_FIELD, and the offset is that of the first such byte; a request that sets none has none (R7, R334; the
choice of the first byte is the model's, log entry 48). -/
def Obligations.MailboxChecks : Prop :=
  (
  commandSet.map (fun k => (k.code, k.boxes, k.level)) =
      [(0x0001, [0, 1, 2, 3], 1), (0x0002, [0, 1, 2, 3], 1), (0x0003, [0, 1, 2, 3], 1), (0x0004, [0, 1, 2, 3], 1),
       (0x0005, [0, 1, 2, 3], 1), (0x0101, [0], 1), (0x0102, [0], 1), (0x0103, [0, 1], 2), (0x0104, [0], 2), (0x0105, [0, 1], 2),
       (0x0106, [0], 2), (0x0107, [0], 2), (0x0108, [0], 2), (0x0109, [0], 2), (0x010A, [0], 2)] ++
      [(0x0201, [1], 1), (0x0202, [1], 1), (0x0203, [1, 2], 1), (0x0301, [0, 1], 2), (0x0302, [0, 1], 2), (0x0303, [0, 1], 2),
       (0x0304, [1], 3), (0x0305, [0, 1], 2), (0x0401, [0, 1, 2, 3], 1), (0x0402, [0, 1, 3], 1), (0x0403, [0, 1, 3], 1),
       (0x0404, [0, 1, 3], 1)] ++
      [(0x0501, [0], 2), (0x0502, [0], 2), (0x0503, [2], 2), (0x0504, [0, 2], 2), (0x0505, [0, 1], 1), (0x0506, [0, 1, 2], 1),
       (0x0507, [0, 1, 2], 1), (0x0508, [0], 1), (0x0509, [0, 1, 2], 1), (0x0601, [0], 1), (0x0602, [0], 1), (0x0603, [0], 1),
       (0x0604, [3], 1)] ∧
    ∀ (c : Instr) (k : Cmd) (m : Fin 4) (q : Req), rowCmd c = some (k, m, q) → commandOf k.code = some k) ∧
  (
  ∀ (k : Cmd) (s : State) (m : Nat) (q : BitVec 448),
    let rom := s.romRefuses k.code = true ∧ m = 3
    let badPointer := (k.ptrs q).any (fun p => !s.pointerOk p.1 p.2) = true
    (rom → k.judge s m q false = some (Rsp.of stWrongState)) ∧
    (¬ rom → m ∉ k.boxes → k.judge s m q false = some (Rsp.of stWrongMailbox)) ∧
    (¬ rom → m ∈ k.boxes → s.level < k.level → k.judge s m q false = some (Rsp.of stWrongLevel)) ∧
    (¬ rom → m ∈ k.boxes → k.level ≤ s.level → ∀ off, reservedSet k.fields q = some off →
      k.judge s m q false = some (Rsp.badField off)) ∧
    (¬ rom → m ∈ k.boxes → k.level ≤ s.level → reservedSet k.fields q = none → ∀ off, k.bad s q = some off →
      k.judge s m q false = some (Rsp.badField off)) ∧
    (¬ rom → m ∈ k.boxes → k.level ≤ s.level → reservedSet k.fields q = none → k.bad s q = none →
      k.judge s m q false = if badPointer then some (Rsp.of stBadPointer) else none)) ∧
  (
  ∀ (fs : List ParField) (q : BitVec 448),
    (reservedSet fs q = none ↔ ∀ i < 448, q.getLsbD i = true → (usedMask fs).testBit i = true) ∧
    (∀ off, reservedSet fs q = some off → ∃ i < 448, off = 8 + i / 8 ∧ q.getLsbD i = true ∧ (usedMask fs).testBit i = false ∧
      ∀ j < i, q.getLsbD j = true → (usedMask fs).testBit j = true))

/-- A doorbell below S1 is ignored with SM_ERR; one while BUSY is 1 is ignored with SM_ERR and counted in MBX_OVERRUN; one during a
handover, or while FW_COMMIT is executed, is accepted and queued in doorbell order, with HELD = 1 in a handover (R333, R339, R340). The row
of a command writes the REQ registers in each case. A request that passes its checks, of a command that transfers staging bytes while a
channel of that region is not reached, enters the sequence and stays BUSY and unanswered with the channels that it waits for (R398).
Writing 1 to SM_MBXm_DOORBELL does with the request in the REQ registers what the row of its command does. -/
def Obligations.Doorbells : Prop :=
  (
  ∀ (c : Instr) (k : Cmd) (m : Fin 4) (q : Req) (s : State), rowCmd c = some (k, m, q) → Awake s →
    let r := s.modMbx m (fun b => { b with req := q.word k.code })
    (s.level = 0 → exec c s = .next (r.answer 0 true)) ∧
    (1 ≤ s.level → (s.mbx m).busy = true → exec c s = .next ((r.count 6 0 1 1).answer 0 true)) ∧
    (1 ≤ s.level → (s.mbx m).busy = false → s.holding = true ∨ s.fw.commit.isSome = true →
      exec c s = .next (((r.answer 0 false).modMbx m (fun b => { b with
          taken := q.word k.code, busy := true, rspValid := false, held := s.holding, heldSince := s.time })).modFw
        (fun w => { w with heldQueue := w.heldQueue ++ [m.toNat] })))) ∧
  (
  ∀ (c : Instr) (k : Cmd) (m : Fin 4) (q : Req) (s : State), rowCmd c = some (k, m, q) → Staged k s m q →
    let waits := (List.range (channels s.cfg)).filter (fun ch => !s.chanReached ch)
    exec c s = .next ((s.entered m k.code q).modFw (fun w => { w with stage := w.stage ++ [(m.toNat, waits)] }))) ∧
  (
  ∀ (c : Instr) (k : Cmd) (m : Fin 4) (q : Req) (s : State), rowCmd c = some (k, m, q) → Awake s →
    exec (.registerWrite (BitVec.ofNat 16 (0x1080 + 0x100 * m.toNat)) 1) (s.modMbx m (fun b => { b with req := q.word k.code })) = exec c s)

/-- A request whose SEQ equals LAST is answered with the stored response, bit for bit, and runs no command (R335). Without the token of
the open session a request is refused as NO_SESSION; with it, a SEQ 2 to 32,767 past LAST is SEQ_GAP and any other SEQ that is neither
LAST nor the next is SEQ_OLD. None of them enters the sequence (R335, R336, R338). A request that enters the sequence and fails a check of
its command is answered with that status, and becomes the last of the sequence. In ROM mode mailboxes 0 to 2 answer WRONG_STATE to all but
IDENTIFY and RUN_STATUS, and a request with the session's token and the next SEQ enters the sequence all the same (R335, R338). Stated of all
commands but SESSION_OPEN. -/
def Obligations.ReplaysAndRefusals : Prop :=
  (
  ∀ (c : Instr) (k : Cmd) (m : Fin 4) (q : Req) (s : State), rowCmd c = some (k, m, q) → Rings s m → k.code ≠ 0x0002 →
    (s.fw.romMode = false ∨ m = 3 ∨ k.code = 0x0001 ∨ k.code = 0x0005) → (s.mbx m).session = some q.token → q.token ≠ 0 →
    q.seq = (s.mbx m).last → exec c s = .next (s.answeredApart m k.code q (s.mbx m).stored)) ∧
  (
  ∀ (c : Instr) (k : Cmd) (m : Fin 4) (q : Req) (s : State), rowCmd c = some (k, m, q) → Rings s m → k.code ≠ 0x0002 →
    let rom := s.fw.romMode = true ∧ m ≠ 3 ∧ k.code ≠ 0x0001 ∧ k.code ≠ 0x0005
    let free := (k.code = 0x0001 ∨ k.code = 0x0005) ∧ q.token = 0
    let refuse := fun (st : Nat) => Host.Outcome.next (s.answeredApart m k.code q ((Rsp.of st).word k.code q.seq.toNat))
    let d := (q.seq - (s.mbx m).last).toNat
    (rom → (s.mbx m).session = some q.token → d = 1 → exec c s = .next (s.answered m k.code q (Rsp.of stWrongState))) ∧
    (rom → (s.mbx m).session ≠ some q.token ∨ d ≠ 1 → exec c s = refuse stWrongState) ∧
    (¬ rom → ¬ free → (s.mbx m).session ≠ some q.token → exec c s = refuse stNoSession) ∧
    (¬ rom → ¬ free → (s.mbx m).session = some q.token → 2 ≤ d → d < 32768 → exec c s = refuse stSeqGap) ∧
    (¬ rom → ¬ free → (s.mbx m).session = some q.token → 32768 ≤ d → exec c s = refuse stSeqOld)) ∧
  (
  ∀ (c : Instr) (k : Cmd) (m : Fin 4) (q : Req) (s : State) (r : Rsp), rowCmd c = some (k, m, q) → InSequence s m q → k.code ≠ 0x0002 →
    k.judge s m q.par false = some r → exec c s = .next (s.answered m k.code q r))

/-! ### Commands of a session and of a run -/

/-- KEEPALIVE and SESSION_CLOSE: the answer is OK; KEEPALIVE changes nothing else, SESSION_CLOSE ends the session. SESSION_OPEN: while a
session is open it is SESSION_BUSY without the TAKEOVER flag and changes neither LAST nor the stored response; else a session opens with a
token that is neither 0 nor the mailbox's previous one, SEQ becomes LAST, the response becomes the stored one, and a session that TAKEOVER
ends posts SESSION_EXPIRED with cause 1 (R336). A session expires 1 s after the last request of its own that was accepted, never while a
request runs or is held, a relayed one of mailbox 1 included; SESSION_EXPIRED is posted with cause 0 and nothing else changes (R337).
Offered earlier, the event changes nothing (the model's reading, log entry 5). -/
def Obligations.Sessions : Prop :=
  (
  ∀ (s : State) (m : Fin 4) (q : Req),
    (Accepted cmdKeepalive s m q → exec (.keepalive m q) s = .next (s.answered m 0x0004 q Rsp.ok)) ∧
    (Accepted cmdSessionClose s m q →
      exec (.sessionClose m q) s = .next ((s.modMbx m (fun b => { b with session := none })).answered m 0x0003 q Rsp.ok))) ∧
  (
  ∀ (s : State) (m : Fin 4) (q : Req), Rings s m → (s.fw.romMode = false ∨ m = 3) → cmdSessionOpen.judge s m q.par false = none →
    let opened := (s.mbx m).session.isSome
    let takeover := bit (par q.par 8 1) 0
    (opened = true → takeover = false →
      exec (.sessionOpen m q) s = .next (s.answeredApart m 0x0002 q ((Rsp.of stSessionBusy).word 0x0002 q.seq.toNat))) ∧
    (opened = false ∨ takeover = true → ∃ t tok, exec (.sessionOpen m q) s = .next t ∧
      tok ≠ 0 ∧ tok ≠ (s.mbx m).prevToken ∧
      t.mbx m =
        (let w := ({ Rsp.ok with body := res 8 4 tok.toNat + res 12 2 1000 } : Rsp).word 0x0002 q.seq.toNat
         { s.mbx m with
          req := q.word 0x0002, taken := q.word 0x0002, rsp := w, rspValid := true, busy := false, held := false, session := some tok,
          prevToken := tok, last := q.seq, stored := w, timer := s.time }) ∧
      (∀ j : Fin 4, j ≠ m → t.mbx j = s.mbx j) ∧
      { t with smp := s.smp, free := s.free } = s ∧
      { t.smp with mbx := s.smp.mbx } =
        (let cut : Smp := { s.smp with rdata := 0, err := false }
         let ended := if opened then cut.post (mkEvent 0x0002 6 7 m 1 0 s.time) else cut
         ended.post (mkEvent 0x0001 6 7 m q.seq.toNat 0 s.time)))) ∧
  (
  ∀ (s : State) (m : Fin 4), Awake s →
    let b := s.mbx m
    let relayed := m = 1 ∧ s.relayWaits = true
    (b.session.isSome = true → b.busy = false → ¬ relayed → b.timer + 1000000000 ≤ s.time →
      exec (.sessionExpired m) s = .next ((s.modMbx m (fun x => { x with session := none })).post 0x0002 6 7 m 0 0)) ∧
    (b.session.isSome = false ∨ b.busy = true ∨ relayed ∨ s.time < b.timer + 1000000000 → exec (.sessionExpired m) s = .next s))

/-- IDENTIFY and RUN_STATUS give what their tables list; sent with TOKEN 0 they enter no sequence, sent with the session's token they do
(R336, Tables 12-9, 12-10). -/
def Obligations.IdentifyAndRunStatus : Prop :=
  ∀ (s : State) (m : Fin 4) (q : Req),
    let slot := if s.fw.romMode then 0xFF else (s.fw.running.map Fin.toNat).getD 0xFF
    let handles := (s.ops.map LongOp.handle).foldr insertNat []
    let ident := fun (a : Rsp) => a.status = stOk ∧ a.detail = 0 ∧ a.result 8 4 = smIdent s.cfg ∧ a.result 12 4 = smFru s ∧
      a.result 16 4 = (if s.fw.romMode then 0 else s.fwVersion % 2 ^ 32) ∧ a.result 20 1 = slot ∧
      a.result 21 1 = s.level % 256 ∧ a.result 22 1 = s.sessions ∧ a.result 23 1 = 0 ∧ a.result 24 4 = s.capacity / 2 ^ 20 % 2 ^ 32 ∧
      a.result 28 1 = channels s.cfg ∧ a.result 29 1 = s.disc.rowbits % 256 ∧ a.result 30 1 = s.disc.nPost % 256 ∧
      a.result 31 1 = 0 ∧ a.result 32 16 = Discovery.record s.disc % 2 ^ 128 ∧ a.result 48 16 = 0
    let status := fun (a : Rsp) => a.status = stOk ∧ a.detail = 0 ∧ a.result 8 2 = s.runFlags % 2 ^ 16 ∧ a.result 10 1 = s.level % 256 ∧
      a.result 11 1 = s.ops.length % 256 ∧ a.result 12 4 = s.fabric.epoch % 2 ^ 32 ∧ a.result 16 6 = s.run.lastStep % 2 ^ 48 ∧
      a.result 22 2 = 0 ∧ a.result 24 6 = s.run.updates % 2 ^ 48 ∧ a.result 30 1 = toSigned 8 s.run.lossExp % 256 ∧ a.result 31 1 = 0 ∧
      a.result 32 8 = digest64 s % 2 ^ 64 ∧ (∀ i, i < 8 → a.result (48 + 2 * i) 2 = handles.getD i 0 % 2 ^ 16) ∧
      a.result 40 4 = mapWord s.cfg s.stills % 2 ^ 32 ∧ a.result 44 4 = s.run.gen % 2 ^ 32
    (Accepted cmdIdentify s m q → ∃ a, ident a ∧ exec (.identify m q) s = .next (s.answered m 0x0001 q a)) ∧
    (Accepted cmdRunStatus s m q → ∃ a, status a ∧ exec (.runStatus m q) s = .next (s.answered m 0x0005 q a)) ∧
    (Rings s m → q.token = 0 → cmdIdentify.judge s m q.par false = none →
      ∃ a, ident a ∧ exec (.identify m q) s = .next (s.answeredApart m 0x0001 q (a.word 0x0001 q.seq.toNat))) ∧
    (Rings s m → q.token = 0 → cmdRunStatus.judge s m q.par false = none →
      ∃ a, status a ∧ exec (.runStatus m q) s = .next (s.answeredApart m 0x0005 q (a.word 0x0005 q.seq.toNat)))

/-- RUN_SETUP sets K from the seed, NEXT 1, no update, generation 0, and drops cursors and selections; with a Formula admitted it is
WRONG_STATE (R134, R226, R227). FRESH_SEED: the seed is the first 16 bytes of the SHA-384 hash of 192 fresh samples, which are free
values, when they pass the health tests, and samples that fail one are not delivered: the start-up tests begin again and ENTROPY_FAIL is
posted; without PD-KEY it is NOT_READY and requests that domain, before the start-up tests it is NOT_READY, on a fenced source ES_FAIL
(R238 to R240). CURSOR_SET appends the step and the 64 bytes at its pointer, and the 16 latest cursors stay; DIGEST_SELECT and
GRAD_CAPTURE keep their selections (R291, R293, R341). -/
def Obligations.RunSetupSeedCursorsSelections : Prop :=
  (
  ∀ (s : State) (m : Fin 4) (q : Req), Accepted cmdRunSetup s m q →
    (s.formula = none → exec (.runSetup m q) s = .next
      (({ s with run := { key := Sillage.keyOfSeed (par q.par 8 16), setUp := true, nextStep := 1, stopHold := s.run.stopHold }, cursors := [], digestSel := {},
                 captureSel := {}, keyPresent := s.present 3 && !s.keyFenced } : State).answered m 0x0101 q Rsp.ok)) ∧
    (s.formula.isSome = true → exec (.runSetup m q) s = .next (s.answered m 0x0101 q (Rsp.of stWrongState)))) ∧
  (
  ∀ (s : State) (m : Fin 4) (q : Req), Accepted cmdFreshSeed s m q →
    let drawn192 := rawSamples s.free
    let healthy := repetitionFails drawn192 = false ∧ proportionFails drawn192 = false
    let drawn : State := { s with free := s.free + 192, entropy := { s.entropy with wanted := false } }
    let asked : State := { s.requestDom 3 with entropy := { s.entropy with wanted := true } }
    (s.present 3 = true → s.entropy.fenced = false → s.entropy.ready = true → ∃ t, exec (.freshSeed m q) s = .next t ∧
      t.free = s.free + 192 ∧ t.entropy.wanted = false ∧ { t with smp := s.smp, free := s.free, entropy := s.entropy, log := s.log, blotter := s.blotter } = s ∧
      (healthy → ∃ a, t = drawn.answered m 0x0102 q a ∧ a.status = stOk ∧ a.detail = 0 ∧
        a.result 8 16 = leVal ((Hash.sha384 drawn192).take 16)) ∧
      (¬ healthy → t.entropy.ready = false ∧ t.entropy.failures = s.entropy.failures + 1 ∧
        (t.mbx m).rsp = (Rsp.of (if s.entropy.failures = 0 then stNotReady else stEsFail)).word 0x0102 q.seq.toNat)) ∧
    (s.present 3 = false → exec (.freshSeed m q) s = .next (asked.answered m 0x0102 q (Rsp.of stNotReady))) ∧
    (s.present 3 = true → s.entropy.fenced = true → exec (.freshSeed m q) s = .next (s.answered m 0x0102 q (Rsp.of stEsFail))) ∧
    (s.present 3 = true → s.entropy.fenced = false → s.entropy.ready = false →
      exec (.freshSeed m q) s = .next (s.answered m 0x0102 q (Rsp.of stNotReady)))) ∧
  (
  ∀ (s : State) (m : Fin 4) (q : Req),
    let l := s.cursors ++ [(par q.par 8 6, s.dramBytes (par q.par 16 8) 64)]
    (Accepted cmdCursorSet s m q →
      exec (.cursorSet m q) s = .next (({ s with cursors := l.drop (l.length - 16) } : State).answered m 0x0106 q Rsp.ok)) ∧
    (Accepted cmdDigestSelect s m q → exec (.digestSelect m q) s = .next
      (({ s with digestSel := { first := par q.par 8 6, last := par q.par 16 6, every := par q.par 24 4 } } : State).answered m 0x0109 q
        Rsp.ok)) ∧
    (Accepted cmdGradCapture s m q → exec (.gradCapture m q) s = .next
      (({ s with captureSel :=
            { first := par q.par 8 6, last := par q.par 16 6, every := par q.par 24 4, shardFirst := par q.par 28 4,
              shardLast := par q.par 32 4 } } : State).answered m 0x010A q Rsp.ok)))

/-- STEP_BEGIN of step NEXT, RUN_STOP and EVAL_OPEN with a Formula admitted: the step is begun, no further anchor is taken, the request
waits unanswered until the window opens (R134, R161, R295). EVAL_CLOSE in an open window: every channel that is not fenced passes through
TRANSIT to PROC, and the window closes when all of them are there with their catch-up paid, with FROZEN cleared; while the EMA copy runs
it is CONFLICT (R295). -/
def Obligations.RunAndEvalCommands : Prop :=
  (
  ∀ (s : State) (m : Fin 4) (q : Req), s.formula.isSome = true →
    (Accepted cmdStepBegin s m q → par q.par 8 6 = s.run.nextStep →
      exec (.stepBegin m q) s = .next (({ s with run := { s.run with stepBegin := true } } : State).answered m 0x0104 q Rsp.ok)) ∧
    (Accepted cmdStepBegin s m q → par q.par 8 6 ≠ s.run.nextStep → ¬ (s.run.anchored = true ∧ par q.par 8 6 = s.run.lastStep) →
      exec (.stepBegin m q) s = .next (s.answered m 0x0104 q (Rsp.of stWrongState))) ∧
    (Accepted cmdRunStop s m q →
      exec (.runStop m q) s = .next (({ s with run := { s.run with stopping := true } } : State).answered m 0x0105 q Rsp.ok)) ∧
    (Accepted cmdEvalOpen s m q → s.run.eval = .closed → exec (.evalOpen m q) s = .next
      (({ s with run := { s.run with eval := .requested (bit (par q.par 8 1) 0) } } : State).entered m 0x0107 q)) ∧
    (Accepted cmdEvalOpen s m q → s.run.eval ≠ .closed →
      exec (.evalOpen m q) s = .next (s.answered m 0x0107 q (Rsp.of stWrongState)))) ∧
  (
  ∀ (s : State) (m : Fin 4) (q : Req), Accepted cmdEvalClose s m q →
    (s.run.eval = .opened → ∃ t, exec (.evalClose m q) s = .next t ∧ t.smp = (s.answered m 0x0108 q Rsp.ok).smp ∧
      (∀ ch, ch < channels s.cfg → t.chan ch = (s.chan ch).transit .toProc s.time) ∧
      (∀ ch, channels s.cfg ≤ ch → t.chan ch = s.chan ch) ∧
      { t with smp := s.smp, chans := s.chans, run := s.run, shards := s.shards } = s ∧
      (let back := ∀ ch, ch < channels s.cfg → (s.chan ch).fenced = true ∨ ((s.chan ch).mode = .proc ∧ (s.chan ch).catchup = 0)
       (back → t.run = { s.run with eval := .closed } ∧
         t.shards = s.shards.map (fun h => { h with ready := { h.ready with frozen := false } })) ∧
       (¬ back → t.run = { s.run with eval := .closing } ∧ t.shards = s.shards))) ∧
    (s.run.eval = .decanting → exec (.evalClose m q) s = .next (s.answered m 0x0108 q (Rsp.of stConflict))))

/-- ROUTE_SET installs the entries at its pointer and makes the rest of the 64 invalid, or refuses with ROUTE, the entry and the reason
(R257); TOPOLOGY gives the own view, or a neighbour's latest TOPO with its age in µs, or an age of 0xFFFF_FFFF (R261). MEMBERSHIP installs
the epoch, the list and the engine's own place, clears partner fences and batch sequence state and sends TOPO, when its list and place
pass R266; an epoch that does not rise is refused with EPOCH and DETAIL 1 and changes nothing (R266). Packets that were held for a later
epoch are handled in the same step. -/
def Obligations.MembershipRoutesTopology : Prop :=
  (
  ∀ (s : State) (m : Fin 4) (q : Req),
    let es := (s.dramWords (par q.par 8 8) 8 (par q.par 16 1)).map (BitVec.ofNat 64)
    let reserved := es.any (fun e => decide (routeFld e 28 4 ≠ 0) || decide (routeFld e 52 12 ≠ 0))
    let w := par q.par 8 1
    (Accepted cmdRouteSet s m q → reserved = false → firstRouteFault s.cfg es 0 = none → exec (.routeSet m q) s = .next
      (({ s with fabric := { s.fabric with routes := es ++ List.replicate (64 - es.length) 0 } } : State).answered m 0x0202 q Rsp.ok)) ∧
    (Accepted cmdRouteSet s m q → reserved = false → ∀ f, firstRouteFault s.cfg es 0 = some f → exec (.routeSet m q) s = .next
      (s.answered m 0x0202 q { status := stRoute, detail := f.2, body := res 8 1 f.1 })) ∧
    (Accepted cmdTopology s m q → w = 0 → exec (.topology m q) s = .next
      (s.answered m 0x0203 q { Rsp.ok with body := res 8 32 (leVal (topoPayload s)) })) ∧
    (Accepted cmdTopology s m q → 1 ≤ w → w ≤ links s.cfg → ∀ bs, (s.link (w - 1)).topo = some bs → exec (.topology m q) s = .next
      (s.answered m 0x0203 q { Rsp.ok with
        body := res 8 32 (leVal bs) + res 40 4 (min ((s.time - (s.link (w - 1)).topoAt) / 1000) 0xFFFFFFFE) })) ∧
    (Accepted cmdTopology s m q → 1 ≤ w → (links s.cfg < w ∨ (s.link (w - 1)).topo = none) → exec (.topology m q) s = .next
      (s.answered m 0x0203 q { Rsp.ok with body := res 40 4 0xFFFFFFFF }))) ∧
  (
  ∀ (s : State) (m : Fin 4) (q : Req), Accepted cmdMembership s m q →
    let eas := s.dramWords (par q.par 24 8) 4 (par q.par 16 4)
    let fault := s.epochFault (par q.par 8 4) (par q.par 12 2) (par q.par 14 1) eas
    (∀ e ∈ eas, e < 2 ^ 18) →
    (fault = 0 → exec (.membership m q) s = .next (s.hold (Ran.finish
      ((s.entered m 0x0201 q).installEpoch (par q.par 8 4) (par q.par 12 2) (par q.par 14 1) eas, some Rsp.ok) m 0x0201 q))) ∧
    (fault = 0 → s.fabric.held = [] → ∃ t, exec (.membership m q) s = .next t ∧ t.fabric.epoch = par q.par 8 4 ∧
      t.fabric.tray = par q.par 12 2 ∧ t.fabric.chip = par q.par 14 1 ∧ t.fabric.members = eas ∧ t.fabric.assigned = true ∧
      t.fabric.fences = [] ∧ t.fabric.bseqTx = [] ∧ t.fabric.bseqRx = [] ∧ t.fabric.routes = s.fabric.routes ∧
      t.fabric.rounds = s.fabric.rounds ∧ (t.mbx m).rsp = Rsp.ok.word 0x0201 q.seq.toNat ∧ (t.mbx m).busy = false ∧
      t.run = s.run ∧ t.dram = s.dram ∧ t.shards = s.shards ∧ t.chans = s.chans ∧ t.formula = s.formula) ∧
    (par q.par 8 4 ≤ s.fabric.epoch → exec (.membership m q) s = .next (s.answered m 0x0201 q { status := stEpoch, detail := 1 })) ∧
    (fault ≠ 0 → exec (.membership m q) s = .next (s.answered m 0x0201 q { status := stEpoch, detail := fault })))

/-! ### Long operations -/

/-- A long operation gets a handle that is neither 0 nor that of a live or retained operation, of which there are at most 24 (R345). The
exclusions of R349 and the limit of eight live operations of R345: a start that they forbid is CONFLICT or NO_RESOURCE and starts nothing.
Stated of the two commands whose own state allows them always, BLOTTER_DUMP and SCRUB_PASS. -/
def Obligations.HandlesAndLimits : Prop :=
  (
  ∀ (used : List Nat) (next : Nat), used.length ≤ 24 → next < 2 ^ 16 →
    freshHandle used 32 next ≠ 0 ∧ freshHandle used 32 next ∉ used ∧ freshHandle used 32 next < 2 ^ 16) ∧
  (
  ∀ (s : State) (m : Fin 4) (q : Req),
    let dump : LongOp := { handle := 0, code := cBlotterDump, st := .running, par := q.par.toNat }
    let scrub : LongOp := { handle := 0, code := cScrubPass, st := .running, par := q.par.toNat }
    (s.opConflict dump = true ↔ s.live cSelfTest = true ∨ s.live cBlotterDump = true) ∧
    (s.opConflict scrub = true ↔ s.live cSelfTest = true ∨ s.live cScrubPass = true) ∧
    (Accepted cmdBlotterDump s m q → s.opConflict dump = true →
      exec (.blotterDump m q) s = .next (s.answered m cBlotterDump q (Rsp.of stConflict))) ∧
    (Accepted cmdBlotterDump s m q → s.opConflict dump = false → 8 ≤ s.ops.length →
      exec (.blotterDump m q) s = .next (s.answered m cBlotterDump q (Rsp.of stNoResource))) ∧
    (Accepted cmdScrubPass s m q → s.opConflict scrub = true →
      exec (.scrubPass m q) s = .next (s.answered m cScrubPass q (Rsp.of stConflict))) ∧
    (Accepted cmdScrubPass s m q → s.opConflict scrub = false → 8 ≤ s.ops.length →
      exec (.scrubPass m q) s = .next (s.answered m cScrubPass q (Rsp.of stNoResource))))

/-- The commands that start a long operation answer OP_STARTED with its handle, and the operation is live with its code, parameters, total
and state; what else a start does is what its command says: RUN's generation for FLACON_WRITE, the channels that enter PROC with no
Formula admitted, the pending staged bundle that FW_LOAD discards (R341, R345, R366). FLACON_WRITE in an open EVAL window with no emission
in progress takes the next generation number and starts its emission; the answer is OP_STARTED with the handle and that number (R277,
R279, Table 12-16). -/
def Obligations.LongOperationsStart : Prop :=
  (
  ∀ (s : State) (m : Fin 4) (q : Req),
    let h := s.handleNext
    (Accepted cmdAdmit s m q → CanStart s cAdmit q → s.mayAdmit (bit (par q.par 20 1) 0) = true → admissionMap s.cfg s.stills ≠ none →
      exec (.admitCmd m q) s = .next ((s.begun cAdmit q (par q.par 16 4) 0 .running).answered m cAdmit q (.started h))) ∧
    (Accepted cmdRestore s m q → CanStart s cRestore q → s.formula.isSome = true →
      exec (.restore m q) s = .next ((s.begun cRestore q 0 0 (if par q.par 12 1 = 1 then .waitInput else .running)).answered m cRestore q
        (.started h))) ∧
    (Accepted cmdAdopt s m q → CanStart s cAdopt q → s.formula.isSome = true → s.form.hdr.epoch = s.fabric.epoch →
      s.near.ward = par q.par 8 4 → s.near.gen = par q.par 12 4 → s.near.done = true →
      ∃ total, exec (.adopt m q) s = .next ((s.begun cAdopt q total 0 .running).answered m cAdopt q (.started h))) ∧
    (Accepted cmdDecantFull s m q → CanStart s cDecantFull q → s.formula.isSome = true →
      ∃ total, exec (.decantFull m q) s = .next ((s.begun cDecantFull q total 0 (s.longopStart cDecantFull q.par.toNat)).answered m cDecantFull q (.started h))) ∧
    (Accepted cmdSelfTest s m q → CanStart s cSelfTest q → s.formula = none →
      exec (.selfTest m q) s = .next ((s.begun cSelfTest q ((List.range 11).filter (bit (par q.par 8 4))).length 0 .running).answered m
        cSelfTest q (.started h))) ∧
    (Accepted cmdInitRegion s m q → CanStart s cInitRegion q → s.rangeInUse (par q.par 8 8) (par q.par 16 8) = false →
      exec (.initRegion m q) s = .next (((s.begun cInitRegion q (par q.par 16 8) 0 (s.longopStart cInitRegion q.par.toNat)).opEnter h).answered m cInitRegion q
        (.started h))) ∧
    (Accepted cmdBlotterDump s m q → CanStart s cBlotterDump q →
      exec (.blotterDump m q) s = .next (((s.begun cBlotterDump q
        (min (par q.par 24 4 / 64) (s.ringRecords (par q.par 8 8)).length) 0 (s.longopStart cBlotterDump q.par.toNat)).opEnter h).answered m cBlotterDump q
        (.started h))) ∧
    (Accepted cmdScrubPass s m q → CanStart s cScrubPass q →
      ∃ total, exec (.scrubPass m q) s = .next (((s.begun cScrubPass q total 0 (s.longopStart cScrubPass q.par.toNat)).opEnter h).answered m cScrubPass q
        (.started h))) ∧
    (Accepted cmdFwLoad s m q → CanStart s cFwLoad q → s.handingOver = false → par q.par 20 1 = 0 → s.slotRefused = false →
      exec (.fwLoad m q) s = .next (({ s.begun cFwLoad q (par q.par 16 4) s.otherSlot .running with
        fw := { s.fw with pendingStage := none } } : State).answered m cFwLoad q (.started h))) ∧
    (Accepted cmdFwLoad s m q → CanStart s cFwLoad q → s.handingOver = false → par q.par 20 1 = 1 → s.fuses.locked 5 = false →
      exec (.fwLoad m q) s = .next (({ s.begun cFwLoad q (par q.par 16 4) 2 .running with
        fw := { s.fw with pendingStage := none } } : State).answered m cFwLoad q (.started h))) ∧
    (Accepted cmdRecoveryLoad s m q → CanStart s cRecoveryLoad q → s.fw.romMode = true → (s.codeSlot s.recoverySlot).fenced = false →
      exec (.recoveryLoad m q) s = .next ((s.begun cRecoveryLoad q (par q.par 16 4) s.recoverySlot .running).answered m cRecoveryLoad q
        (.started h)))) ∧
  (
  ∀ (s : State) (m : Fin 4) (q : Req), Accepted cmdFlaconWrite s m q → CanStart s cFlaconWrite q →
    (s.run.eval = .opened → s.emission = none → s.run.gen < 2 ^ 32 - 1 → ∃ t, exec (.flaconWrite m q) s = .next t ∧
      (t.mbx m).rsp = ({ status := stOpStarted, body := res 8 2 s.handleNext + res 12 4 (s.run.gen + 1) } : Rsp).word cFlaconWrite
        q.seq.toNat ∧
      t.run.gen = s.run.gen + 1 ∧ (∃ o ∈ t.ops, o.handle = s.handleNext ∧ o.code = cFlaconWrite ∧ o.result = s.run.gen + 1) ∧
      { t with smp := s.smp, ops := s.ops, nextHandle := s.nextHandle, run := s.run, emission := s.emission, outPages := s.outPages } = s ∧
      { t.run with gen := s.run.gen } = s.run) ∧
    (s.run.eval ≠ .opened ∨ s.emission.isSome = true →
      exec (.flaconWrite m q) s = .next (s.answered m cFlaconWrite q (Rsp.of stWrongState))))

/-- OP_STATUS, OP_SUSPEND, OP_RESUME and OP_CANCEL on a live operation: the status shows its record; suspend stops a waiting one at once and
a running one at its next suspend point; resume goes on, or waits where no reservation is in force; cancel waits for the suspend point of a
running one (R345 to R347). A handle that names no live or retained operation is NO_HANDLE. A suspend point sets the progress of a running
operation and ends it CANCELLED or leaves it SUSPENDED where that was asked; a LONGOP reservation of a channel that a waiting operation
names lets it run, and outside the reservations one of R170 waits (R167, R170, R346, R347; that one channel is enough is the model's
reading, log entry 128). -/
def Obligations.LongOperationControl : Prop :=
  (
  ∀ (s : State) (m : Fin 4) (q : Req),
    let h := par q.par 8 2
    let shows := fun (st : OpSt) => ({ Rsp.ok with body := res 8 1 st.code } : Rsp)
    (Accepted cmdOpStatus s m q → ∀ o, s.anyOp h = some o → ∃ a, exec (.opStatus m q) s = .next (s.answered m 0x0401 q a) ∧
      a.status = stOk ∧ a.detail = 0 ∧ a.result 8 2 = o.handle % 2 ^ 16 ∧ a.result 10 2 = o.code % 2 ^ 16 ∧ a.result 12 1 = o.st.code ∧
      a.result 14 2 = o.status % 2 ^ 16 ∧ a.result 16 2 = o.detail % 2 ^ 16 ∧ a.result 24 8 = o.done % 2 ^ 64 ∧
      a.result 32 8 = o.total % 2 ^ 64 ∧ a.result 40 24 = o.result % 2 ^ 192) ∧
    (Accepted cmdOpStatus s m q → s.anyOp h = none → exec (.opStatus m q) s = .next (s.answered m 0x0401 q (Rsp.of stNoHandle))) ∧
    (Accepted cmdOpSuspend s m q → s.anyOp h = none → exec (.opSuspend m q) s = .next (s.answered m 0x0402 q (Rsp.of stNoHandle))) ∧
    (∀ o, s.findOp h = some o → actsOn m o = true →
      (Accepted cmdOpSuspend s m q → o.st = .running → exec (.opSuspend m q) s = .next
        ((s.modOp h (fun x => { x with st := .suspending })).answered m 0x0402 q (shows .suspending))) ∧
      (Accepted cmdOpSuspend s m q → o.st = .waiting → exec (.opSuspend m q) s = .next
        ((s.modOp h (fun x => { x with st := .suspended, resumeWaiting := true })).answered m 0x0402 q (shows .suspended))) ∧
      (Accepted cmdOpSuspend s m q → o.st = .waitInput → exec (.opSuspend m q) s = .next
        ((s.modOp h (fun x => { x with st := .suspended })).answered m 0x0402 q (shows .suspended))) ∧
      (Accepted cmdOpResume s m q → o.st = .suspended → exec (.opResume m q) s = .next
        ((s.modOp h (fun x => { x with st := s.resumed o, resumeWaiting := false })).answered m 0x0403 q (shows (s.resumed o)))) ∧
      (Accepted cmdOpCancel s m q → o.pastCancel = true →
        exec (.opCancel m q) s = .next (s.answered m 0x0404 q (Rsp.of stTooLate))) ∧
      (Accepted cmdOpCancel s m q → o.pastCancel = false → o.st = .running → exec (.opCancel m q) s = .next
        ((s.modOp h (fun x => { x with cancelling := true })).answered m 0x0404 q (shows .running))) ∧
      (Accepted cmdOpCancel s m q → o.pastCancel = false → o.st = .suspended → ∃ t, exec (.opCancel m q) s = .next t ∧
        (t.mbx m).rsp = (shows .cancelled).word 0x0404 q.seq.toNat ∧ (∀ x ∈ t.ops, x.handle ≠ h) ∧
        t.retained.getLast? = some { o with st := .cancelled, status := stCancelled, detail := 0 }))) ∧
  (
  ∀ (s : State) (h : BitVec 16) (done : Word64), Awake s → ∀ o, s.findOp h.toNat = some o →
    let d := done.toNat
    let inRange := o.done ≤ d ∧ d ≤ o.done + 2 ^ 20 ∧ (o.total = 0 ∨ d ≤ o.total)
    let moved := s.modOp o.handle (fun x => { x with done := d })
    (inRange → o.st = .running → o.cancelling = false → exec (.opSuspendPoint h done) s = .next moved) ∧
    (inRange → o.st = .suspending → o.cancelling = false →
      exec (.opSuspendPoint h done) s = .next (moved.modOp o.handle (fun x => { x with st := .suspended }))) ∧
    (inRange → o.st = .running ∨ o.st = .suspending → o.cancelling = true → ∃ t, exec (.opSuspendPoint h done) s = .next t ∧
      (∀ x ∈ t.ops, x.handle ≠ o.handle) ∧
      t.retained.getLast? = some { o with done := d, st := .cancelled, status := stCancelled, detail := 0 }) ∧
    (o.st = .waiting → s.longopOpen o = true →
      exec (.longopWindowEnter h) s = .next (s.modOp o.handle (fun x => { x with st := .running }))) ∧
    (o.st = .running → s.longopOpen o = false →
      exec (.longopWindowEnd h) s = .next (s.modOp o.handle (fun x => { x with st := .waiting }))))

/-- RESTORE_PIECE adds the bytes at its pointer to an operation that waits for them, and the piece that ends at IMAGE_LEN sets it running;
an offset that is not the next byte, or a piece that runs past IMAGE_LEN, is BAD_FIELD (R284, Table 12-16). The end of RESTORE and ADOPT: an
image that fails a check changes nothing but ends the operation FAILED with the status of the check; one that passes is loaded, a RESTORE
writes its stripes and posts RESTORED, an ADOPT finds them in the near region, and the operation is DONE with its result; the run then
stands at the image's step with its key, or that of the seed for a format 2 image, its update count, loss exponent and cursor. A near RESTORE
whose copy has not come whole goes on. The end of DECANT_FULL writes the Decants of its shards and publishes VERSION v where the readiness
word shows 0 (R283 to R286). -/
def Obligations.RestoresAndCopies : Prop :=
  (
  ∀ (s : State) (m : Fin 4) (q : Req), Accepted cmdRestorePiece s m q →
    ∀ o, s.anyOp (par q.par 8 2) = some o → o.code = cRestore → o.st = .waitInput →
      let bs := o.input ++ s.dramBytes (par q.par 24 8) (par q.par 32 4)
      let len := inputLen bs
      (par q.par 16 8 = o.input.length → (len = 0 ∨ bs.length < len) → exec (.restorePiece m q) s = .next
        ((s.modOp o.handle (fun x => { x with input := bs, total := len, st := x.st })).answered m 0x0303 q Rsp.ok)) ∧
      (par q.par 16 8 = o.input.length → len ≠ 0 → bs.length = len → exec (.restorePiece m q) s = .next
        ((s.modOp o.handle (fun x => { x with input := bs, total := len, st := .running })).answered m 0x0303 q Rsp.ok)) ∧
      (par q.par 16 8 = o.input.length → len ≠ 0 → len < bs.length →
        exec (.restorePiece m q) s = .next (s.answered m 0x0303 q (Rsp.badField 32))) ∧
      (par q.par 16 8 ≠ o.input.length → exec (.restorePiece m q) s = .next (s.answered m 0x0303 q (Rsp.badField 16)))) ∧
  (
  ∀ (s : State) (h : BitVec 16) (o : LongOp), Awake s → s.findOp h.toNat = some o → o.st = .running → o.cancelling = false →
    s.formula.isSome = true →
    let ended := { o with done := o.total }
    let stands := fun (u : State) (hd seed : Nat) => u.run.lastStep = hStep hd ∧ u.run.nextStep = hStep hd + 1 ∧
      u.run.key = (if hFormat hd = 2 then Sillage.keyOfSeed seed else hKey hd) ∧ u.run.setUp = true ∧ u.run.updates = hUpdates hd ∧
      u.run.lossExp = signed 8 (hLoss hd) ∧ u.run.steps = [] ∧ u.cursors = [(hStep hd, hCursor hd)]
    (o.code = cRestore →
      let far := o.p 12 1 = 1
      let m := if far then o.input else nearInput o.near
      let hd := leVal (m.take 256)
      let data := fun (e : Nat) => if far then s.farStripes o.input e else s.nearStripes o.near ((dirEntries m hd).map dShard) e
      let bad := s.acceptImage m (o.p 8 4) s.ea (if far then 0 else 1) (o.p 16 16) data
      let loaded := (s.blotStep).loadImage m (o.p 16 16) true data
      let result := hStep hd % 2 ^ 64 + hUpdates hd % 2 ^ 64 * 2 ^ 64
      (far ∨ o.committedPoint = true → bad ≠ 0 → exec (.restoreDone h) s = .next (s.endOp ended .failed bad 0 o.result)) ∧
      (far ∨ o.committedPoint = true → bad = 0 → exec (.restoreDone h) s = .next
          (s.hold (((loaded.post 0x0304 2 7 (hGen hd) (hStep hd) 0).endOp ended .done stOk 0 result).retryHeld)) ∧
        stands loaded hd (o.p 16 16)) ∧
      (¬ far → o.committedPoint = false → exec (.restoreDone h) s = .next s)) ∧
    (o.code = cAdopt →
      let m := s.nearMetadata
      let hd := leVal (m.take 256)
      let bad := s.acceptImage m (o.p 12 4) (o.p 8 4) 1 0 s.planeStripes
      let loaded := s.loadImage m 0 false s.planeStripes
      (bad ≠ 0 → exec (.adoptDone h) s = .next (s.endOp ended .failed bad 0 o.result)) ∧
      (bad = 0 → exec (.adoptDone h) s = .next (s.hold ((loaded.endOp ended .done stOk 0 (dirEntries m hd).length).retryHeld)) ∧
        stands loaded hd 0 ∧ loaded.dram = s.dram)) ∧
    (o.code = cDecantFull → s.opReady o = true → s.run.eval ≠ .decanting →
      let t := s.hold ((s.decantAll ended).endOp ended .done stOk 0 (s.decantResult ended))
      exec (.decantFullDone h) s = .next t ∧
        ∀ w ∈ s.decantWork ended, w.1 < s.shards.length → (s.shard w.1).ready.version = 0 →
          (t.shard w.1).ready.version = (s.shard w.1).imageVersion))

/-- The ends of the operations that leave no check open: INIT_REGION fills its range with the pattern and changes no other byte,
BLOTTER_DUMP copies the records that the ring still holds and is OVERRUN when the first asked for is gone, SELF_TEST fences the units of its
request that failed, SCRUB_PASS completes the patrol pass of its channels, FLACON_WRITE ends when every page is published. Each ends DONE,
is retained with its final state and result and posts OP_DONE (R345, Table 12-16). -/
def Obligations.LongOperationsEnd : Prop :=
  ∀ (s : State) (h : BitVec 16), Awake s → ∀ o, s.findOp h.toNat = some o → o.st = .running → o.cancelling = false → s.opReady o = true →
    let ended := fun (t : State) (code status result : Nat) =>
      (∀ x ∈ t.ops, x.handle ≠ o.handle) ∧ ∃ d, t.retained.getLast? =
        some { o with done := d, st := .done, status := status, detail := 0, result := result } ∧ o.code = code
    let posted := fun (t : State) (status : Nat) => t.smp = (s.post 0x0401 4 7 o.handle status o.code).smp
    let whole := { o with done := o.total }
    (o.code = cInitRegion → Memory.wf s.dram → ∃ t, exec (.initRegionDone h) s = .next t ∧ ended t cInitRegion stOk o.result ∧ posted t stOk ∧
      (∀ i, i < o.p 16 8 → t.dramByte (o.p 8 8 + i) = BitVec.ofNat 8 (o.p 24 8 / 256 ^ (i % 8))) ∧
      (∀ a, a < o.p 8 8 ∨ o.p 8 8 + o.p 16 8 ≤ a → t.dramByte a = s.dramByte a) ∧
      (s.formula.isSome = true → t.chans = s.chans) ∧
      { t with dram := s.dram, poisonWords := s.poisonWords, ops := s.ops, retained := s.retained, smp := s.smp, chans := s.chans,
               out := s.out } = s) ∧
    (o.code = cFlaconWrite → (∀ p ∈ s.outPages, ¬ (p.kind = 1 ∧ p.gen = o.result)) → ∃ t, exec (.flaconWriteDone h) s = .next t ∧
      ended t cFlaconWrite stOk o.result ∧ posted t stOk ∧ { t with ops := s.ops, retained := s.retained, smp := s.smp } = s) ∧
    (o.code = cFlaconWrite → (∃ p ∈ s.outPages, p.kind = 1 ∧ p.gen = o.result) → exec (.flaconWriteDone h) s = .next s) ∧
    (o.code = cBlotterDump →
      let rs := (s.ringRecords (o.p 8 8)).take (o.p 24 4 / 64)
      let first := rs.headD (o.p 8 8)
      let status := if o.p 8 8 < first then stOverrun else stOk
      ∃ t, exec (.blotterDumpDone h) s = .next t ∧ ended t cBlotterDump status (first % 2 ^ 64 + rs.length % 2 ^ 64 * 2 ^ 64) ∧
      posted t status ∧ t.dram = (s.copyRecords (o.p 16 8) (o.p 8 8) (o.p 24 4 / 64)).dram ∧ (s.formula.isSome = true → t.chans = s.chans) ∧
      { t with dram := s.dram, ops := s.ops, retained := s.retained, smp := s.smp, chans := s.chans, out := s.out } = s) ∧
    (∀ failing : BitVec 11, o.code = cSelfTest →
      let bad := Nat.land failing.toNat (o.p 8 4)
      let u := eachIn ((List.range 11).filter (bit bad)) State.fenceTested s
      exec (.selfTestDone h failing) s = .next (s.hold (u.endOp whole .done stOk 0 bad)) ∧
        ended (s.hold (u.endOp whole .done stOk 0 bad)) cSelfTest stOk bad ∧ (bad = 0 → u = s)) ∧
    (∀ corrected uncorrectable : Word32, o.code = cScrubPass → ∃ t, exec (.scrubPassDone h corrected uncorrectable) s = .next t ∧
      ended t cScrubPass stOk (corrected.toNat + uncorrectable.toNat * 2 ^ 32) ∧ posted t stOk ∧ t.dram = s.dram ∧ t.shards = s.shards ∧
      (∀ ch, ch < channels s.cfg → bit (o.p 8 4) ch = true → (t.chan ch).scrubStart = 0 ∧ (t.chan ch).scrubPosts = 0))

/-! ### Containment and firmware commands -/

/-- FENCE_CLEAR: OK without effect on a unit that is not fenced, WRONG_STATE where Table 14-4 does not let the fence be cleared, else the
fence of the unit is cleared as that table says (R384): a Still becomes the spare, an Atomizer's channel stays blocked until an admission
(R221), a link retrains while PD-PEER is present (R310, R324), the key island takes K again, and the domain of a Still, the links or the key
island is powered where the level needs it (R323). Which fences FENCE_CLEAR may clear, by unit (Table 14-4): a Still unless a fuse
took it out, a channel and an intake page only with no Formula admitted, an Atomizer while no admitted program works on its channel,
links, windows, cores and the key island always, and the entropy source, fuse words, shards, code slots and partners never. -/
def Obligations.FenceClear : Prop :=
  (
  ∀ (s : State) (m : Fin 4) (q : Req), Accepted cmdFenceClear s m q →
    let unit := par q.par 8 2
    let idx := par q.par 10 2
    let cleared := fun (t : State) => exec (.fenceClear m q) s = .next (t.answered m 0x0505 q Rsp.ok)
    let power := fun (t : State) (i : Nat) => if t.domainNeeded i = true ∧ t.domainFenced i = false then t.requestDom i else t
    (s.unitFenced unit idx = false → cleared s) ∧
    (s.unitFenced unit idx = true → s.clearable unit idx = false →
      exec (.fenceClear m q) s = .next (s.answered m 0x0505 q (Rsp.of stWrongState))) ∧
    (s.unitFenced unit idx = true → s.clearable unit idx = true →
      (unit = 1 → cleared (power { s with stills := { s.stills with fenced := s.stills.fenced.erase idx, spare := idx } } (4 + idx))) ∧
      (unit = 2 → cleared (s.modChan idx (fun c => { c with fenced := false }))) ∧
      (unit = 3 → cleared (s.modAtm (idx / 64) (fun a => { a with fenced := a.fenced.erase (idx / 32 % 2, idx % 32) }))) ∧
      (unit = 4 → cleared (power (s.modLink idx (fun l => { l.clear .down with retrain := s.present 2 })) 2).topoIfChanged) ∧
      (unit = 5 → cleared (s.modWin idx (fun x => { x with clearing := true }))) ∧
      (unit = 6 → cleared { s with fw := { s.fw with coreFenced := setV s.fw.coreFenced idx false, standbyBoot := s.fw.running } }) ∧
      (unit = 7 → cleared (power { s with keyFenced := false, keyPresent := s.present 3 && s.run.setUp } 3)) ∧
      (unit = 11 → cleared { s with pagesFenced := s.pagesFenced.erase idx }))) ∧
  (
  ∀ (s : State) (idx : Nat),
    (s.clearable 1 idx = true ↔ s.fuses.stillOff.testBit idx = false) ∧
    (s.clearable 2 idx = true ↔ s.formula = none ∧ (s.chan idx).fencedByFuse = false) ∧
    (s.clearable 3 idx = true ↔ s.formula = none ∨ ∀ p ∈ s.form.programs, p.chmask.testBit (idx / 64) = false) ∧
    (s.clearable 11 idx = true ↔ s.formula = none) ∧
    (∀ u ∈ [4, 5, 6, 7], s.clearable u idx = true) ∧
    (∀ u ∈ [8, 9, 10, 12, 13], s.clearable u idx = false))

/-- With the staging region reached (R398), ERRLOG_READ writes COUNT records of the log from position FIRST on and none beyond the last one
held; COUNTER_READ writes the header and the entries that fit; COUNTER_CLEAR zeroes the counters of its set, in BACKGROUND all but the debts
(R388 to R392, Tables 14-5, 14-6). ATTEST writes the 296-byte report over the challenge, signed with the key of the device secret, and is
WRONG_STATE without a usable secret (R376, Table 13-15). -/
def Obligations.LogsCountersAttest : Prop :=
  (
  ∀ (s : State) (m : Fin 4) (q : Req),
    let rs := ((s.log.first ++ s.log.latest).drop (par q.par 8 2)).take (par q.par 10 2)
    let bs := s.counterBytes (par q.par 8 2) (par q.par 24 4)
    let set := par q.par 8 2
    (Accepted cmdErrlogRead s m q → exec (.errlogRead m q) s = .next
      ((s.writeDram (par q.par 16 8) (rs.flatMap (fun r => leBytes 64 r.toNat))).answered m 0x0506 q { Rsp.ok with
        body := res 8 1 s.log.first.length + res 9 1 s.log.latest.length + res 12 4 s.log.dropped + res 16 2 rs.length })) ∧
    (Accepted cmdCounterRead s m q → exec (.counterRead m q) s = .next
      ((s.writeDram (par q.par 16 8) bs).answered m 0x0507 q { Rsp.ok with body := res 8 4 bs.length })) ∧
    (bs.length ≤ par q.par 24 4) ∧
    (Accepted cmdCounterClear s m q → ∃ t : State, exec (.counterClear m q) s = .next (t.answered m 0x0508 q Rsp.ok) ∧
      { t with counters := s.counters } = s ∧
      (∀ i n, set ≠ 8 → findCounter t.counters set i n = (0, false)) ∧
      (∀ k i n, k ≠ set → findCounter t.counters k i n = findCounter s.counters k i n) ∧
      (∀ i n, set = 8 → n < 3 → findCounter t.counters 8 i n = findCounter s.counters 8 i n) ∧
      (∀ i n, set = 8 → 3 ≤ n → findCounter t.counters 8 i n = (0, false)))) ∧
  (
  ∀ (s : State) (m : Fin 4) (q : Req), Accepted cmdAttest s m q →
    (∀ x, s.fuses.secret = some x → exec (.attest m q) s = .next
      ((s.writeDram (par q.par 40 8) (s.attestReport (parBytes q.par 8 32) (attestKey x))).answered m 0x0509 q
        { Rsp.ok with body := res 8 4 296 })) ∧
    (s.fuses.secret = none → exec (.attest m q) s = .next (s.answered m 0x0509 q (Rsp.of stWrongState))))

/-- FW_ACTIVATE of a LOADED slot lets the standby core begin to boot it; without one it is refused. FW_COMMIT of an ACTIVE slot waits
while the bits of its manifest are burned, and of a slot in PROBATION it is refused (R370, R373). -/
def Obligations.FirmwareActivateAndCommit : Prop :=
  ∀ (s : State) (m : Fin 4) (q : Req),
    (Accepted cmdFwActivate s m q → ∀ i, s.loadedSlot = some i → (s.codeSlot 0).st ≠ .probation → (s.codeSlot 1).st ≠ .probation →
      mHandoverFmt (s.codeSlot i).manifest = 2 → s.handingOver = false → s.fw.coreOut (1 - s.fw.core.toNat) = false →
      exec (.fwActivate m q) s = .next (({ s with fw := { s.fw with
        handover := .booting (slotIx i), standbyBoot := some (slotIx i), standby := none } } : State).answered m 0x0602 q Rsp.ok)) ∧
    (Accepted cmdFwActivate s m q → s.loadedSlot = none →
      exec (.fwActivate m q) s = .next (s.answered m 0x0602 q (Rsp.of fwNoImage))) ∧
    (Accepted cmdFwCommit s m q → ∀ i, s.fw.running = some i → (s.codeSlot i.toNat).st = .active →
      let bits := commitBits s.fuses (s.codeSlot i.toNat).manifest
      let c : Commit := { bits := bits, mbx := m, since := s.time }
      bits ≠ [] → exec (.fwCommit m q) s = .next (({ s with fw := { s.fw with commit := some c } } : State).entered m cFwCommit q)) ∧
    (Accepted cmdFwCommit s m q → ∀ i, s.fw.running = some i → (s.codeSlot i.toNat).st = .probation →
      exec (.fwCommit m q) s = .next (s.answered m cFwCommit q (Rsp.of fwProbation)))

/-! ### The host port: bypass, aperture, owned channels -/

/-- In MEM mode a row command outside the aperture reaches the core side, whatever PORST_N, the level and the domains are; nothing but the
outputs and the book of the rows that the host opened changes (R299). In MEM mode an MRS reaches the core side with its pseudo-channel and
the Channel Sequencer records its value, unless PORST_N holds it in reset (R299, R300). In MEM mode a column read of a row that the host opened returns the 32 bytes of the core die with its severity, uncorrectable
where a word of them carries the poison code (R222), and a column write stores the bytes that its mask selects and no other byte of the
stack; both reach the core side (R299). -/
def Obligations.Bypass : Prop :=
  (
  ∀ (s : State) (ch : Fin 32) (pc : Fin 2) (bank : Fin 32) (row : BitVec 16), Ported s ch → (s.chan ch).mode = .mem →
    let passed := fun (kind a b c : Nat) => ({ s with out := { ch := ch, ccp := some (kind, pc.toNat, a, b, c) } } : State)
    (s.claims ch pc bank row.toNat = false → exec (.hostAct ch pc bank row) s = .next ((passed 1 bank.toNat row.toNat 0).modChan ch
      (fun c => { c with rows := dropBank c.rows pc bank ++ [(pc.toNat, bank.toNat, row.toNat)] }))) ∧
    ((s.chan ch).marked pc bank = false → exec (.hostPre ch pc bank) s = .next ((passed 2 bank.toNat 0 0).modChan ch
      (fun c => { c with rows := dropBank c.rows pc bank }))) ∧
    (exec (.hostPrea ch pc) s = .next ((passed 3 0 0 0).modChan ch
      (fun c => { c with rows := dropPc c.rows pc, marks := dropPc c.marks pc, stale := dropPc c.stale pc }))) ∧
    (exec (.hostRefresh ch pc bank false) s = .next (passed 4 bank.toNat 0 0)) ∧
    (exec (.hostRefresh ch pc bank true) s = .next (passed 5 0 0 0)) ∧
    (∀ kind : BitVec 4, 7 ≤ kind.toNat → exec (.hostOtherRowCmd ch kind pc) s = .next (passed kind.toNat 0 0 0))) ∧
  (
  ∀ (s : State) (ch : Fin 32) (arg : Mrs), Ported s ch → (s.chan ch).mode = .mem →
    let n := arg.arg.toNat
    let passed : State := { s with out := { ch := ch, ccp := some (6, arg.pc.toNat, 0, 0, n) } }
    let kept := passed.modChan ch (fun c => { c with mrs := c.mrs.filter (fun x => decide (x.1 ≠ n / 256)) ++ [(n / 256, n % 256)] })
    (s.porst = false → exec (.hostMrs ch arg) s = .next kept) ∧
    (s.porst = true → exec (.hostMrs ch arg) s = .next passed)) ∧
  (
  ∀ (s : State) (ch : Fin 32) (pc : Fin 2) (bank col : Fin 32) (row : Nat), Ported s ch → (s.chan ch).mode = .mem →
    (s.chan ch).marked pc bank = false → bankRow (s.chan ch).rows pc bank = some row →
    let a := columnAddr s.cfg ch pc bank row col
    (∀ sev : BitVec 2, exec (.hostRead ch pc bank col sev) s = .next { s with out :=
      { ch := ch, ccp := some (17, pc.toNat, bank.toNat, col.toNat, 0), rdata := BitVec.ofNat 256 (leVal (s.dramBytes a 32)), rvalid := true,
        rsev := if s.poisonWords.any (fun w => decide (w < a + 32) && decide (a < w + s.eccBytes)) then 2 else sev.toNat } }) ∧
    (∀ (data : BitVec 256) (mask : Word32) (pois : Bool), Memory.wf s.dram → ∃ t, exec (.hostWrite ch pc bank col data mask pois) s = .next t ∧
      t.out = { ch := ch, ccp := some (18, pc.toNat, bank.toNat, col.toNat, 0), wd := some (data, mask, pois) } ∧ Memory.wf t.dram ∧
      (∀ x, x < a ∨ a + 32 ≤ x → t.dramByte x = s.dramByte x) ∧
      (∀ i, i < 32 → mask.toNat.testBit i = false → t.dramByte (a + i) = s.dramByte (a + i)) ∧
      (∀ i, i < 32 → mask.toNat.testBit i = true → pois = false → t.dramByte (a + i) = BitVec.ofNat 8 (field data.toNat (8 * i) 8)) ∧
      (∀ w ∈ t.poisonWords, w ∈ s.poisonWords) ∧
      { t with dram := s.dram, poisonWords := s.poisonWords, out := s.out, free := s.free } = s))

/-- The engine claims an ACT whose row lies in the aperture of the admitted Formula at S2 or above: it is not passed and marks the bank; a
read of a marked bank returns aperture data with severity 0, a PRE of it clears the mark, and neither reaches the core side, in every
channel mode (R21, R301, R303). -/
def Obligations.ApertureClaims : Prop :=
  ∀ (s : State) (ch : Fin 32) (pc : Fin 2) (bank : Fin 32), Ported s ch →
    (∀ row : BitVec 16, 2 ≤ s.level → s.formula.isSome = true → s.latencyKnown ch 0 = true → s.latencyKnown ch 1 = true →
      s.form.hdr.aptBase ≤ columnAddr s.cfg ch pc bank row.toNat 0 →
      columnAddr s.cfg ch pc bank row.toNat 0 < s.form.hdr.aptBase + s.form.hdr.aptSize →
      exec (.hostAct ch pc bank row) s = .next (({ s with out := { ch := ch } } : State).modChan ch (fun c => { c with
        marks := dropBank c.marks pc bank ++ [(pc.toNat, bank.toNat, row.toNat)], stale := dropBank c.stale pc bank }))) ∧
    (∀ (row : Nat) (col : Fin 32) (sev : BitVec 2), bankRow (s.chan ch).marks pc bank = some row → ∃ t,
      exec (.hostRead ch pc bank col sev) s = .next t ∧ t.out.ccp = none ∧ t.out.rvalid = true ∧ t.out.rsev = 0 ∧
      (∀ v, s.apertureRead (columnAddr s.cfg ch pc bank row col - s.form.hdr.aptBase) = some v → t.out.rdata = BitVec.ofNat 256 v) ∧
      { t with out := s.out, free := s.free } = s) ∧
    ((s.chan ch).marked pc bank = true → exec (.hostPre ch pc bank) s = .next (({ s with out := { ch := ch } } : State).modChan ch (fun c => { c with
      marks := dropBank c.marks pc bank, stale := dropBank c.stale pc bank })))

/-- A claimed write beat outside every enabled window, or to the status area or an EGRESS window that is not fenced, is dropped and counted
as APERTURE_WRITE with its error record, and one to a fenced EGRESS window as CREDIT_VIOLATION; it reaches neither the core side nor memory
(R123, R303). A claimed write beat in a window that lies under no other is recorded in its landing page when it is written whole and the
page takes it: the window's data, and no byte of the stack. A poisoned beat is recorded as zeros (R127, R130, R303). -/
def Obligations.ApertureWrites : Prop :=
  (
  ∀ (s : State) (ch : Fin 32) (pc : Fin 2) (bank col : Fin 32) (row : Nat) (data : BitVec 256) (mask : Word32) (pois : Bool), Ported s ch →
    bankRow (s.chan ch).marks pc bank = some row →
    let off := columnAddr s.cfg ch pc bank row col - s.form.hdr.aptBase
    let dropped := ((({ s with out := { ch := ch } } : State).count 6 0 5 1).error { code := 0x010A, cls := .c, unit := 0x000F, arg0 := off })
    (off < 2 ^ 20 ∨ windowsAt s.form off = [] ∨ (∃ e w, windowsAt s.form off = [(e, w)] ∧ e.kind = 2 ∧ (s.win w).fenced = false) →
      exec (.hostWrite ch pc bank col data mask pois) s = .next dropped) ∧
    (∀ e w, 2 ^ 20 ≤ off → windowsAt s.form off = [(e, w)] → e.kind = 2 → (s.win w).fenced = true →
      exec (.hostWrite ch pc bank col data mask pois) s = .next (s.hold (({ s with out := { ch := ch } } : State).creditViolation w off)))) ∧
  (
  ∀ (s : State) (ch : Fin 32) (pc : Fin 2) (bank col : Fin 32) (row : Nat) (data : BitVec 256) (mask : Word32) (pois : Bool) (e : WinEntry)
    (w : Nat), Ported s ch → bankRow (s.chan ch).marks pc bank = some row →
    let off := columnAddr s.cfg ch pc bank row col - s.form.hdr.aptBase
    let beat := if pois then 0 else data
    let fuel := 2 * e.issued + 2
    let landed := ({ s with out := { ch := ch } } : State).landWrite w e off (off - e.base) beat (decide (mask = BitVec.allOnes 32))
    2 ^ 20 ≤ off → windowsAt s.form off = [(e, w)] → e.kind = 0 →
      exec (.hostWrite ch pc bank col data mask pois) s = .next (s.hold (landed.gradProgress e w fuel)) ∧ landed.dram = s.dram ∧
      (mask = BitVec.allOnes 32 → (s.win w).fenced = false → w < s.wins.length →
        let n := (s.win w).runningPage e.issued ((off - e.base) / 65536)
        (s.win w).takes n = true → ((landed.win w).page n).bind (fun p => p.find ((off - e.base) % 65536 / 32)) = some beat))

/-- A host command outside the aperture to a channel whose CH_OWN is 1 does not reach the core side: a read returns all ones,
uncorrectable, a write and a row command are dropped, a refresh is absorbed, each counted on the channel and recorded as a class C error;
a PREA clears the aperture marks of its pseudo-channel and is not counted (R20, R304). When an admission ends, the aperture marks that
stand stay as marks whose claim has ended, on every channel: no column command to their banks reaches the core side until the next PRE or
PREA, reads return all ones and are counted (R302). -/
def Obligations.OwnedChannelsAndEndedClaims : Prop :=
  (
  ∀ (s : State) (ch : Fin 32) (pc : Fin 2) (bank : Fin 32), Ported s ch → (s.chan ch).mode ≠ .mem →
    let quiet : State := { s with out := { ch := ch } }
    let booked := fun (num arg : Nat) => (quiet.count 3 ch num 1).error { code := 0x0201, cls := .c, unit := 0x0002, index := ch, arg0 := arg }
    ((s.chan ch).marked pc bank = false →
      (∀ (col : Fin 32) (sev : BitVec 2), exec (.hostRead ch pc bank col sev) s = .next { booked 1 0 with
        out := { ch := ch, rdata := BitVec.allOnes 256, rvalid := true, rsev := 2 } }) ∧
      (∀ (col : Fin 32) (data : BitVec 256) (mask : Word32) (pois : Bool),
        exec (.hostWrite ch pc bank col data mask pois) s = .next (booked 2 1)) ∧
      exec (.hostPre ch pc bank) s = .next (booked 4 3)) ∧
    (∀ row : BitVec 16, s.claims ch pc bank row.toNat = false → exec (.hostAct ch pc bank row) s = .next (booked 4 3)) ∧
    (∀ all : Bool, exec (.hostRefresh ch pc bank all) s = .next (booked 3 2)) ∧
    (∀ arg : Mrs, exec (.hostMrs ch arg) s = .next (booked 4 3)) ∧
    (∀ kind : BitVec 4, 7 ≤ kind.toNat → exec (.hostOtherRowCmd ch kind pc) s = .next (booked 4 3)) ∧
    exec (.hostPrea ch pc) s = .next (quiet.modChan ch (fun c => { c with marks := dropPc c.marks pc, stale := dropPc c.stale pc }))) ∧
  (
  ∀ (s : State) (ch : Fin 32) (pc : Fin 2) (bank : Fin 32), Ported s ch →
    ((s.chan ch).marked pc bank = (s.endAdmission.chan ch).marked pc bank ∧ (s.endAdmission.chan ch).marks = []) ∧
    (bankRow (s.chan ch).marks pc bank = none → (s.chan ch).marked pc bank = true → ∀ (col : Fin 32) (sev : BitVec 2),
      exec (.hostRead ch pc bank col sev) s = .next { (({ s with out := { ch := ch } } : State).count 3 ch 1 1).error
        { code := 0x0201, cls := .c, unit := 0x0002, index := ch, arg0 := 0 } with
        out := { ch := ch, rdata := BitVec.allOnes 256, rvalid := true, rsev := 2 } }))

/-- The address map: a column access of a channel stands at the stack address that R159 gives, and no two bytes of column accesses share
an address. -/
def Obligations.AddressMap : Prop :=
  ∀ (c : Cfg) (ch pc bank row col b : Nat), ch < channels c → pc < 2 → bank < 32 → col < 32 → b < 32 →
    let a := columnAddr c ch pc bank row col + b
    a = b + 32 * pc + 64 * (ch % 4) + 256 * (ch / 4) + (col + 32 * bank + 1024 * row) * 2 ^ (8 + gBits c) ∧
    groupOf c a = ch / 4 ∧ stackAddr c (groupOf c a) (cgAddr c a) = a ∧ chanOf (groupOf c a) (cgAddr c a) = ch

/-! ### SMP registers -/

/-- Writes of SMP registers: at an address that holds no register SM_ERR is set and nothing else changes; read-only registers ignore a
write; a reserved bit that is written nonzero sets SM_ERR and is ignored (R10, R11, R306). A write of a REQ register sets that word of the
request and no other. -/
def Obligations.RegisterWrites : Prop :=
  ∀ (s : State) (addr : BitVec 16) (w : Word32), Awake s →
    (smpReg addr.toNat = none → exec (.registerWrite addr w) s = .next (s.answer 0 true)) ∧
    (∀ r, smpReg addr.toNat = some r → r ∈ [SmpReg.ident, .fru, .timeLo, .timeHi, .temp, .evqCount] →
      exec (.registerWrite addr w) s = .next (s.answer 0 (reservedBits r w.toNat))) ∧
    (∀ (m : Fin 4) (i : Fin 16), addr.toNat = 0x1000 + 0x100 * m.toNat + 4 * i.toNat → ∃ t, exec (.registerWrite addr w) s = .next t ∧
      field (t.mbx m).req.toNat (32 * i.toNat) 32 = w.toNat ∧
      (∀ j : Fin 16, j ≠ i → field (t.mbx m).req.toNat (32 * j.toNat) 32 = field (s.mbx m).req.toNat (32 * j.toNat) 32) ∧
      t.smp.rdata = 0 ∧ t.smp.err = false ∧ { t.mbx m with req := (s.mbx m).req } = s.mbx m ∧ (∀ k : Fin 4, k ≠ m → t.mbx k = s.mbx k) ∧
      { t with smp := s.smp } = s) ∧
    (∀ m : Fin 4, addr.toNat = 0x1084 + 0x100 * m.toNat → exec (.registerWrite addr w) s = .next
      ((s.modMbx m (fun b => { b with rspValid := b.rspValid && !w.toNat.testBit 1 })).answer 0 (reservedBits (.mbxStat m) w.toNat))) ∧
    (addr.toNat = 0x04 → exec (.registerWrite addr w) s = .next
      ((s.modSmp (fun x => { x with fellX := x.fellX && !w.toNat.testBit 12 })).answer 0 (reservedBits .status w.toNat)))

/-- A read of SM_TIME_LO returns the low word of the timebase and latches the high word for SM_TIME_HI (R330); a read where no register
stands, or in a domain that is unpowered, answers SM_ERR 1 with 0 (R306). A write of 1 to SM_EVQ_POP
removes the head event, and when events were discarded EVQ_OVERFLOW with their number takes the room; a write of 0 removes nothing. A post
to a queue of 256 discards the event and counts it (R343). SM_IRQ is 1 exactly while an event of an unmasked category is queued, and
SM_IRQ_MASK takes the seven mask bits (R307). -/
def Obligations.TimeEventsInterrupts : Prop :=
  (
  ∀ s : State, Awake s → exec .smTimeLoRead s = .next
    ((s.modSmp (fun m => { m with timeHi := BitVec.ofNat 32 (s.time / 2 ^ 32) })).answer (s.time % 2 ^ 32) false)) ∧
  (
  ∀ (s : State) (addr : Nat), (smpReg addr = none ∨ (smpReg addr = some .egrAck ∧ s.present 1 = false) → s.readReg addr = s.answer 0 true) ∧
    (∀ r, smpReg addr = some r → r ≠ .egrAck → s.readReg addr = s.answer (regValue s r) false)) ∧
  (
  (∀ (s : State) (w : Word32), Awake s →
    (w.toNat.testBit 0 = true → s.smp.dropped = 0 → exec (.smEvqPop w) s = .next
      ((s.modSmp (fun m => { m with events := m.events.drop 1 })).answer 0 (reservedBits .evqPop w.toNat))) ∧
    (w.toNat.testBit 0 = true → s.smp.dropped ≠ 0 → s.smp.events.length ≤ 256 → s.smp.events ≠ [] → exec (.smEvqPop w) s = .next
      ((s.modSmp (fun m => { m with
        events := m.events.drop 1 ++ [mkEvent 0x0003 6 7 s.smp.dropped 0 0 s.time], dropped := 0 })).answer 0
          (reservedBits .evqPop w.toNat))) ∧
    (w.toNat.testBit 0 = false → exec (.smEvqPop w) s = .next (s.answer 0 (reservedBits .evqPop w.toNat)))) ∧
  (∀ (m : Smp) (e : Event),
    (m.events.length < 256 → m.post e = { m with events := m.events ++ [e] }) ∧
    (256 ≤ m.events.length → m.post e = { m with dropped := min (m.dropped + 1) 65535 }))) ∧
  (
  ∀ (s : State) (w : Word32), Awake s →
    exec (.smIrqMaskWrite w) s =
      .next ((s.modSmp (fun m => { m with irqMask := BitVec.ofNat 7 w.toNat })).answer 0 (reservedBits .irqMask w.toNat)) ∧
    (smIrq s = true ↔ ∃ e ∈ s.smp.events, s.smp.irqMask.toNat.testBit (eventCat e) = true))

/-- SM_STAGE_BASE and SM_STAGE_MIB are taken while no Formula is admitted, and ignored with SM_ERR while one is; a pointer of a request is
valid when it is a multiple of 64 and its range lies in the staging region and in the stack (R332). SM_EGR_ACK of an open EGRESS window
advances its consumed count to the acknowledged page, modulo 2^24, when that lies between what is consumed and what is published, and frees
the packets that waited in full egress buffers; any
other acknowledge, or one while PD-INTAKE is unpowered, sets SM_ERR (R246, R331). -/
def Obligations.StagingAndEgress : Prop :=
  (
  ∀ (s : State) (w : Word32), Awake s →
    (s.formula = none → exec (.smStageWrite false w) s = .next
      ((s.modSmp (fun m => { m with stageBase := BitVec.ofNat 20 w.toNat })).answer 0 (reservedBits .stageBase w.toNat))) ∧
    (s.formula = none → exec (.smStageWrite true w) s = .next
      ((s.modSmp (fun m => { m with stageMib := BitVec.ofNat 21 w.toNat })).answer 0 (reservedBits .stageMib w.toNat))) ∧
    (s.formula.isSome = true → ∀ mib, exec (.smStageWrite mib w) s = .next (s.answer 0 true)) ∧
    (∀ p n, s.pointerOk p n = true ↔ p % 64 = 0 ∧ s.smp.stageBase.toNat * 2 ^ 20 ≤ p ∧
      p + n ≤ s.smp.stageBase.toNat * 2 ^ 20 + s.smp.stageMib.toNat * 2 ^ 20 ∧ p + n ≤ s.capacity)) ∧
  (
  ∀ (s : State) (v : Word32), Awake s →
    let w := field v.toNat 24 8
    let x := s.win w
    let ahead := (field v.toNat 0 24 + 2 ^ 24 - x.consumed % 2 ^ 24) % 2 ^ 24
    let lead := (x.returned % 2 ^ 24 + 2 ^ 24 - x.consumed % 2 ^ 24) % 2 ^ 24
    (s.present 1 = true → s.egressOpen w = true → ahead ≤ lead → s.emission = none → s.fabric.egrHeld = [] → exec (.smEgrAck v) s = .next
      ((s.modWin w (fun x => { x with consumed := x.consumed + ahead })).answer 0 false)) ∧
    (s.present 1 = true → s.egressOpen w = true → ahead ≤ lead → exec (.smEgrAck v) s = .next
      (s.hold (((s.modWin w (fun x => { x with consumed := x.consumed + ahead })).emissionCheck.egressFree).answer 0 false))) ∧
    (s.present 1 = true → (s.egressOpen w = false ∨ lead < ahead) → exec (.smEgrAck v) s = .next ((s.count 6 0 2 1).answer 0 true)) ∧
    (s.present 1 = false → exec (.smEgrAck v) s = .next (s.answer 0 true)))

/-! ### Service levels -/

/-- A write of SM_LEVEL.REQ: a level at or below the present one is requested; a raise from S1 requests the domains of the level that are not
fenced, fails with its code when it cannot succeed, and in ROM mode starts the boot fetch from staging, or fails with NO_FW without staging
(R322, R329, Table 12-4). During a fall the write only sets REQ. -/
def Obligations.LevelRequest : Prop :=
  ∀ (s : State) (w : Word32), Awake s →
    let req := field w.toNat 4 2
    let wrote := fun (f : Smp → Smp) => (s.modSmp f).answer 0 (reservedBits .level w.toNat)
    let asked := wrote (fun m => { m with req := req, pendingLevel := decide (req ≠ m.level) })
    (s.smp.fuseDisabled = false → s.fall = false → req ≤ s.smp.level → exec (.smLevelWrite w) s = .next
      (asked.modFw (fun x => { x with fetching := false, fetch := [], fetchFail := none }))) ∧
    (s.smp.fuseDisabled = true → 0 < req → exec (.smLevelWrite w) s = .next
      ((wrote (fun m => { m with fail := 2, req := m.level, pendingLevel := false })).modFw
        (fun x => { x with fetching := false, fetch := [], fetchFail := none }))) ∧
    (s.smp.fuseDisabled = false → s.fall = false → 1 ≤ s.smp.level → s.smp.level < req → ∀ f, s.raiseFault req = some f →
      exec (.smLevelWrite w) s = .next ((wrote (fun m => { m with fail := f, req := m.level, pendingLevel := false })).modFw
        (fun x => { x with fetching := false, fetch := [], fetchFail := none }))) ∧
    (s.smp.fuseDisabled = false → s.fall = false → 1 ≤ s.smp.level → s.smp.level < req → s.raiseFault req = none → s.fw.romMode = false →
      ∃ t, exec (.smLevelWrite w) s = .next t ∧ t.smp = asked.smp ∧
        (∀ i ∈ s.levelDomains req, s.domainFenced i = false → t.dom i = (s.dom i).request s.time) ∧
        (∀ i, i ∉ s.levelDomains req ∨ s.domainFenced i = true → t.dom i = s.dom i) ∧ { t with smp := s.smp, doms := s.doms } = s) ∧
    (s.smp.fuseDisabled = false → s.fall = true → exec (.smLevelWrite w) s = .next asked) ∧
    (s.smp.fuseDisabled = false → s.fall = false → 1 ≤ s.smp.level → s.smp.level < req → s.raiseFault req = none → s.fw.romMode = true →
      s.smp.stageMib = 0 → exec (.smLevelWrite w) s = .next (s.hold (((asked.bootCheck fwNoImage)).failRaise 3)) ∧
        ((asked.bootCheck fwNoImage).failRaise 3).smp.fail = 3 ∧ ((asked.bootCheck fwNoImage).failRaise 3).smp.req = s.smp.level) ∧
    (s.smp.fuseDisabled = false → s.fall = false → 1 ≤ s.smp.level → s.smp.level < req → s.raiseFault req = none → s.fw.romMode = true →
      s.smp.stageMib ≠ 0 → s.fw.fetching = false →
      exec (.smLevelWrite w) s = .next (asked.modFw (fun x => { x with fetching := true, fetch := [], fetchFail := none })))

/-- A raise completes when everything that Table 1-10 requires is present: LEVEL becomes REQ, PENDING clears, LEVEL_CHANGED is posted and
TOPO sent again; a channel clock that is not within 500 ppm of 1.6 GHz fails it with CLOCK (R31, R261, R318, R329). A lowering takes effect
at the step boundary: from S3 to S2 with no operation live it changes the level, and TOPO, alone; below S2 the admission and the aperture end
and the channels return to MEM; the level falls at once when all of them are there, and otherwise when the last one enters MEM (R22, R30). -/
def Obligations.LevelChanges : Prop :=
  (
  ∀ s : State, Awake s → s.smp.pendingLevel = true → s.smp.level < s.smp.req → s.fall = false → s.wrst = false → 1 ≤ s.smp.level →
    s.fw.romMode = false → s.levelPresent s.smp.req = true → s.raiseFault s.smp.req = none →
    let clocks := ∀ c, c < channels s.cfg → clockOk (s.clocks.getD c 0) = true
    (clocks → exec .levelRaiseDone s = .next
      (((s.modSmp (fun m => { m with level := m.req, pendingLevel := false })).post 0x0105 0 7 s.smp.req s.smp.level 0).topoIfChanged)) ∧
    (¬ clocks → exec .levelRaiseDone s = .next ((s.modSmp (fun m => { m with fail := 1, req := m.level, pendingLevel := false })).modFw
      (fun x => { x with fetching := false, fetch := [], fetchFail := none })))) ∧
  (
  ∀ s : State, Awake s → s.smp.pendingLevel = true → s.smp.req < s.smp.level → s.fall = false → s.fw.levelHold = 0 → s.atBoundary = true →
    (s.smp.req = 2 → s.ops = [] → exec .levelLowerEffect s = .next
      (((s.modSmp (fun m => { m with level := m.req, pendingLevel := false })).post 0x0105 0 7 2 s.smp.level 0).topoIfChanged)) ∧
    (s.smp.req < 2 → ∃ t, exec .levelLowerEffect s = .next t ∧ t.formula = none ∧ t.run.anchored = false ∧
      (∀ ch, ch < channels s.cfg → (t.chan ch).marks = [] ∧ ((t.chan ch).mode = .mem ∨ (t.chan ch).mode = .toMem) ∧
        ((s.chan ch).mode = .mem → (t.chan ch).mode = .mem)) ∧
      (s.allMem = true → t.smp.level = s.smp.req ∧ t.fw.levelHold = 0) ∧
      (s.allMem = false → t.smp.level = s.smp.level ∧ t.fw.levelHold = 1))) ∧
  (
  ∀ (s : State) (ch : Fin 32), OnChannel s ch → s.fw.levelHold = 1 → s.loan.isOpen = false → s.run.stopHold = none → s.fw.stage = [] →
    s.smp.req ≤ s.smp.level → (s.chan ch).mode = .toMem → (s.chan ch).since + 120 ≤ s.time →
    ((∀ j, j < channels s.cfg → j ≠ ch → (s.chan j).mode = .mem) → ∃ t, exec (.transitEnd ch false) s = .next t ∧
      t.smp.level = s.smp.req ∧ t.fw.levelHold = 0) ∧
    ((∃ j, j < channels s.cfg ∧ j ≠ ch.toNat ∧ (s.chan j).mode ≠ .mem) → ∃ t, exec (.transitEnd ch false) s = .next t ∧
      t.smp = s.smp ∧ t.fw = s.fw))

/-- A class X error takes the engine to S0: during the fall no command of S1 or above is served, and when every channel is in MEM, LEVEL
and REQ are 0, FELL_X is 1, and a test instruction that waited takes effect, or after a warm reset the power of every domain but PD-AON
and PD-MC goes down and an MC whose reset has ended restarts (R30, R313, R320, R329, R387). -/
def Obligations.Fall : Prop :=
  ∀ s : State, Awake s →
    (∀ e, s.fall = false → (s.classX e).fall = true ∧ (s.classX e).level = 0 ∧ (s.classX e).formula = none ∧ (s.classX e).ops = [] ∧
      (s.classX e).fw.handover = .none ∧ ∀ ch, ch < channels s.cfg → ((s.classX e).chan ch).mode = .mem ∨ ((s.classX e).chan ch).mode = .toMem) ∧
    (s.fall = true → s.allMem = true → s.smp.level ≠ 0 → s.testPending = 0 → s.wrst = false → s.fw.restart = none → ∃ t, exec .fallComplete s = .next t ∧ t.fall = false ∧
      t.fuses.read = false ∧
      t.smp = ((s.modSmp (fun m => { m with level := 0, req := 0, fellX := true, pendingLevel := false })).post 0x0105 0 7 0 s.smp.level 1).smp ∧
      { t with smp := s.smp, fall := s.fall, fuses := s.fuses, fabric := s.fabric } = s) ∧
    (s.fall = true → s.allMem = true → s.testPending = 0 → s.wrst = true → s.fw.restart = none → ∃ t, exec .fallComplete s = .next t ∧
      t.fall = false ∧ t.wrst = true ∧ t.smp.level = 0 ∧ t.smp.req = 0 ∧ t.smp.fellX = true ∧ t.dom 0 = s.dom 0 ∧
      (∀ i, 1 ≤ i → i < 13 → (s.dom i).req = true → (s.dom i).ack = true → (t.dom i).req = false ∧ (t.dom i).present = false)) ∧
    (∀ r, s.fall = true → s.allMem = true → s.testPending = 0 → s.wrst = true → s.fw.restart = some r → s.present 0 = true → ∃ t,
      exec .fallComplete s = .next t ∧ t.wrst = false ∧ t.fw.restart = none ∧
      (r.core0 = true ∧ s.fw.coreOut 0 = false → t.disc = discover s.cfg r.fuses)) ∧
    (s.fall = true → s.allMem = true → s.testPending = 1 ∨ s.testPending = 3 ∨ s.testPending = 5 → ∃ t, exec .fallComplete s = .next t ∧
      t.testing = true ∧ t.wir = s.testPending ∧ t.testPending = 0 ∧
      (s.testPending ≠ 1 → t.keyPresent = false ∧ t.run = {} ∧ (∀ m < 4, t.mbx m = {}) ∧ t.wins = [] ∧
        ∀ i < 2, t.codeSlot i = {}))

/-! ### Which commands stop, and where -/

/-- Every command completes whatever the state holds: where no test instruction is in effect and the configuration has the unit that the
command names, exec answers a next state; a command on a unit that the configuration does not have stops with noSuchUnit; while a test
instruction is in effect, for which the manual makes no promise, every other command but the wrapper's own is refused (R5, R313). -/
def Obligations.EveryCommandCompletes : Prop :=
  ∀ (c : Instr) (s : State),
    (unitExists s.cfg c = false → exec c s = .fault .noSuchUnit) ∧
    (unitExists s.cfg c = true → s.testing = false → ∃ t, exec c s = .next t) ∧
    (unitExists s.cfg c = true → s.testing = true → c ≠ .wrstnAssert → (∀ code, c ≠ .wrapperInstruction code) →
      exec c s = .refused .noPromise) ∧
    (c = .wrstnAssert ∨ (∃ code, c = .wrapperInstruction code) → ∃ t, exec c s = .next t)

/-- WRSTN_ASSERT selects WS_BYPASS. An instruction of the wrapper that is not a test instruction, or one that the test lock turns into
BYPASS, takes effect at once, and WS_IDCODE then selects the 32 bits of SM_IDENT; a test instruction is a class X error and waits for the end
of the fall; in reset it takes effect (R313, R314, R327, R387). -/
def Obligations.WrapperInstructions : Prop :=
  ∀ (s : State) (code : BitVec 4),
    let n := code.toNat
    let locked := s.fuses.locked 1 = true ∧ (n = 3 ∨ n = 5)
    exec .wrstnAssert s = .next { s with wir := 0, testPending := 0 } ∧
    (locked → exec (.wrapperInstruction code) s = .next { s with wir := 0, testPending := 0 }) ∧
    (n ≠ 1 → n ≠ 3 → n ≠ 5 → exec (.wrapperInstruction code) s = .next { s with wir := n, testPending := 0 } ∧
      ({ s with wir := n, testPending := 0 } : State).wrapperData = if n = 4 then some (BitVec.ofNat 32 (smIdent s.cfg)) else none) ∧
    (n = 1 ∨ n = 3 ∨ n = 5 → ¬ locked → s.testing = false → s.porst = false → ∃ t, exec (.wrapperInstruction code) s = .next t ∧
      t.testPending = n ∧ t.fall = true ∧ t.level = 0 ∧ t.wir = s.wir ∧ (s.fall = false → t.formula = none ∧ t.ops = [])) ∧
    (n = 1 ∨ n = 3 ∨ n = 5 → ¬ locked → s.porst = true →
      exec (.wrapperInstruction code) s = .next { s with wir := n, testPending := 0 })

/-! ### Power, clocks, temperature -/

/-- The power handshake of a domain. PWR_ACK that rises to a request is taken, and one that nothing requested is ignored and counted; the
domain is present when its generator has locked, with the units of PD-MC and PD-KEY as new; an idle domain that no level needs drops its
request and is no longer present, and one that is needed again when its power-down ends requests power, unless it is fenced; an acknowledge
that is 1 ms late is reported, and not again for the same edge (R27, R321, R323, R364, R388). The loss of lock of a present domain, and the
fall of an acknowledge that is still requested: the domain is no longer present and its request falls; PD-MC and PD-INTAKE are a class X
fall, the links of PD-PEER, the key island and the Still are fenced (R317, R322). -/
def Obligations.PowerHandshakes : Prop :=
  (
  ∀ (s : State) (d : Domain), OnDomain s d →
    let i := domIndex d
    let x := s.dom i
    (x.ack = false → x.req = true →
      exec (.pwrAckRise d) s = .next (s.modDom i (fun x => { x with ack := true, since := s.time, slow := false }))) ∧
    (x.ack = false → x.req = false → exec (.pwrAckRise d) s = .next (s.count 6 0 3 1)) ∧
    (x.req = true → x.ack = true → x.present = false → ∃ t, exec (.generatorLock d) s = .next t ∧
      t.dom i = { x with present := true, lost := false } ∧ (∀ j, j ≠ i → t.dom j = s.dom j) ∧
      (i = 0 → t.log = {} ∧ t.counters = s.counters.filter (fun c => decide (c.set = 3)) ∧ (∀ k < 2, t.codeSlot k = {})) ∧
      (i = 3 → t.entropy.ready = false ∧ t.keyPresent = (s.run.setUp && !s.keyFenced)) ∧
      (i = 1 ∨ 4 ≤ i → { t with doms := s.doms } = s)) ∧
    (x.ack = true → x.req = false → s.domainNeeded i = false ∨ s.domainFenced i = true →
      exec (.pwrAckFall d) s = .next (s.modDom i (fun x => { x with ack := false }))) ∧
    (x.ack = true → x.req = false → s.domainNeeded i = true → s.domainFenced i = false → ∃ t, exec (.pwrAckFall d) s = .next t ∧
      (t.dom i).ack = false ∧ (t.dom i).req = true ∧ (t.dom i).since = s.time ∧ (∀ j, j ≠ i → t.dom j = s.dom j)) ∧
    (s.domainNeeded i = false → s.domainIdle i = true → x.req = true → x.ack = true → ∃ t, exec (.powerDownRequest d) s = .next t ∧
      t.dom i = { x with req := false, present := false, since := s.time, slow := false } ∧ (∀ j, j ≠ i → t.dom j = s.dom j)) ∧
    (s.domainNeeded i = true → exec (.powerDownRequest d) s = .next s) ∧
    (x.req ≠ x.ack → x.slow = false → x.since + 1000000 ≤ s.time → exec (.pwrAckSlow d) s = .next
      ((s.modDom i (fun x => { x with slow := true })).post 0x0602 5 7 i 0 0)) ∧
    (x.req = x.ack ∨ x.slow = true ∨ s.time < x.since + 1000000 → exec (.pwrAckSlow d) s = .next s)) ∧
  (
  ∀ (s : State) (d : Domain), OnDomain s d →
    let i := domIndex d
    let lost := fun (t : State) =>
      (i < 4 → (t.dom i).present = false ∧ (t.dom i).req = false ∧ (t.dom i).lost = true) ∧
      (i = 0 ∨ i = 1 → t.fall = true ∧ t.level = 0) ∧ (i = 2 → ∀ p < 2, (t.link p).st = .fenced) ∧
      (i = 3 → t.keyFenced = true ∧ t.keyPresent = false ∧ t.entropy = {}) ∧ (4 ≤ i → t.stills.fenced.contains (i - 4) = true)
    ((s.dom i).present = true → ∃ t, exec (.lockLoss d) s = .next t ∧ lost t) ∧
    ((s.dom i).ack = true → (s.dom i).req = true → ∃ t, exec (.pwrAckFall d) s = .next t ∧ lost t) ∧
    ((s.dom i).present = false → exec (.lockLoss d) s = .next s) ∧ ((s.dom i).ack = false → exec (.pwrAckFall d) s = .next s))

/-- A clock check keeps the measured frequencies; at S2 and above one outside 500 ppm of 1.6 GHz is a class X error, of the first channel
that fails (R318). A temperature sample is taken into SM_TEMP, and one in another band than the last full read of the fuses makes a
re-read due, which starts at once when the Fuse Port is free (R316, R355). -/
def Obligations.ClocksAndTemperature : Prop :=
  ∀ s : State, Awake s →
    (∀ khz : List Word32, khz.length = channels s.cfg →
      let clocks := khz.map BitVec.toNat
      (s.level < 2 ∨ clocks.all clockOk = true → exec (.clockCheck khz) s = .next { s with clocks := clocks }) ∧
      (2 ≤ s.level → ∀ ch, ch < clocks.length → clockOk (clocks.getD ch 0) = false → (∀ j, j < ch → clockOk (clocks.getD j 0) = true) →
        exec (.clockCheck khz) s = .next (s.hold (({ s with clocks := clocks } : State).classX
          { code := 0x0711, cls := .x, unit := 0x0002, index := ch, arg0 := clocks.getD ch 0 })))) ∧
    (∀ code : Byte,
      let sampled := s.modSmp (fun m => { m with temp := code, tempKnown := true })
      let band := code.toNat / 20
      (s.level = 0 ∨ s.fuses.read = false ∨ (s.fuses.firstTemp = true ∧ band = s.fuses.band) →
        exec (.tempSample code) s = .next sampled) ∧
      (1 ≤ s.level → s.fuses.read = true → s.fuses.firstTemp = false ∨ band ≠ s.fuses.band → s.fusePass = none → s.fw.commit = none →
        exec (.tempSample code) s = .next { sampled with
          fuses := { s.fuses with firstTemp := true, band := band, due := false }
          fusePass := some { word := 0, margin := 0 } }))

/-! ### ROM start and warm reset -/

/-- A ROM start after power-up, with PD-MC present, a level requested and no code slot held: the two cores that fail their self-checks leave
no MC, a class X error; else the fuses are read and latched, the stack is discovered, and the engine is at S1 in ROM mode, or stays below it
for good when the fuses disable it (R28, R329, R352, R353, R359, R363). -/
def Obligations.StartFromRom : Prop :=
  ∀ (s : State) (r : RomStart), Awake s → s.present 0 = true → s.fuses.read = false → s.wrst = false → s.fall = false → s.formula = none →
    1 ≤ s.smp.req → s.fw.running = none → (∀ i < 2, (s.codeSlot i).st = .empty) → s.fw.coreOut 0 = false → s.fw.coreOut 1 = false →
    ∃ t, exec (.romBoot r) s = .next t ∧
      (r.core0 = false → r.core1 = false → t.fall = true ∧ t.level = 0) ∧
      (r.core0 = true ∨ r.core1 = true →
        t.disc = discover s.cfg r.fuses ∧ (t.fw.core = 0 ↔ r.core0 = true) ∧
        ((latchFuses r.fuses s.fuses).disabled = true → t.smp.fuseDisabled = true ∧ t.smp.req = 0 ∧ t.smp.fail = 2 ∧ t.smp.level = s.smp.level) ∧
        ((latchFuses r.fuses s.fuses).disabled = false → t.fuses.read = true ∧ t.smp.level = 1 ∧ t.fw.romMode = true ∧ t.fw.running = none))

/-- WRST_N to 0 takes the engine through a class X fall; its release restarts the MC from ROM at once when the fall is complete, and is kept
for the end of the fall otherwise, unless WRST_N falls again before. The MC then reads the fuses again and stands at S1 with a request for at
least 1; with a staged bundle to check again, it waits for the loans that bring it (R320, R360, R366, R367). -/
def Obligations.WarmReset : Prop :=
  ∀ (s : State) (r : RomStart), Awake s →
    (s.wrst = false → ∃ t, exec .wrstNAssert s = .next t ∧ t.wrst = true ∧ t.fall = true ∧ t.level = 0 ∧ t.fusePass = none ∧
      (s.fall = false → t.formula = none ∧ t.ops = [])) ∧
    (s.wrst = true → exec .wrstNAssert s = .next (s.modFw (fun w => { w with restart := none }))) ∧
    (s.wrst = true → s.fall = true → exec (.wrstNRelease r) s = .next (s.modFw (fun w => { w with restart := some r }))) ∧
    (s.wrst = true → s.fall = false → s.present 0 = true → s.formula = none → s.fw.coreOut 0 = false → s.fw.coreOut 1 = false →
      ∃ t, exec (.wrstNRelease r) s = .next t ∧ t.wrst = false ∧
        (r.core0 = true ∨ r.core1 = true → t.disc = discover s.cfg r.fuses ∧
          ((latchFuses r.fuses s.fuses).disabled = false → t.fuses.read = true ∧
            (s.fw.pendingStage = none → t.smp.level = 1 ∧ (s.smp.req ≤ 1 → t.smp.req = 1 ∧ t.smp.pendingLevel = false)) ∧
            (∀ p, s.fw.pendingStage = some p → 0 < p.2 → t.smp.level = s.smp.level ∧ t.fw.warmWait = true ∧ t.fw.fetch = []))))

/-! ### Channel modes, segments, refresh -/

/-- A TRANSIT into PROC closes every row and makes CH_OWN 1; a fenced channel stays as it is. A segment boundary of the step's timeline
begins the TRANSIT of its segment at its tick; a channel that leaves PROC first issues every refresh of the period that is due; after 120 ns
the channel is in PROC with the host's postponed refreshes to be paid, or in MEM with CH_OWN 0, no refresh due and no row open; one that
cannot complete is a class X error (R18, R19, R22, R163, R165, R385). Stated of the end of a TRANSIT for a state in which no request waits
for the staging region. -/
def Obligations.Transits : Prop :=
  (∀ (c : Channel) (t : Nat), c.mode = .mem → c.fenced = false →
    c.transit .toProc t = { c with mode := .toProc, since := t, rows := [] } ∧ chOwn (c.transit .toProc t) = true) ∧
  (∀ (c : Channel) (t : Nat), (c.fenced = true → c.transit .toProc t = c) ∧
    (c.mode = .proc → c.transit .toMem t = { c with mode := .toMem, since := t })) ∧
  ∀ (s : State) (ch : Fin 32), OnChannel s ch →
    let c := s.chan ch
    let quiet := fun (t : State) => ∀ (pc : Fin 2) (bank : Fin 32), t.refreshDue ch pc bank = false
    let begins := fun (x : Segment) => (segmentsOf s.form ch)[c.segIdx]? = some x ∧ s.run.anchored = true ∧ s.evalIdle = true ∧
      s.tickTime x.start ≤ s.time
    (∀ x, begins x → x.proc = true → exec (.segmentBoundary ch) s = .next (s.modChan ch (fun c =>
      { c.transit .toProc s.time with segIdx := c.segIdx + 1 }))) ∧
    (∀ x, begins x → x.proc = false → c.mode ≠ .proc → exec (.segmentBoundary ch) s = .next (s.modChan ch (fun c =>
      { c.transit .toMem s.time with segIdx := c.segIdx + 1 }))) ∧
    (∀ x, begins x → x.proc = false → c.mode = .proc → ∃ t, exec (.segmentBoundary ch) s = .next t ∧ (t.chan ch).mode = .toMem ∧
      (t.chan ch).since = s.time ∧ (t.chan ch).segIdx = c.segIdx + 1 ∧ quiet t ∧ (∀ j, j ≠ ch.toNat → t.chan j = s.chan j) ∧
      { t with chans := s.chans, out := s.out } = s) ∧
    (∀ x, (segmentsOf s.form ch)[c.segIdx]? = some x → s.time < s.tickTime x.start → exec (.segmentBoundary ch) s = .next s) ∧
    (s.fw.stage = [] →
      (c.since + 120 ≤ s.time → c.mode = .toProc → s.run.eval ≠ .closing → exec (.transitEnd ch false) s = .next (s.modChan ch (fun c =>
        { c with mode := .proc, since := s.time, catchup := s.disc.nPost, refreshes := c.refreshes + 2 * s.disc.nPost }))) ∧
      (c.since + 120 ≤ s.time → c.mode = .toMem → ∃ t, exec (.transitEnd ch false) s = .next t ∧ (t.chan ch).mode = .mem ∧
        chOwn (t.chan ch) = false ∧ (t.chan ch).rows = [] ∧ (t.chan ch).catchup = 0 ∧ quiet t ∧ (∀ j, j ≠ ch.toNat → t.chan j = s.chan j)) ∧
      (s.time < c.since + 120 → ∀ stuck, exec (.transitEnd ch stuck) s = .next s) ∧
      (c.since + 120 ≤ s.time → c.mode = .toProc ∨ c.mode = .toMem → ∃ t, exec (.transitEnd ch true) s = .next t ∧ t.fall = true ∧
        t.level = 0))

/-- Refreshes on the core side: one whose tick of the period has passed is issued once, in TRANSIT and PROC, on a channel that owes no
catch-up; the catch-up is paid N_post times tRFCab after the channel entered PROC, and with the last one an EVAL window that closes is
closed (R164, R165, R295). A fault of a Channel Sequencer fences its channel as a class J error (R385). -/
def Obligations.RefreshAndChannelFence : Prop :=
  ∀ (s : State) (ch : Fin 32) (pc : Fin 2) (bank : Fin 32), OnChannel s ch →
    let c := s.chan ch
    (c.mode ≠ .mem → c.fenced = false → c.catchup = 0 → s.refreshDue ch pc bank = true → ∃ t, exec (.refreshTick ch pc bank) s = .next t ∧
      t.out.ccp = some (if s.perBank then 4 else 5, pc.toNat, bank.toNat, 0, 0) ∧ (t.chan ch).refreshes = c.refreshes + 1 ∧
      t.refreshDue ch pc bank = false ∧ (∀ j, j ≠ ch → t.chan j = s.chan j) ∧ { t with chans := s.chans, out := s.out } = s) ∧
    (c.mode = .mem ∨ s.refreshDue ch pc bank = false → exec (.refreshTick ch pc bank) s = .next s) ∧
    (c.mode = .proc → 0 < c.catchup → c.since + c.catchup * s.disc.tRfcAb ≤ s.time →
      (s.run.eval ≠ .closing → exec (.catchupRefreshDone ch) s = .next (s.modChan ch (fun c => { c with catchup := 0 }))) ∧
      (s.run.eval = .closing → (∀ j, j < channels s.cfg → j ≠ ch → (s.chan j).fenced = true ∨ ((s.chan j).mode = .proc ∧ (s.chan j).catchup = 0)) →
        exec (.catchupRefreshDone ch) s = .next { s.modChan ch (fun c => { c with catchup := 0 }) with
          run := { s.run with eval := .closed }
          shards := s.shards.map (fun h => { h with ready := { h.ready with frozen := false } }) })) ∧
    (∀ parity : BitVec 16, exec (.csqFault ch parity) s = .next (s.hold ((s.fenceChannel ch).error
      { code := 0x0205, cls := .j, unit := 0x0002, index := ch, arg0 := parity.toNat })) ∧
      (s.formula = none → c.fenced = false → ((s.fenceChannel ch).chan ch) = { (s.transit ch .toMem).chan ch with fenced := true } ∧
        ((s.fenceChannel ch).chan ch).fenced = true ∧ (c.mode = .proc → ((s.fenceChannel ch).chan ch).mode = .toMem) ∧
        ((s.fenceChannel ch).atmCh ch).seg = none))

/-! ### Steps -/

/-- The anchor of step NEXT is taken once the bounded timeline of the step before has ended and a contribution of the step or STEP_BEGIN
has come, when nothing forbids it: a Formula of the current epoch is admitted, the level is S2 or above and none below it is requested, no
EVAL window and no RUN_STOP, no fenced channel, RESTORE or ADOPT stands in the way; else nothing happens (R30, R161, R267, R295, R385).
Firmware writes the record of the next step into a buffer that is free, after the decision of the step before, with u one above that of the
step before and the loss exponent after it; the record of the run's next step, with no step before it kept, takes u and the exponent from
the run (R103, R106). -/
def Obligations.StepAnchorAndRecord : Prop :=
  (
  ∀ s : State, Awake s →
    (s.anchorAllowed = true ↔ s.formula.isSome = true ∧ 2 ≤ s.level ∧ s.form.hdr.epoch = s.fabric.epoch ∧
      s.run.eval = .closed ∧ s.run.stopping = false ∧ ¬ (s.smp.pendingLevel = true ∧ s.smp.req < s.smp.level) ∧ s.anchorBlocked = false ∧
      s.live cRestore = false ∧ s.live cAdopt = false) ∧
    (s.anchorAllowed = true → s.run.boundedAt ≤ s.time →
      s.run.arrived = true ∨ s.run.stepBegin = true → exec .stepAnchor s = .next (s.hold s.anchor)) ∧
    (s.anchorAllowed = false ∨ s.time < s.run.boundedAt ∨
      (s.run.arrived = false ∧ s.run.stepBegin = false) → exec .stepAnchor s = .next s)) ∧
  (
  ∀ (s : State) (prev : StepSt), Awake s → s.formula.isSome = true → s.present 0 = true → s.recordRoom = true →
    s.run.steps.find? (fun t => decide (t.step + 1 = s.nextRecordStep)) = some prev →
    (prev.decided = true → ∃ t, exec .stepRecordWrite s = .next t ∧
      t.recordFor s.nextRecordStep = some (s.stepRecord s.nextRecordStep (prev.u + 1) prev.l) ∧ t.free = s.free + 32 ∧
      t.run.steps = s.run.steps ∧ t.fabric = s.fabric ∧ t.dram = s.dram) ∧
    (prev.decided = false → exec .stepRecordWrite s = .next s)) ∧
  (
  ∀ s : State, Awake s → s.formula.isSome = true → s.present 0 = true → s.recordRoom = true → s.nextRecordStep = s.run.nextStep →
    s.run.steps.find? (fun t => decide (t.step + 1 = s.nextRecordStep)) = none → ∃ t, exec .stepRecordWrite s = .next t ∧
      t.recordFor s.nextRecordStep = some (s.stepRecord s.nextRecordStep (s.run.updates + 1) s.run.lossExp) ∧ t.free = s.free + 32 ∧
      t.run.steps = s.run.steps ∧ t.fabric = s.fabric ∧ t.dram = s.dram)

/-! ### Intake -/

/-- A slot opens at its shard's intake-open point when the store has room, once; a fold takes, of the chunks that wait in a slot, one
whose rank is the next of its chunk, and moves the chunk's rank on past the ranks that sent nothing (R137 to R139, R148). -/
def Obligations.SlotsAndFolds : Prop :=
  (∀ (t : Slot) (h : Held), t.due = some h → h ∈ t.held ∧ t.next.getD h.chunk 0 = h.rank ∧
    (t.foldTurn h).next = t.next.set h.chunk (skipEmpties t.empties t.k (h.rank + 1)) ∧
    h.rank < skipEmpties t.empties t.k (h.rank + 1)) ∧
  ∀ (s : State) (shard : Word32), Awake s →
    let i := shard.toNat
    (∀ p, planOf s.form i = some p → s.formula.isSome = true → (s.shard i).slot = none → s.openPoint i p = true →
      s.shardBad i = true ∨ s.slotRoom p = true → exec (.slotOpen shard) s = .next (s.hold ((s.openSlot i p).retryHeld))) ∧
    ((s.shard i).slot.isSome = true → exec (.slotOpen shard) s = .next s) ∧
    (∀ t h, (s.shard i).slot = some t → t.due = some h →
      let u := ({ t with held := t.held.erase h } : Slot).foldTurn h
      exec (.oaFold shard) s = .next (s.hold ((s.modSlot i (fun _ => u)).slotCheck i)) ∧
      (∀ e, shardEntry s.form i = some e → u.complete e.wx = false → exec (.oaFold shard) s = .next (s.modSlot i (fun _ => u)))) ∧
    (∀ t, (s.shard i).slot = some t → t.due = none → exec (.oaFold shard) s = .next s)

/-! ### Passes -/

/-- A prefetch begins the read of the next stripe of its Still, or reports that the stripe streams when it does not fit, when its tick has
come, R107 allows it, every Atomizer program ordered before the pass has completed and no segment runs on the Still's channels; with no
entry to prefetch nothing happens. Its end, with the channels in PROC, puts the operands into the buffer: clean, or it poisons the shard,
also where a word carries the poison code (R17, R22, R107, R108, R112, R212, R222). The fault of a lane fences its physical Still, and no
logical Still is carried by it any more; the new carrier, once powered, resumes (R85, R110, R111). -/
def Obligations.PrefetchesAndStillFaults : Prop :=
  (
  ∀ (s : State) (still : Fin 8) (shard : Word32), Awake s → still.toNat < logicals s.cfg → ∀ e, shardEntry s.form shard.toNat = some e →
    (∀ p x, s.prefetchTarget still = some (p, x) → s.formula.isSome = true → x.shard = shard.toNat → s.stillReady still = true →
      s.prefetchTick x p.2 = true → s.readsCommitted still x.shard p = true → s.evalIdle = true → s.badAt x.shard p.2 = false →
      let g := passProg s.form e x.phase
      s.progsClear e g (listPlace s.form x.shard x.phase) p.2 = true → s.groupFree still = true →
      (stripeFits s.form e g (stripeCount s.cfg e.n still) = true → exec (.prefetch still shard) s = .next (s.hold
        (s.enterStripe x.shard x.phase p.2 { still := still, pre := .reading }))) ∧
      (stripeFits s.form e g (stripeCount s.cfg e.n still) = false → exec (.prefetch still shard) s = .next (s.hold
        (s.enterStripe x.shard x.phase p.2 { still := still, pre := .streams })))) ∧
    (s.prefetchTarget still = none → exec (.prefetch still shard) s = .next s) ∧
    (∀ p, s.readingPass still shard.toNat = some p →
      let g := passProg s.form e p.phase
      let count := stripeCount s.cfg e.n still
      let set := fun (pre : Prefetch) (bad : Bool) => s.modPass p.shard p.phase p.step (fun q => q.modStripe still (fun x =>
        { x with pre := pre, bad := bad, buffer := s.operands e g still }))
      let first := ((inputDescs s.form e g).head?.map (fun d => ebase d 0)).getD 0
      ((inputDescs s.form e g).all (fun d => s.blockOpen d 0 still 0 count)) = true →
        (∀ a, exec (.prefetchDone still shard (.uncorrectable a)) s = .next (s.hold ((set .poisoned true).dramUncorrectable still a p.shard))) ∧
        (s.operandPoison e g still 0 count = false →
          exec (.prefetchDone still shard .clean) s = .next (s.hold (set .clean false)) ∧
          ∀ a, exec (.prefetchDone still shard (.corrected a)) s = .next (s.hold ((set .clean false).dramCorrected still a))) ∧
        (s.operandPoison e g still 0 count = true →
          exec (.prefetchDone still shard .clean) s = .next (s.hold ((set .poisoned true).dramUncorrectable still first p.shard)) ∧
          ∀ a, exec (.prefetchDone still shard (.corrected a)) s = .next (s.hold ((set .poisoned true).dramUncorrectable still a p.shard))))) ∧
  (
  (∀ (s : State) (i : Fin 9), Awake s → i.toNat < physicals s.cfg → s.stills.fenced.contains i.toNat = false →
    ∃ t, exec (.laneError i) s = .next t ∧ t.stills.fenced = s.stills.fenced ++ [i.toNat] ∧
      (∀ k, k < logicals s.cfg → t.stills.map.getD k 0xF ≠ i.toNat) ∧
      (∀ k, k < logicals s.cfg → s.stills.map.getD k 0xF ≠ i.toNat → t.stills.map.getD k 0xF = s.stills.map.getD k 0xF)) ∧
  ∀ (s : State) (k : Fin 8), Awake s → k.toNat < logicals s.cfg → ∀ x, s.stills.takeover.find? (fun x => decide (x.1 = k.toNat)) = some x →
    (s.present (4 + x.2.1) = true → exec (.stillTakeover k) s = .next (s.modStills (fun t =>
      { t with takeover := t.takeover.filter (fun y => decide (y.1 ≠ k.toNat)) }))) ∧
    (s.present (4 + x.2.1) = false → exec (.stillTakeover k) s = .next s))

/-- A pass starts on every participating Still at once, when the step allows it, the programs ordered before it are done, what a cut wants
of the streams that it overwrites can be read, and G, the prefetches and the phase-B entry are there; a pass of a poisoned shard, or one that
draws Sillage bits without a key, does nothing and is reported. The next block of a stripe of a running pass is committed once its channels
can be accessed, and the pass ends with its last block; a poisoned operand of a stripe that streams ends it at once with the shard poisoned
(R102, R109, R110, R112, R115, R212, R276). -/
def Obligations.Passes : Prop :=
  (
  ∀ (s : State) (shard : Word32), Awake s → ∀ e x n, shardEntry s.form shard.toNat = some e → s.passAt shard.toNat e = some (x, n) →
    let i := shard.toNat
    let p := passProg s.form e x.phase
    s.owns e = true → s.stepAllows n e p = true → s.progsClear e p (s.stills.pos.getD 0 (0, 0)).1 n = true →
    s.overwriteRead i e p = true → (∀ q, s.findPass i x.phase n = some q → q.started = false) →
    (s.badAt i n = true → exec (.passStart shard) s = .next (s.hold (s.passNothing i x.phase n e false))) ∧
    (s.badAt i n = false → p.draws = true → s.keyOk = false → exec (.passStart shard) s = .next (s.hold
      ((s.poisonShard i { code := 0x0303, cls := .sh, unit := 0x000A, shard := i, arg0 := e.accord }).passNothing i x.phase n e true))) ∧
    (s.badAt i n = false → p.draws = false ∨ s.keyOk = true →
      (s.operandsReady i x.phase n e = true →
        exec (.passStart shard) s = .next (s.hold ((s.switchDispatchers e).beginPass i x.phase n e p))) ∧
      (s.operandsReady i x.phase n e = false → exec (.passStart shard) s = .next s))) ∧
  (
  ∀ (s : State) (still : Fin 8) (shard : Word32), Awake s → still.toNat < logicals s.cfg →
    ∀ q e x y n, s.runningPass shard.toNat = some q → shardEntry s.form shard.toNat = some e → q.stripe still = some x →
      s.passAt shard.toNat e = some (y, n) → s.stillReady still = true → s.stills.noCarrier = false →
      x.blocks < stripeBlocks s.cfg e.n still → s.commitOpen q x e (passProg s.form e q.phase) = true →
    let ends := fun (u : State) (sev : Sev) => ∀ q', (u.commitBlock q x e).runningPass shard.toNat = some q' →
      ((u.commitBlock q x e).passComplete q' e = false → exec (.blockCommit still shard sev) s = .next (s.hold (u.commitBlock q x e))) ∧
      ((u.commitBlock q x e).passComplete q' e = true → exec (.blockCommit still shard sev) s = .next
        (s.hold ((u.commitBlock q x e).completePass q' y e)))
    let poison := s.operandPoison e (passProg s.form e q.phase) still (256 * x.blocks) (min 256 (stripeCount s.cfg e.n still - 256 * x.blocks))
    let aborts := fun (a : Nat) => s.hold ((s.dramUncorrectable still a shard.toNat).abortPass { q with poisoned := true } e)
    (x.pre ≠ .streams → ∀ sev, ends s sev) ∧
    (x.pre = .streams → poison = false → ends s .clean ∧ ∀ a, ends (s.dramCorrected still a) (.corrected a)) ∧
    (x.pre = .streams → poison = true → ∀ sev, (∀ a, sev ≠ .uncorrectable a) → exec (.blockCommit still shard sev) s = .next (aborts 0)) ∧
    (x.pre = .streams → ∀ a, exec (.blockCommit still shard (.uncorrectable a)) s = .next (aborts a)))

/-! ### Atomizers -/

/-- A segment of the program at hand on a channel starts when the step allows the program, at a tick, the channel is free and the stretch
lies in a reservation; a step that is skipped ends the program on its channels at once; a program that needs a key that is not there, or that
meets a fenced Atomizer, or that was refused on another channel, is refused (R192, R209 to R213; the code of the last two is the model's
choice, log entry 116). The token bucket of a channel takes three tokens at the end of every eighth Atomizer cycle since admission, and never
holds above 500; a command goes out in its turn when the bucket holds its cycles, which it takes, and when fewer than eight are outstanding on
each half-set that it goes to; else nothing goes out (R195, R216, R219). -/
def Obligations.AtmSegmentsAndPacing : Prop :=
  (
  ∀ (s : State) (ch : Fin 32), OnChannel s ch → ∀ p n, s.progAt ch = some (p, n) → s.formula.isSome = true → (s.atmCh ch).seg = none →
    s.progAllowed p n = true →
    let all := Nat.land p.chmask (2 ^ channels s.cfg - 1)
    let skip := (s.stepSt n).skipped = true ∧ p.runOnSkip = false
    let refused := ((s.atmResult p.prog n).map AtmResult.refused).getD false = true
    let keyless := p.sillage = true ∧ s.keyOk = false
    (skip → exec (.atmSegmentStart ch) s = .next (s.hold ((s.modResult p.prog n (fun r => { r with skipped := true })).channelsDone p n all))) ∧
    (¬ skip → ¬ keyless → s.atmFenced p = false → ¬ refused →
      let ready := s.onTick = true ∧ s.level = 3 ∧ s.disc.aStack = true ∧ s.disc.isMatch = true ∧ bit s.disc.atmMask ch = true ∧
        s.chanReady ch = true ∧ s.stillBusy ch = false ∧ s.stretchOk ch (segWorst s p (s.atmCh ch).segIdx) = true
      (ready → exec (.atmSegmentStart ch) s = .next (s.hold (s.startSegment ch p n)) ∧
        ∃ g, ((s.startSegment ch p n).atmCh ch).seg = some g ∧ g.prog = p.prog ∧ g.step = n ∧ g.seg = (s.atmCh ch).segIdx ∧
          g.goes = [0, 0] ∧ g.dones = [0, 0] ∧ g.rpts = [0, 0]) ∧
      (¬ ready → exec (.atmSegmentStart ch) s = .next s)) ∧
    (¬ skip → keyless → ∃ mask, exec (.atmSegmentStart ch) s = .next (s.hold ((s.refuseProgram p n 0x0303 0).channelsDone p n mask))) ∧
    (¬ skip → ¬ keyless → s.atmFenced p = true ∨ refused → ∃ mask, exec (.atmSegmentStart ch) s = .next
      (s.hold ((s.refuseProgram p n 0x0402 1).channelsDone p n mask)))) ∧
  (
  ∀ (s : State) (ch : Fin 32), OnChannel s ch →
    let a := s.atmCh ch
    (s.formula.isSome = true → 20 * (a.refills + 1) ≤ s.time - s.admitTime → exec (.bucketRefill ch) s = .next (s.modAtm ch (fun a =>
      { a with bucket := min 500 (a.bucket + 3), refills := a.refills + 1 }))) ∧
    (s.time - s.admitTime < 20 * (a.refills + 1) → exec (.bucketRefill ch) s = .next s)) ∧
  (
  ∀ (s : State) (ch : Fin 32) (go : HalfGo), OnChannel s ch →
    let a := s.atmCh ch
    let half := go.half
    (a.seg = none → exec (.atmGo ch go) s = .next s) ∧
    (∀ g p c iter, a.seg = some g → progOf s.form g.prog = some p → cmdAt p g.seg (g.goes.getD half 0) = some (c, iter) →
      let mine := g.goes.getD half 0
      let even := g.goes.getD 0 0
      let odd := g.goes.getD 1 0
      let turn := if bothHalves c then even = odd ∧ ((c.cmd ≠ 8 ∧ mine + 1 ≠ segLength p g.seg) ∨ g.goes = g.dones)
        else if half = 0 then even = odd else odd + 1 = even
      let sent := s.sendGo ch half p g mine c iter go.hits
      (mine < segLength p g.seg → turn → g.nominal ≤ s.time → atmCycles p c iter ≤ a.bucket → roomToQueue g half c = true →
        s.chanReady ch = true → s.level = 3 →
        exec (.atmGo ch go) s = .next (s.hold sent) ∧ (sent.atmCh ch).bucket = a.bucket - atmCycles p c iter) ∧
      (segLength p g.seg ≤ mine ∨ ¬ turn ∨ s.time < g.nominal ∨ a.bucket < atmCycles p c iter ∨ roomToQueue g half c = false ∨
        s.chanReady ch = false ∨ s.level ≠ 3 → exec (.atmGo ch go) s = .next s) ∧
      (g.dones.getD half 0 + 8 ≤ mine → exec (.atmGo ch go) s = .next s)))

/-- A half-set that has completed a command counts it, before the last command of its segment only once its whole report has gone out, and
with every command done and every report in, the segment has ended, and with the last one the channel has finished the program. The next
beat of a half-set's report joins the program's result: the counts of fields 1 to 8 are added, and field 9, when valid, raises the maximum;
a beat that is not the next one changes nothing (R219, R220). ATM_ERR fences the Atomizer that the status names, records it, and abandons a
running segment; the loss of the macro's key abandons it too and fences nothing; with no segment running nothing else happens (R221, R236). -/
def Obligations.AtmReportsAndFaults : Prop :=
  (
  ∀ (s : State) (ch : Fin 32) (half : Fin 2), OnChannel s ch → ∀ g, (s.atmCh ch).seg = some g →
    (s.mayComplete g half = true ↔ g.dones.getD half 0 < g.goes.getD half 0 ∧ ∀ p, progOf s.form g.prog = some p →
      g.dones.getD half 0 + 1 = segLength p g.seg → g.rpts.getD half 0 = 0x3FE) ∧
    (s.mayComplete g half = true → exec (.atmDone ch half) s = .next (s.hold ((s.modAtm ch (fun a =>
      { a with seg := some { g with dones := modAt g.dones half (fun d => d + 1) } })).segmentCheck ch))) ∧
    (s.mayComplete g half = false → exec (.atmDone ch half) s = .next s) ∧
    (∀ p, progOf s.form g.prog = some p → segEnded p g = false → s.segmentCheck ch = s) ∧
    (∀ p, progOf s.form g.prog = some p → segEnded p g = true →
      let ended := (s.storedPoison ch p g).modAtm ch (fun a => { a with seg := none, segIdx := g.seg + 1 })
      s.segmentCheck ch = if segCount p ≤ g.seg + 1 then ended.channelsDone p g.step (2 ^ ch.toNat) else ended)) ∧
  (
  ∀ (s : State) (ch : Fin 32), OnChannel s ch →
    ((s.atmCh ch).seg = none → ∀ half beat, exec (.atmDone ch half) s = .next s ∧ exec (.atmRpt ch beat) s = .next s) ∧
    (∀ g p (beat : Word64) (half : Fin 2), (s.atmCh ch).seg = some g → progOf s.form g.prog = some p → field beat.toNat 40 2 = half + 1 →
      let f := field beat.toNat 60 4
      let v := field beat.toNat 0 32
      let booked := fun (t : State) => t.modAtm ch (fun a => { a with
        seg := a.seg.map (fun g => { g with rpts := modAt g.rpts half (fun m => m + 2 ^ f) }) })
      (s.reportNext ch half p g beat.toNat = true → f ≠ 9 →
        exec (.atmRpt ch beat) s = .next (s.hold (booked (s.takeCount ch g.prog g.step f v)))) ∧
      (s.reportNext ch half p g beat.toNat = true → f = 9 → bit beat.toNat 32 = true →
        exec (.atmRpt ch beat) s = .next (s.hold (booked (s.takeAtmMax p g.step v)))) ∧
      (s.reportNext ch half p g beat.toNat = true → f = 9 → bit beat.toNat 32 = false → exec (.atmRpt ch beat) s = .next (s.hold (booked s))) ∧
      (s.reportNext ch half p g beat.toNat = false → exec (.atmRpt ch beat) s = .next s)) ∧
    (∀ (g : AtmSegment) (p : AtmProgram) (beat : Nat) (half : Fin 2), s.reportNext ch half p g beat = true →
      1 ≤ field beat 60 4 ∧ field beat 60 4 ≤ 9 ∧ g.goes.getD half 0 = segLength p g.seg ∧ g.dones.getD half 0 + 1 = segLength p g.seg ∧
        g.rpts.getD half 0 + 2 = 2 ^ field beat 60 4)) ∧
  (
  ∀ (s : State) (ch : Fin 32), OnChannel s ch →
    let lost := s.modAtm ch (fun a => { a with keyOk := false })
    (∀ status : Word32,
      let pair := field status.toNat 0 5
      let pc := field status.toNat 5 1
      let booked := s.error { code := 0x0401, cls := .f, unit := 0x0003, index := pair + 32 * pc + 64 * ch.toNat, arg0 := status.toNat }
      ((s.atmCh ch).fenced.contains (pc, pair) = true → exec (.atmErr ch status) s = .next booked) ∧
      ((s.atmCh ch).fenced.contains (pc, pair) = false →
        let fenced := booked.modAtm ch (fun a => { a with fenced := a.fenced ++ [(pc, pair)], blocked := true })
        exec (.atmErr ch status) s = .next (s.hold (fenced.abandonSegment ch 0x0402 1)) ∧
        ((s.atmCh ch).seg = none → exec (.atmErr ch status) s = .next fenced))) ∧
    exec (.atmKeyOkFall ch) s = .next (s.hold (lost.abandonSegment ch 0x0303 0)) ∧
    ((s.atmCh ch).seg = none → exec (.atmKeyOkFall ch) s = .next lost))

/-! ### Links -/

/-- A link that is down or fenced takes no packet. On another one a packet whose CRC does not agree is dropped and counted, and its SEQ is
not taken; one that comes again is dropped; a gap in SEQ, or a packet beyond the credits that this engine granted, fences the link, but a
DISCOVER on an UP link resets it whatever its SEQ is, and the bring-up begins afresh (R251, R253, R256, R260). What the link's own packets do
that come in order with every field in range: a DISCOVER is answered, and with the HELLO_ACK of the peer taken the link is UP; a HELLO_ACK
gives the credits, and with the answer sent the link is UP; a HEARTBEAT or CREDIT only names the peer; the latest TOPO of the neighbour is
kept (R260, R261). -/
def Obligations.PacketArrival : Prop :=
  (
  ∀ (s : State) (p : Fin 2) (k : Packet) (relay : State → Packet → State), OnLink s p →
    let l := s.link p
    let ln := laneOf k.type
    let free := k.type = 0x01 ∨ k.type = 0x02
    let crcOk := field (packetCrc k.head.toNat k.payload) 0 32 = k.fld 224 32
    let d := (k.seq + 4096 - l.seqRx.getD ln 0) % 4096
    let got := s.modLink p (fun l => { l with rxSince := true })
    let resets := l.st = .up ∧ restarts k = true
    (l.st = .down ∨ l.st = .fenced → State.receive relay s p k = s) ∧
    (l.st = .up ∨ l.st = .bringup →
      (¬ crcOk → ∃ t, State.receive relay s p k = t ∧ (t.link p).seqRx = l.seqRx ∧ (t.link p).st = l.st ∧
        findCounter t.counters 4 p 1 = (satAdd 32 (findCounter s.counters 4 p 1).1 1,
          (findCounter s.counters 4 p 1).2 || decide (2 ^ 32 - 1 < (findCounter s.counters 4 p 1).1 + 1))) ∧
      (crcOk → ¬ resets → 2048 ≤ d → ∃ t, State.receive relay s p k = t ∧ (t.link p).seqRx = l.seqRx ∧ (t.link p).st = l.st) ∧
      (crcOk → ¬ resets → 1 ≤ d → d < 2048 → State.receive relay s p k = got.fenceLink p 0x0509 ln) ∧
      (crcOk → d = 0 → ¬ free → (if l.granted then laneGrant.getD ln 0 else 0) < l.inBuf.getD ln 0 + l.owed.getD ln 0 + k.cost →
        State.receive relay s p k = got.fenceLink p 0x0508 ln) ∧
      (crcOk → resets → State.receive relay s p k = got.linkReset p k ∧ ((got.linkReset p k).link p).st = .bringup ∧
        ((got.linkReset p k).link p).seqTx = [0, 0, 0] ∧ ((got.linkReset p k).link p).seqRx = [(k.seq + 1) % 4096, 0, 0]))) ∧
  (
  ∀ (s : State) (p : Fin 2) (k : Packet), Arrives s p k →
    let l := s.link p
    let v := leVal k.payload
    let u := s.heard p k
    let peer := if bit v 8 then some k.src else l.peer
    (k.type = 0x01 → l.st = .up → restarts k = true → exec (.hello p k) s = .next (s.hold
      ((s.modLink p (fun l => { l with rxSince := true })).linkReset p k))) ∧
    (k.type = 0x01 → l.st = .up → field v 0 8 ≠ 0 → ∃ t, exec (.hello p k) s = .next t ∧ (t.link p).st = .up ∧ (t.link p).peer = peer) ∧
    (k.type = 0x01 → l.st = .bringup → l.queue.length = 3 → field v 0 8 = 0 → majorOk v = true → ∃ t, exec (.hello p k) s = .next t ∧ (t.link p).peer = peer ∧
      (t.link p).ackSent = true ∧ (t.link p).granted = true ∧ u.packet 0x02 0 false (helloPayload u 0 p true) ∈ (t.link p).queue.getD 0 [] ∧
      (t.link p).st = if l.ackRcvd then .up else .bringup) ∧
    (k.type = 0x01 → l.st = .bringup → field v 0 8 = 0 → majorOk v = false → ∃ t, exec (.hello p k) s = .next t ∧ (t.link p).st = .bringup ∧
      (t.link p).queue.length = l.queue.length ∧ t.smp = (s.post 0x0203 1 7 p (field v 32 24) 0).smp) ∧
    (k.type = 0x02 → l.st = .bringup → l.ackRcvd = false → majorOk v = true → ∃ t, exec (.helloAck p k) s = .next t ∧ (t.link p).peer = peer ∧
      (t.link p).ackRcvd = true ∧ (t.link p).credits = [field v 96 16, field v 112 16, field v 128 16] ∧
      (t.link p).st = if l.ackSent then .up else .bringup) ∧
    (k.type = 0x02 → majorOk v = true → l.st = .up ∨ l.ackRcvd = true → ∃ t, exec (.helloAck p k) s = .next t ∧ (t.link p).st = l.st ∧
      (t.link p).peer = peer ∧ (t.link p).credits = (u.link p).credits) ∧
    (k.type = 0x03 → ∃ t, exec (.topo p k) s = .next t ∧ (t.link p).topo = some k.payload ∧ (t.link p).topoAt = s.time ∧ (t.link p).st = l.st ∧
      (t.link p).peer = (if bit v 20 then some (field v 0 20) else l.peer)))

/-- A packet that arrives in order with every field in range, from a member, for this engine, in the current epoch, is delivered by its
type, and leaves the buffer with its credits owed (R251, R253, Table 9-5). What delivery does: a child's value joins its round once, and the
total of the parent is taken once; a chunk of a child for an open slot is given to the fold once, and one that is accepted already is
counted; data of the ward joins the near region in the generation that is held or begins a newer one, and an older one, or a keeper that is
busy, is answered; the keeper's answer of a near copy is taken; the keeper's data joins the RESTORE that waits for it; a notice fences its
EA and goes on once; a relayed request runs on mailbox 1 and its response goes back, or it waits for a handover or FW_COMMIT to end (R146,
R263 to R265, R268, R270, R278, R279, R284). -/
def Obligations.PacketDelivery : Prop :=
  (
  ∀ (s : State) (p : Fin 2) (k : Packet), Deliverable s p k →
    let u := s.received p k
    (k.type = 0x04 → exec (.scalarUp p k) s = .next (s.hold ((u.takeScalar true k).leave (.link p) k))) ∧
    (k.type = 0x05 → exec (.scalarDown p k) s = .next (s.hold ((u.takeScalar false k).leave (.link p) k))) ∧
    (k.type = 0x06 → s.contribEarly k = false → exec (.contrib p k) s = .next (s.hold ((u.takeContrib (.link p) k none).leave (.link p) k))) ∧
    (k.type = 0x07 → exec (.flaconData p k) s = .next (s.hold ((u.takeFlacon k).leave (.link p) k))) ∧
    (k.type = 0x08 → exec (.flaconAck p k) s = .next (s.hold ((u.takeFlaconAck k).leave (.link p) k))) ∧
    (k.type = 0x09 → exec (.restoreData p k) s = .next (s.hold ((u.takeRestore k).leave (.link p) k))) ∧
    (k.type = 0x0B → exec (.fenceNotice p k) s = .next (s.hold ((u.takeNotice k).leave (.link p) k))) ∧
    (k.type = 0x0A → exec (.mbxRelay p k) s = .next (s.hold ((u.relay k).leave (.link p) k)))) ∧
  (
  ∀ (s : State) (k : Packet),
    let v := leVal k.payload
    let kind := field v 192 4
    let step := field v 0 48
    let group := if kind = 1 then field v 48 16 else 0
    let val := (field v 64 64, if kind = 1 then field v 128 64 else 0)
    let r := s.round kind step group
    let joined := s.putRound { r with kids := r.kids ++ [(k.src, val.1, val.2)], poison := r.poison || k.poison }
    (k.src ∉ s.scalarChildren → s.takeScalar true k = s) ∧
    (k.src ∈ s.scalarChildren → (∀ x ∈ r.kids, x.1 ≠ k.src) →
      s.takeScalar true k = joined.roundTry (useRound kind) kind step group ∧ (r.own = none → s.takeScalar true k = joined)) ∧
    (k.src ∈ s.scalarChildren → (∃ x ∈ r.kids, x.1 = k.src) → s.takeScalar true k = s.count 4 2 12 1) ∧
    (s.scalarParent ≠ some k.src → s.takeScalar false k = s) ∧
    (s.scalarParent = some k.src → r.total = none → s.takeScalar false k = s.roundTotal (useRound kind) r val k.poison) ∧
    (s.scalarParent = some k.src → r.total.isSome = true → s.takeScalar false k = s)) ∧
  (
  ∀ (s : State) (via : Via) (k : Packet) (e : ShardEntry) (c : Nat) (t : Slot),
    let d := leVal (k.payload.take 16)
    let i := field d 0 32
    let step := field d 32 48
    let j := field d 80 12
    let fmt := field d 96 8
    let body := k.payload.drop 16
    let codes := if fmt = 0x38 then codes16 body else (chunks 4 (field d 112 10 + 1) body).map leVal
    let hd : Held := { rank := t.h + c, chunk := j, fmt := if k.poison then fmtPoison else fmt, scale := field d 104 8, codes := codes }
    shardEntry s.form i = some e → (s.childrenOf i).findIdx? (fun x => decide (x = k.src)) = some c → (s.shard i).slot = some t →
    i < s.shards.length → t.step = step → fmt = partialFmt e → bit d 92 = false →
    (s.shard i).rcvdPast.contains (step, hostRanks s.form i + c, j) = false → t.empties.contains (t.h + c) = false →
    (t.rcvd.contains (t.h + c, j) = true →
      s.takeContrib via k none = (s.bookArrival i step (32 + k.payload.length)).count 4 via.index 12 1) ∧
    (t.rcvd.contains (t.h + c, j) = false → j < chunkCount e.n → field d 112 10 = chunkLen e.n j → ∃ u : State,
      s.takeContrib via k none = (u.slotCheck i).countTry step ∧
        (u.shard i).slot = some (({ t with rcvd := t.rcvd ++ [(t.h + c, j)] } : Slot).give e.wx hd))) ∧
  (
  ∀ (s : State) (k : Packet),
    let v := leVal k.payload
    let head := leVal (k.payload.take 32)
    let gen := field head 0 32
    let idle := s.live cAdopt = false ∧ s.live cRestore = false
    let held := s.near.ward = k.src ∧ s.near.gen = gen
    let begun : State := { s with near := { ward := k.src, gen := gen, base := s.form.hdr.nearBase } }
    let takes := fun (u : State) =>
      (bit head 37 = true → s.takeFlacon k = u.nearLast k.src gen (field head 128 64)) ∧
      (bit head 37 = false → s.takeFlacon k = (u.nearTake head (k.payload.drop 32)).nearProgress k.src gen u.near.bytes u.near.dropped)
    (s.ward ≠ some k.src → s.takeFlacon k = s) ∧
    (s.ward = some k.src → ¬ idle → s.takeFlacon k = s.nearAck k.src gen 3) ∧
    (s.ward = some k.src → idle → s.near.ward = k.src → gen < s.near.gen → s.takeFlacon k = s.nearAck k.src gen 4) ∧
    (s.ward = some k.src → idle → held → takes s) ∧
    (s.ward = some k.src → idle → s.near.ward ≠ k.src ∨ s.near.gen < gen → takes begun) ∧
    (s.emission = none → s.takeFlaconAck k = s) ∧
    (∀ em, s.emission = some em → em.gen = field v 0 32 → em.near = true → s.keeper = some k.src →
      (field v 32 4 = 0 → s.takeFlaconAck k = s) ∧
      (field v 32 4 = 1 → s.takeFlaconAck k = (s.modEmission (fun e => { e with nearAcked := true, nearTime := s.time })).emissionCheck) ∧
      (field v 32 4 = 2 ∨ field v 32 4 = 3 ∨ field v 32 4 = 4 →
        s.takeFlaconAck k = s.emissionEnd em.gen true (field v 32 4) ∧ (s.takeFlaconAck k).emission = none)) ∧
    ((∀ o ∈ s.ops, o.code ≠ cRestore) → s.takeRestore k = s) ∧
    (∀ o, s.ops.find? (fun o => decide (o.code = cRestore)) = some o → o.p 12 1 = 0 → o.p 8 4 = gen → s.keeper = some k.src →
      s.takeRestore k = s.modOp o.handle (fun o => { o with
        near := o.near ++ [(field head 32 2 * 8 + field head 34 3, field head 64 40, k.payload.drop 32)]
        done := o.done + (k.payload.drop 32).length, committedPoint := o.committedPoint || bit head 37 })) ∧
    (s.fabric.fences.contains (field v 0 20) = false → s.fenceEa (field v 0 20) =
      (s.modFabric (fun f => { f with fences := f.fences ++ [field v 0 20] })).fenceEffects) ∧
    (s.fabric.fences.contains (field v 0 20) = true → s.fabric.notices.contains (field v 0 20, s.fabric.epoch) = true → s.takeNotice k = s) ∧
    (s.fabric.fences.contains (field v 0 20) = true → s.fabric.notices.contains (field v 0 20, s.fabric.epoch) = false → s.takeNotice k =
      (s.modFabric (fun f => { f with notices := f.notices ++ [(field v 0 20, f.epoch)] })).sendNotices (field v 0 20) 2 k.src)) ∧
  (
  ∀ (s : State) (k : Packet),
    let v := leVal (k.payload.take 16)
    let w : BitVec 512 := BitVec.ofNat 512 (leVal (slice k.payload 16 64))
    let ran := s.request 1 w true (commandIn w)
    (bit v 36 = true ∨ s.level < 1 → s.relay k = s) ∧
    (bit v 36 = false → 1 ≤ s.level → s.mcTaken = true → s.relay k = s.holdPacket (.link 2) k) ∧
    (bit v 36 = false → 1 ≤ s.level → s.mcTaken = false → ∀ a, ran.2 = some a →
      s.relay k = ran.1.send 0x0A (field v 0 20) false (leBytes 16 (v % 2 ^ 36 + 2 ^ 36) ++ leBytes 64 a.toNat)))

/-- Bring-up of a link: LINK_UP that rises starts it with cleared books and a DISCOVER; a DISCOVER is repeated each 100 µs until the
HELLO_ACK comes; a link that falls, or whose adapter reports an error, is down with its peer lost; a fenced link stays fenced (R260, R262,
R310). The timers of an UP link: a HEARTBEAT after 100 µs without a packet sent; at the eighth 100 µs interval in which none came the peer
is lost; credits that are owed for 200 ns with nothing to send go in a HELLO (R253, R262). A transmission takes the first packet that may
leave by lane priority, stamps it with SEQ and the credits owed, and pays its credits (R253 to R256). -/
def Obligations.LinkLife : Prop :=
  (
  ∀ (s : State) (p : Fin 2), OnLink s p →
    let l := s.link p
    let rise := s.modLink p (fun l => { l with pinUp := true, retrain := false })
    let stays : LinkSt := if l.st = .fenced then .fenced else .down
    (l.pinUp = false → l.st = .fenced ∨ s.present 2 = false → exec (.pptLinkUp p) s = .next rise) ∧
    (l.pinUp = false → l.st ≠ .fenced → s.present 2 = true → exec (.pptLinkUp p) s = .next (rise.startBringup p) ∧
      ((rise.startBringup p).link p).st = .bringup ∧ ((rise.startBringup p).link p).seqTx = [0, 0, 0] ∧
      ((rise.startBringup p).link p).credits = [0, 0, 0] ∧
      ((rise.startBringup p).link p).queue = [[rise.packet 0x01 0 false (helloPayload rise 0 p false)], [], []]) ∧
    (l.pinUp = true → exec (.pptLinkUp p) s = .next s) ∧
    (l.pinUp = true → s.present 2 = true → exec (.pptLinkDown p) s = .next (s.hold ((s.linkLost p 1 stays).modLink p (fun l =>
      { l with pinUp := false })))) ∧
    (l.pinUp = true → s.present 2 = false → exec (.pptLinkDown p) s = .next (s.modLink p (fun l => { l with pinUp := false }))) ∧
    (l.pinUp = false → exec (.pptLinkDown p) s = .next s) ∧
    (s.present 2 = true → exec (.pptErr p) s = .next (s.hold ((s.linkLost p 1 stays).modLink p (fun l => { l with retrain := true })))) ∧
    (s.present 2 = true → l.st = .bringup → l.ackRcvd = false → l.discoverAt + 100000 ≤ s.time → l.discovers ≠ 8 ∨ l.silent = true →
      exec (.discoverTimer p) s = .next ((s.modLink p (fun l => { l with discovers := l.discovers + 1, discoverAt := s.time })).sendHello p 0 false)) ∧
    (s.present 2 = true → l.st = .bringup → l.ackRcvd = false → l.discoverAt + 100000 ≤ s.time → l.discovers = 8 → l.silent = false →
      exec (.discoverTimer p) s = .next ((((s.post 0x0202 1 7 p 0 0).modLink p (fun l => { l with silent := true })).modLink p (fun l =>
        { l with discovers := l.discovers + 1, discoverAt := s.time })).sendHello p 0 false))) ∧
  (
  ∀ (s : State) (p : Fin 2), OnLink s p → s.present 2 = true →
    let l := s.link p
    (l.st = .up → l.lastTx + 100000 ≤ s.time →
      exec (.heartbeatSend p) s = .next ((s.modLink p (fun l => { l with lastTx := s.time })).sendHello p 1 false)) ∧
    (l.st ≠ .up ∨ s.time < l.lastTx + 100000 → exec (.heartbeatSend p) s = .next s) ∧
    (l.st = .up → l.checkAt / 100000 < s.time / 100000 →
      let m := if l.rxSince then 0 else l.misses + 1
      let checked := s.modLink p (fun l => { l with misses := m, rxSince := false, checkAt := s.time })
      (m < 8 → exec (.heartbeatCheck p) s = .next checked) ∧
      (8 ≤ m → exec (.heartbeatCheck p) s = .next (s.hold (checked.linkLost p 0 .down)))) ∧
    (l.st = .up → (∃ x ∈ l.owed, 0 < x) → (∀ q ∈ l.queue, q = []) → l.owedAt + 200 ≤ s.time →
      exec (.creditHelloTimer p) s = .next (s.sendHello p 2 false)) ∧
    (l.st = .up ∨ l.st = .bringup → ∀ ln k at', l.nextTx s.time = some (ln, k, at') →
      exec (.packetTransmit p) s = .next (s.modLink p (fun l => { l with
        queue := modAt l.queue ln (fun q => q.eraseIdx at'), seqTx := modAt l.seqTx ln (fun x => (x + 1) % 4096),
        credits := if creditFree k then l.credits else modAt l.credits ln (fun x => x - k.cost),
        owed := l.owed.map (fun x => x - min x 255), lastTx := s.time,
        helloAt := if creditFree k then some s.time else l.helloAt,
        sent := [stampPacket k (l.seqTx.getD ln 0) (l.owed.map (fun x => min x 255))] })) ∧
      (creditFree k = false → l.st = .up ∧ k.cost ≤ l.credits.getD (laneOf k.type) 0)) ∧
    (l.nextTx s.time = none → exec (.packetTransmit p) s = .next s))

/-! ### Batches, pages for the host, the Blotter -/

/-- An open batch that is 500 ns old is closed. A page goes out in an EGRESS window that has credit: the first closed batch of the window,
and in the lowest-indexed window the pages that wait, captures before far pages and the Blotter's last; without credit nothing does (R245,
R246, R292). Packets that have waited 10 ms for an epoch to come leave their buffers and are dropped; the others stay (R252). -/
def Obligations.BatchesPagesEpochs : Prop :=
  (
  ∀ s : State, Awake s →
    (∀ dst : Ea, (∃ b ∈ s.fabric.batches, b.dst = dst.toNat ∧ b.closed = false ∧ b.since + 500 ≤ s.time) →
      ∃ t, exec (.batchTimeout dst) s = .next t ∧ (∀ b ∈ t.fabric.batches, b.dst = dst.toNat → b.closed = true) ∧
        { t with fabric := s.fabric } = s ∧ { t.fabric with batches := s.fabric.batches } = s.fabric) ∧
    (∀ dst : Ea, (∀ b ∈ s.fabric.batches, b.dst = dst.toNat → b.closed = true ∨ s.time < b.since + 500) →
      exec (.batchTimeout dst) s = .next s) ∧
    (∀ (win : Byte) (e : WinEntry), s.form.windows[win.toNat]? = some e → s.formula.isSome = true → s.present 1 = true → e.enable = true →
      e.kind = 2 →
      let w := win.toNat
      let x := s.win w
      let first := s.fabric.batches.find? (fun b => b.closed && decide (b.win = w))
      let page := fun (kind : Nat) => s.outPages.find? (fun p => decide (p.kind = kind))
      (e.issued ≤ x.returned - x.consumed → exec (.egressPagePublish win) s = .next s) ∧
      (x.returned - x.consumed < e.issued →
        (∀ b, first = some b → exec (.egressPagePublish win) s = .next (s.hold (s.publishBatch w e.issued b)) ∧
          (w < s.wins.length → ((s.publishBatch w e.issued b).win w).returned = x.returned + 1 ∧
            (s.publishBatch w e.issued b).nextBseq b.dst = (s.nextBseq b.dst + 1) % 4096)) ∧
        (first = none → w = s.egressWindow →
          (∀ p, page 2 = some p → exec (.egressPagePublish win) s = .next (s.hold (s.publishStream w e.issued p))) ∧
          (∀ p, page 2 = none → page 1 = some p → exec (.egressPagePublish win) s = .next (s.hold (s.publishStream w e.issued p))) ∧
          (∀ p, page 2 = none → page 1 = none → s.blotterPage = some p →
            exec (.egressPagePublish win) s = .next (s.hold (s.publishBlotter w e.issued p)))) ∧
        (first = none → w ≠ s.egressWindow → exec (.egressPagePublish win) s = .next s)))) ∧
  (
  ∀ s : State, Awake s → ∃ t, exec .epochExpired s = .next t ∧
    t.fabric.held = s.fabric.held.filter (fun h => !(!h.relayed && decide (s.fabric.epoch < h.pkt.epoch) &&
      decide (h.since + 10000000 ≤ s.time))) ∧
    t.fabric.epoch = s.fabric.epoch ∧ t.fabric.members = s.fabric.members ∧ t.shards = s.shards ∧ t.run = s.run ∧ t.dram = s.dram)

/-- The drain of the Blotter moves the records of the MC's buffer into the ring in RSEQ order, as long as background work may use the
channel of the next one, and changes nothing else of the block; a record that finds no room in the buffer of 4,096 is lost, and its RSEQ is
not used again (R16, R288). -/
def Obligations.BlotterDrain : Prop :=
  (∀ s : State, Awake s → (s.formula = none → exec .blotterDrain s = .next s) ∧
    (s.formula.isSome = true → ∃ t, exec .blotterDrain s = .next t ∧ { t with dram := s.dram, blotter := s.blotter } = s ∧
      (∀ r bs rest, s.blotter.buffer = (r, bs) :: rest → s.backgroundOpen (s.ringChannel r) = false → t.dram = s.dram ∧
        t.blotter.inRing = s.blotter.inRing ∧ s.blotter.buffer <+: t.blotter.buffer) ∧
      (s.blotter.buffer = [] → t.dram = s.dram) ∧
      (∀ r bs, s.blotter.buffer = [(r, bs)] → s.backgroundOpen (s.ringChannel r) = true → s.blotter.lost = [] →
        r < s.blotter.front + ringSlots s.blotter → Memory.wf s.dram → t.blotter.buffer = [] ∧ t.blotter.inRing = r + 1 ∧
        t.blotter.drained = s.blotter.drained ∧ t.dramBytes (ringAddr s.blotter r) bs.length = bs ∧
        ∀ a, a < ringAddr s.blotter r ∨ ringAddr s.blotter r + bs.length ≤ a → t.dramByte a = s.dramByte a))) ∧
  ∀ (b : Blotter) (r : List Byte),
    (b.buffer.length < 4096 → b.push r = { b with rseq := b.rseq + 1, buffer := b.buffer ++ [(b.rseq, r)] }) ∧
    (4096 ≤ b.buffer.length → (b.push r).buffer = b.buffer ∧ (b.push r).rseq = b.rseq + 1 ∧ (b.push r).drained = b.drained)

/-! ### Loans and the boot fetch -/

/-- A loan opens while no Formula is admitted and there is something to transfer, with the latencies of every channel known (R300), at
least 20 µs after the last one: every channel that is not fenced passes into PROC. With all of them in PROC it transfers: what was fetched
is there, requests that wait for the staging region are executed and answered as far as 1 MiB holds them, operations get the next of the
bytes that they read, a warm start those of its staged bundle, and every channel returns to MEM. With a Formula admitted a
request that waits is executed once the last channel that it waits for has been reached (R398). A boot fetch that is whole boots and the raise
goes on, or the raise fails with NO_FW (R329, R360, R362, R363). -/
def Obligations.LoansAndBootFetch : Prop :=
  ∀ s : State, Awake s →
    (s.formula = none → s.present 0 = true → 1 ≤ s.level ∨ s.fw.warmWait = true → s.loan.isOpen = false → s.allMem = true → s.loanWanted = true →
      s.latenciesKnown = true → s.loan.lastEnd = 0 ∨ s.loan.lastEnd + 20000 ≤ s.time → ∃ t, exec .loanStart s = .next t ∧ t.loan.isOpen = true ∧
        t.loan.transferred = false ∧
        (∀ ch, ch < channels s.cfg → (s.chan ch).fenced = false → (t.chan ch).mode = .toProc ∧ (t.chan ch).since = s.time ∧ (t.chan ch).rows = []) ∧
        { t with loan := s.loan, chans := s.chans } = s) ∧
    (s.formula.isSome = true ∨ s.loanWanted = false ∨ s.latenciesKnown = false → exec .loanStart s = .next s) ∧
    (s.loan.isOpen = true → s.loan.transferred = false →
      (∀ ch, ch < channels s.cfg → (s.chan ch).fenced = true ∨ ((s.chan ch).mode = .proc ∧ (s.chan ch).catchup = 0)) →
      (s.fw.warmWait = false → s.fw.stage = [] → ∃ t, exec .loanEnd s = .next t ∧ (t.allMem = false → t.loan.isOpen = true ∧ t.loan.transferred = true) ∧
        (t.allMem = true → t.loan = { lastEnd := s.time }) ∧ t.fw = s.fetchMore.fw ∧
        t.ops = s.bring (if s.fw.fetching then 0 else 2 ^ 20) s.ops ∧
        (∀ ch, ch < channels s.cfg → (t.chan ch).mode = .mem ∨ (t.chan ch).mode = .toMem) ∧
        { t with loan := s.loan, fw := s.fw, ops := s.ops, chans := s.chans, out := s.out } = s) ∧
      (s.fw.warmWait = false → exec .loanEnd s = .next (s.hold
        (let u : State := { s.loanMoves with loan := { s.loanMoves.loan with transferred := true } }
         when u.channelsToMem.loanCheck.fw.warmWait State.warmStart u.channelsToMem.loanCheck))) ∧
      (∀ ptr len, s.fw.warmWait = true → s.fw.pendingStage = some (ptr, len) →
        let n := s.fw.fetch.length
        let got := s.fw.fetch ++ s.dramBytes (ptr + n) (min (len - n) (2 ^ 20))
        ∃ t, exec .loanEnd s = .next t ∧
          (got.length < len → t.fw.fetch = got ∧ t.fw.warmWait = true ∧ t.smp.level = s.smp.level) ∧
          (len ≤ got.length → t.fw.warmWait = false ∧ t.smp.level = 1))) ∧
    (∀ (room : Nat) (o : LongOp), o.st = .running → s.bring room [o] =
      [{ o with input := o.input ++ s.dramBytes (o.p 8 8 + o.input.length) (min room (o.reads - o.input.length)) }]) ∧
    (∀ (m : Fin 4) (k : Cmd) (waits : List Nat) (u : State) (a : Rsp), s.fw.stage = [(m.toNat, waits)] → commandIn (s.mbx m).taken = some k →
      k.run (s.modFw (fun w => { w with stage := [] })) m (reqOf (s.mbx m).taken).par = (u, some a) →
      let word := a.word (reqCode (s.mbx m).taken) (reqOf (s.mbx m).taken).seq.toNat
      s.runStage = (u.keep m word).deliver m word) ∧
    (∀ (ch : Fin 32) (m : Fin 4) (waits : List Nat), ch.toNat < channels s.cfg →
      let there := s.transitEnds ch false
      there.formula.isSome = true → there.fw.stage = [(m.toNat, waits)] →
      ((∀ c ∈ waits, there.chanReached c = true) → exec (.transitEnd ch false) s = .next (s.hold there.runStage)) ∧
      ((∃ c ∈ waits, there.chanReached c = false) → ∃ t, exec (.transitEnd ch false) s = .next t ∧
        t.fw.stage = [(m.toNat, waits.filter (fun c => !there.chanReached c))] ∧ t.smp = there.smp)) ∧
    (s.fw.fetching = true → s.loan.isOpen = false → ∀ f, s.fw.fetchFail = some f →
      exec .bootFetchDone s = .next (s.hold ((s.bootCheck f).failRaise 3)) ∧ ((s.bootCheck f).failRaise 3).smp.fail = 3) ∧
    (s.fw.fetching = true → s.loan.isOpen = false → s.fw.fetchFail = none → 4096 ≤ s.fw.fetch.length →
      mLen (manifestOf s.fw.fetch) ≤ s.fw.fetch.length → (s.codeSlot s.recoverySlot).fenced = false →
      bundleFault s.cfg s.fuses s.fw.fetch s.fw.fetch.length [] = none → s.smp.fuseDisabled = false → s.raiseFault s.smp.req = none →
      1 ≤ s.smp.level → ∃ t, exec .bootFetchDone s = .next t ∧ t.fw.romMode = false ∧ t.fw.running = some (slotIx s.recoverySlot) ∧
        t.fw.fetching = false ∧ (t.codeSlot s.recoverySlot).st = .active ∧ (t.codeSlot s.recoverySlot).bundle = s.fw.fetch ∧
        (∀ i ∈ s.levelDomains s.smp.req, t.dom i = (s.dom i).request s.time))

/-! ### Handover, probation, core faults -/

/-- The hot handover: the standby core that has booted the LOADED slot makes it ready, or the slot becomes INVALID and FW_FALLBACK is
posted; at the handover point, never within an FW_COMMIT, the handover is held; ten seconds of probation end with the slot ACTIVE; microcode
banks switch on a channel with no segment and no TRANSIT after the next anchor (R369 to R372). The takeover from the handover point, stated
of no request held: the new image runs in probation on the other core with the old one held as its fallback; a core that fails its
self-check leaves the old one running, with the slot INVALID (R371, R372). -/
def Obligations.HandoverAndTakeover : Prop :=
  (
  ∀ s : State, Awake s →
    (∀ i, s.fw.standbyBoot = some i → s.fw.handover = .booting i →
      (∀ ok, (ok && s.slotBoots i.toNat && !s.fw.coreOut (1 - s.fw.core.toNat)) = true → exec (.standbyBootDone ok) s = .next (s.modFw (fun w =>
        { w with standbyBoot := none, handover := .ready i, standby := some i, dualSettings := true }))) ∧
      (∃ t, exec (.standbyBootDone false) s = .next t ∧ (t.codeSlot i.toNat).st = .invalid ∧ t.fw.handover = .none ∧
        t.fw.standbyBoot = none ∧ t.fw.running = s.fw.running)) ∧
    (s.fw.standbyBoot = none → ∀ ok, exec (.standbyBootDone ok) s = .next s) ∧
    (∀ i, s.fw.handover = .ready i →
      (s.run.anchored = true → (s.recordFor (s.run.lastStep + 1)).isSome = true → s.fw.commit = none →
        exec .handoverPoint s = .next (s.modFw (fun w => { w with handover := .held i }))) ∧
      (s.run.anchored = true → s.recordFor (s.run.lastStep + 1) = none → exec .handoverPoint s = .next s) ∧
      (s.run.anchored = false → s.fw.commit = none → s.fw.stage = [] →
        exec .handoverPoint s = .next (s.modFw (fun w => { w with handover := .held i }))) ∧
      (s.fw.commit.isSome = true ∨ (s.run.anchored = false ∧ s.fw.stage ≠ []) → exec .handoverPoint s = .next s)) ∧
    (∀ i, s.fw.running = some i → (s.codeSlot i.toNat).st = .probation →
      (s.fw.probationEnd ≤ s.time →
        exec .probationEnd s = .next ((s.modCode i.toNat (fun c => { c with st := .active })).post 0x0612 5 7 i.toNat 0 0)) ∧
      (s.time < s.fw.probationEnd → exec .probationEnd s = .next s)) ∧
    (∀ ch : Fin 32, ch.toNat < channels s.cfg → s.fw.bankArmed = true → (s.chan ch).bankPending = true → (s.atmCh ch).seg = none →
      ((s.chan ch).mode = .mem ∨ (s.chan ch).mode = .proc → exec (.microcodeBankSwitch ch) s = .next (s.modChan ch (fun c =>
        { c with bank1 := !c.bank1, bankPending := false }))) ∧
      ((s.chan ch).mode = .toProc ∨ (s.chan ch).mode = .toMem → exec (.microcodeBankSwitch ch) s = .next s))) ∧
  (
  ∀ (s : State) (i j : Fin 2), Awake s → s.fw.handover = .held i → s.fw.running = some j → i ≠ j → s.fw.heldQueue = [] → s.fabric.held = [] →
    (∃ t, exec (.takeover true) s = .next t ∧ t.fw.running = some i ∧ t.fw.fallback = some j ∧ t.fw.core ≠ s.fw.core ∧
      t.fw.probationEnd = s.time + 10000000000 ∧ t.fw.handover = .none ∧ (t.codeSlot i.toNat).st = .probation ∧
      (t.codeSlot j.toNat).st = .superseded ∧ t.run = s.run ∧ t.dram = s.dram ∧ t.shards = s.shards ∧ t.ops = s.ops ∧
      t.formula = s.formula) ∧
    (exec (.takeover false) s = .next (s.hold (((((s.modFw (fun w => { w with standby := none })).coreLost).slotFailed i.toNat 2).error
      (fallbackError i.toNat)).runHeld))))

/-- The faults of the MC: a fault of a fenced core is recorded only; one of the standby core, stated outside a handover, fences it; one of the
active core with no fallback held fences it and the other core goes on, or with no other core it is a class X error; a fault of the new core
in probation resumes the old image. A watchdog that expires is the fault of cause 1. The mixer's fault fences the key island and is recorded
(R322, R372, R382, R385). -/
def Obligations.CoreFaults : Prop :=
  ∀ (s : State) (core : Fin 2) (cause : BitVec 2), Awake s → s.wrst = false →
    (s.present 0 = true →
      let faults := fun (n : Nat) (t : State) => (n = 1 → exec (.watchdogExpiry core) s = .next (s.hold t)) ∧
        (n = cause.toNat → exec (.mcCoreFault core cause) s = .next (s.hold t))
      ∀ n, n = 1 ∨ n = cause.toNat →
        (s.fw.coreOut core = true → faults n (s.error (coreError core n))) ∧
        (s.fw.coreOut core = false → core ≠ s.fw.core → s.fw.handover = .none → ∃ t, faults n t ∧ t.fw.coreOut core = true ∧
          t.fw.standby = none ∧ t.fw.running = s.fw.running ∧ t.fw.core = s.fw.core) ∧
        (s.fw.coreOut core = false → core = s.fw.core → s.fw.fallback = none → s.fw.coreOut (otherCore core) = true → ∃ t, faults n t ∧
          t.fall = true ∧ t.level = 0) ∧
        (s.fw.coreOut core = false → core = s.fw.core → s.fw.fallback = none → s.fw.coreOut (otherCore core) = false → s.fw.heldQueue = [] →
          s.fabric.held = [] → ∃ t, faults n t ∧ t.fw.coreOut core = true ∧ t.fw.core = otherCore core ∧ t.fw.handover = .none ∧
            t.level = s.level ∧ t.run.nextStep = s.run.nextStep ∧ t.formula = s.formula) ∧
        (∀ i j, s.fw.coreOut core = false → core = s.fw.core → s.fw.running = some i → s.fw.fallback = some j →
          (s.codeSlot i.toNat).st = .probation → s.fw.coreOut (otherCore core) = false → faults n (s.fallBack i j n))) ∧
    (s.present 0 = false → exec (.watchdogExpiry core) s = .next s ∧ exec (.mcCoreFault core cause) s = .next s) ∧
    (s.present 3 = true → ∃ t, exec .mixerSelfCheck s = .next t ∧ t.keyFenced = true ∧ t.log.rnum = s.log.rnum + 1 ∧ t.entropy = s.entropy) ∧
    (s.present 3 = false → exec .mixerSelfCheck s = .next s)

/-! ### The Fuse Port, entropy, scrub -/

/-- The Fuse Port: a read that is out takes its answer, the third of a word of a re-read ends the word; a read that is not answered is tried
once more, and then counts as no answer. A bit of FW_COMMIT is burned once the supply is there and the port is free, and the word is then
read at all three margins; a bit that verifies is followed by the next, and the last one ends FW_COMMIT with the slot COMMITTED; no supply
within 10 ms, or a bit that does not verify, ends FW_COMMIT as a failure, and the requests that waited for its end run (R311, R312, R339,
R355, R373; that the word of a bit that does not verify is reported as a re-read reports it is the model's reading, log entry 130). -/
def Obligations.FusePort : Prop :=
  ∀ s : State, Awake s →
    (∀ p (w : Word32), s.fusePass = some p →
      (p.got.length < 2 → exec (.fspValid w) s = .next { s with fusePass := some { p with margin := p.margin + 1, got := p.got ++ [some w], tries := 0 } }) ∧
      (2 ≤ p.got.length → p.verify = none → p.word < 127 → exec (.fspValid w) s = .next (s.hold (s.afterCommit (fun s =>
        { s.reread p.word (p.got ++ [some w]) with fusePass := some { word := p.word + 1, margin := 0 } })))) ∧
      (p.tries = 0 → exec .fspReadTimeout s = .next { s with fusePass := some { p with tries := 1 } }) ∧
      (p.tries ≠ 0 → p.got.length < 2 → exec .fspReadTimeout s = .next
        { s with fusePass := some { p with margin := p.margin + 1, got := p.got ++ [none], tries := 0 } })) ∧
    (∀ p b c, s.fusePass = some p → p.verify = some b → s.fw.commit = some c → p.got.length = 2 → ∀ w : Word32,
      let good := ∀ o ∈ p.got ++ [some w], ∃ v : Word32, o = some v ∧ bit v.toNat b = true
      let done : State := { s with fusePass := none }
      (good → ∀ x y rest, c.bits = x :: y :: rest → ∃ t, exec (.fspValid w) s = .next t ∧
        t.fw.commit = some { c with bits := y :: rest, since := s.time, burning := false, revoked := if x.1 = 0 then x.2 - 3 else c.revoked } ∧
        { t.fuses with due := s.fuses.due } = s.fuses.burn x.1 x.2) ∧
      (good → ∀ x i, c.bits = [x] → s.fw.running = some i → s.fw.heldQueue = [] → s.fabric.held = [] → ∃ t, exec (.fspValid w) s = .next t ∧
        t.fw.commit = none ∧ (t.codeSlot i.toNat).st = .committed ∧ { t.fuses with due := s.fuses.due } = s.fuses.burn x.1 x.2) ∧
      (¬ good → exec (.fspValid w) s = .next (s.hold (((done.reportMarginal (c.bits.headD (0, 0)).1 1 1 []).commitFail c).runHeld)))) ∧
    (∀ w : Word32, s.fusePass = none → exec (.fspValid w) s = .next s ∧ exec .fspReadTimeout s = .next s) ∧
    (∀ c, s.fw.commit = some c →
      (c.burning = false → s.fusePass = none → exec .fspVppAck s = .next (s.modFw (fun f => { f with commit := some { c with burning := true } }))) ∧
      (c.burning = false → s.fusePass.isSome = true → exec .fspVppAck s = .next s) ∧
      (c.burning = false → c.since + 10000000 ≤ s.time → exec .vppTimeout s = .next (s.hold ((s.commitFail c).runHeld)) ∧
        (s.commitFail c).fw.commit = none ∧ ∀ m : Fin 4, c.mbx = m.toNat →
          let w := (s.mbx m).taken.toNat
          ((s.commitFail c).mbx m).rsp = ({ status := fwFuse, detail := (c.bits.headD (0, 0)).1 } : Rsp).word (field w 0 16) (field w 16 16)) ∧
      (c.burning = false → s.time < c.since + 10000000 → exec .vppTimeout s = .next s) ∧
      (c.burning = true → s.fusePass = none → exec .fspDone s = .next { s with
        fusePass := some { word := (c.bits.headD (0, 0)).1, margin := 0, verify := some (c.bits.headD (0, 0)).2 } })) ∧
    (s.fw.commit = none → exec .fspVppAck s = .next s ∧ exec .vppTimeout s = .next s ∧ exec .fspDone s = .next s)

/-- The entropy source of a powered key island: ready after its start-up tests; a failure of a health test makes it not ready and is
posted; a second one of the power cycle fences it, and is recorded (R238, R239). Patrol scrub at S2 and above, of a channel in TRANSIT or
PROC on which no refresh is due and no segment runs: a corrected word and an uncorrectable one are counted and recorded; the last word
completes the pass and clears the debt; a pass that is incomplete for 24 h is reported, and again each further 24 h (R16, R168, R395). -/
def Obligations.EntropyAndScrub : Prop :=
  (
  ∀ (s : State) (proportion : Bool), Awake s → s.present 3 = true →
    let n := s.entropy.failures + 1
    (s.entropy.fenced = false → exec .esStartupDone s = .next { s with entropy := { s.entropy with ready := true } }) ∧
    (s.entropy.fenced = true → exec .esStartupDone s = .next s ∧ exec (.entropyFail proportion) s = .next s) ∧
    (s.entropy.fenced = false → s.entropy.failures = 0 → exec (.entropyFail proportion) s = .next
      (({ s with entropy := { s.entropy with ready := false, failures := n, fenced := false } } : State).post 0x0601 5 7 (ofBool proportion) 0 0)) ∧
    (s.entropy.fenced = false → s.entropy.failures ≠ 0 → ∃ t, exec (.entropyFail proportion) s = .next t ∧ t.entropy.fenced = true ∧
      t.entropy.ready = false ∧ t.entropy.failures = n ∧ t.log.rnum = s.log.rnum + 1)) ∧
  (
  ∀ (s : State) (ch : Fin 32), OnChannel s ch →
    let c := s.chan ch
    let begun := s.modChan ch (fun c => { c with scrubStart := if c.scrubStart = 0 then s.time else c.scrubStart })
    (s.backgroundOpen ch = true → c.mode ≠ .mem ∧ c.fenced = false ∧ (s.atmCh ch).seg = none ∧
      ∀ (pc : Fin 2) (bank : Fin 32), s.refreshDue ch pc bank = false) ∧
    (2 ≤ s.level → s.backgroundOpen ch = true →
      exec (.patrolScrub ch .clean false) s = .next begun ∧
      (∀ a, exec (.patrolScrub ch (.corrected a) false) s = .next ((begun.count 3 ch 5 1).error
        { code := 0x0202, cls := .c, unit := 0x0002, index := ch, arg0 := a })) ∧
      (∀ a, exec (.patrolScrub ch (.uncorrectable a) false) s = .next ((begun.count 3 ch 7 1).error
        { code := 0x0204, cls := .c, unit := 0x0002, index := ch, arg0 := a })) ∧
      (∃ t, exec (.patrolScrub ch .clean true) s = .next t ∧ (t.chan ch).scrubStart = 0 ∧ (t.chan ch).scrubPosts = 0 ∧ t.scrubDebt ch = 0)) ∧
    (s.level < 2 ∨ s.backgroundOpen ch = false → ∀ sev last, exec (.patrolScrub ch sev last) s = .next s) ∧
    (86400 * (c.scrubPosts + 1) ≤ s.scrubDebt ch → s.present 0 = true → exec (.scrubDebt ch) s = .next
      (((s.modChan ch (fun c => { c with scrubPosts := c.scrubPosts + 1 })).setCounter 8 ch 1 (s.scrubDebt ch)).post 0x0104 0 7 ch (s.scrubDebt ch) 0)) ∧
    (s.scrubDebt ch < 86400 * (c.scrubPosts + 1) → exec (.scrubDebt ch) s = .next s))

/-! ### The ends of the operations that carry checks -/

/-- The end of ADMIT: a Formula whose checks all hold is installed and the operation is DONE with its report; one that fails a check is
FAILED with ADMISSION and the reason, and nothing is installed (R182, R183). The end of FW_LOAD and RECOVERY_LOAD: a bundle that fails a
check changes no slot; one that passes makes the other slot LOADED, or waits in staging, or boots with no fallback and ends the ROM mode
(R362, R365, R366, R375). Each waits until the latencies of every channel are known and the bytes
that it reads have been read (R300, R360). -/
def Obligations.AdmissionsAndBundlesEnd : Prop :=
  (
  ∀ (s : State) (h : BitVec 16) (o : LongOp), Awake s → s.findOp h.toNat = some o → o.code = cAdmit → o.st = .running → o.cancelling = false →
    (s.latenciesKnown = false ∨ s.opReady o = false → exec (.admitDone h) s = .next s) ∧
    (s.latenciesKnown = true → s.opReady o = true → admissionMap s.cfg s.stills = none ∨ s.mayAdmit (bit (o.p 20 1) 0) = false →
      exec (.admitDone h) s = .next (s.endOp o .failed stWrongState 0 o.result)) ∧
    (∀ map, s.latenciesKnown = true → s.opReady o = true → admissionMap s.cfg s.stills = some map → s.mayAdmit (bit (o.p 20 1) 0) = true →
      let img := s.staged o
      let v := s.verdict img
      let result := v.reason + v.report.length % 2 ^ 32 * 2 ^ 32 + ofBool (decide (o.p 32 4 < v.report.length)) * 2 ^ 64
      let told := s.writeDram (o.p 24 8) (v.report.take (o.p 32 4))
      (v.reason ≠ 0 → exec (.admitDone h) s = .next (told.endOp { o with done := o.total } .failed stAdmission v.reason result)) ∧
      (v.reason = 0 → exec (.admitDone h) s = .next (s.hold
        ((told.install (Formula.kept (formulaOf img)) v map (bit (o.p 20 1) 0)).endOp
          { o with done := o.total } .done stOk 0 result))) ∧
      (badImage img = true → v.reason = 0x01))) ∧
  (
  ∀ (s : State) (h : BitVec 16) (o : LongOp), Awake s → s.findOp h.toNat = some o → o.st = .running → o.cancelling = false →
    let bs := s.staged o
    let m := manifestOf bs
    let whole := { o with done := o.total, committedPoint := true }
    (s.latenciesKnown = false ∨ s.opReady o = false → exec (.fwLoadDone h) s = .next s ∧ exec (.recoveryLoadDone h) s = .next s) ∧
    (o.code = cFwLoad → s.latenciesKnown = true → s.opReady o = true →
      (∀ f, bundleFault s.cfg s.fuses bs bs.length s.activeImages = some f →
        exec (.fwLoadDone h) s = .next (s.endOp whole .failed f.1 f.2 o.result)) ∧
      (bundleFault s.cfg s.fuses bs bs.length s.activeImages = none → o.p 20 1 = 0 → ∃ t, exec (.fwLoadDone h) s = .next t ∧
        (t.codeSlot s.otherSlot).st = .loaded ∧ (t.codeSlot s.otherSlot).bundle = bundleBytes bs ∧ t.fw.running = s.fw.running ∧
        (∀ x ∈ t.ops, x.handle ≠ o.handle) ∧ t.retained.getLast? = some { whole with st := .done, status := stOk, detail := 0 }) ∧
      (bundleFault s.cfg s.fuses bs bs.length s.activeImages = none → o.p 20 1 ≠ 0 → exec (.fwLoadDone h) s = .next
        (((s.modFw (fun w => { w with pendingStage := some (o.p 8 8, o.p 16 4) })).post 0x0610 5 7 2 (mVersion m) (mSvn m)).endOp whole .done stOk 0
          o.result))) ∧
    (o.code = cRecoveryLoad → s.latenciesKnown = true → s.opReady o = true →
      (∀ f, bundleFault s.cfg s.fuses bs bs.length [] = some f →
        exec (.recoveryLoadDone h) s = .next (s.endOp whole .failed f.1 f.2 o.result)) ∧
      (bundleFault s.cfg s.fuses bs bs.length [] = none → ∃ t, exec (.recoveryLoadDone h) s = .next t ∧ t.fw.romMode = false ∧
        t.fw.running = some (slotIx s.recoverySlot) ∧ t.fw.soloBoot = true ∧ t.fw.fallback = none ∧
        (t.codeSlot s.recoverySlot).st = .active ∧ (t.codeSlot s.recoverySlot).bundle = bundleBytes bs)))

/-- The EVAL window opens at the step boundary: FROZEN in the readiness words and the channels to MEM, or first the copy of E as a live
operation. RUN_STOP takes effect there: the channels return to MEM and the admission ends; RUN_STOPPED waits until every channel is there,
and is posted when the last one enters MEM (R295, R341). -/
def Obligations.EvalWindowAndRunStop : Prop :=
  (∀ s : State, Awake s → s.formula.isSome = true → s.atBoundary = true →
    (s.run.eval = .requested false → ∃ t, exec .evalWindowOpen s = .next t ∧ t.run.eval = .opened ∧
      (∀ ch, ch < channels s.cfg → (t.chan ch).mode = .mem ∨ (t.chan ch).mode = .toMem) ∧
      (∀ i ∈ s.ownedShards, i < s.shards.length → (t.shard i).ready.frozen = true) ∧
      (∀ i, i ∉ s.ownedShards → t.shard i = s.shard i)) ∧
    (s.run.eval = .requested true → s.opConflict { handle := 0, code := cEvalOpen, st := .running } = false → s.ops.length < 8 →
      ∃ t, exec .evalWindowOpen s = .next t ∧ t.run.eval = .decanting ∧ t.chans = s.chans ∧ t.live cEvalOpen = true ∧
        (∀ i ∈ s.ownedShards, i < s.shards.length → (t.shard i).ready.frozen = true)) ∧
    (s.run.eval = .closed ∨ s.run.eval = .opened → exec .evalWindowOpen s = .next s) ∧
    (s.run.stopping = true → ∃ t, exec .runStopEffect s = .next t ∧ t.formula = none ∧ t.run.anchored = false ∧ t.run.stopping = false ∧
      (∀ ch, ch < channels s.cfg → ((t.chan ch).mode = .mem ∨ (t.chan ch).mode = .toMem) ∧ (t.chan ch).marks = []) ∧ t.smp.level = s.smp.level ∧ t.run.stopHold = if t.allMem then none else some s.run.lastStep) ∧
    (s.run.stopping = false → exec .runStopEffect s = .next s)) ∧
  ∀ (s : State) (ch : Fin 32) (n : Nat), OnChannel s ch → s.run.stopHold = some n → s.loan.isOpen = false → s.fw.levelHold ≠ 1 → s.fw.stage = [] →
    (s.chan ch).mode = .toMem → (s.chan ch).since + 120 ≤ s.time →
    ((∀ j, j < channels s.cfg → j ≠ ch → (s.chan j).mode = .mem) → ∃ t, exec (.transitEnd ch false) s = .next t ∧ t.run.stopHold = none ∧
      t.smp = (s.post 0x0102 0 7 s.fabric.epoch n 0).smp) ∧
    ((∃ j, j < channels s.cfg ∧ j ≠ ch.toNat ∧ (s.chan j).mode ≠ .mem) → ∃ t, exec (.transitEnd ch false) s = .next t ∧
      t.run.stopHold = some n ∧ t.smp = s.smp)
end

