-- ==== Sys2Proof/Laws/Outcome.lean ====
section
/-! SUPPORT. The shapes of a meaning: what a command at a port, of the engine, on a channel, a link or a domain answers, and what every
answer keeps. -/

namespace Sys2Proof.Machine

/-- An engine that takes commands takes this one. -/
theorem act_awake (s : State) (f : State → State) (h : Awake s) : act s f = .next (s.hold (f s)) := by simp [act, h.1, h.2]

/-- In reset nothing happens. -/
theorem act_porst (s : State) (f : State → State) (h : s.testing = false) (hp : s.porst = true) : act s f = .next s := by
  simp [act, h, hp]

/-- A port that works takes its command. -/
theorem port_open (s : State) (f : State → State) (h : s.testing = false) : port s f = .next (s.hold (f s)) := by simp [port, h]

/-- While a test instruction is in effect no command is taken. -/
theorem act_testing (s : State) (f : State → State) (h : s.testing = true) : act s f = .refused .noPromise := by simp [act, h]

theorem onChan_awake (s : State) (ch : Fin 32) (f : State → State) (h : OnChannel s ch) : onChan s ch f = .next (s.hold (f s)) := by
  have : ¬ channels s.cfg ≤ ch := Nat.not_le.mpr h.2
  simp only [onChan, if_neg this, act_awake s f h.1]

theorem onPort_open (s : State) (ch : Fin 32) (f : State → State) (h : Ported s ch) : onPort s ch f = .next (s.hold (f s)) := by
  have : ¬ channels s.cfg ≤ ch := Nat.not_le.mpr h.2
  simp only [onPort, if_neg this, port_open s f h.1]

theorem onLink_awake (s : State) (p : Fin 2) (f : State → State) (h : OnLink s p) : onLink s p f = .next (s.hold (f s)) := by
  have : ¬ links s.cfg ≤ p := Nat.not_le.mpr h.2
  simp only [onLink, if_neg this, act_awake s f h.1]

theorem onDomain_awake (s : State) (d : Domain) (f : State → State) (h : OnDomain s d) : onDomain s d f = .next (s.hold (f s)) := by
  simp only [onDomain, h.2, if_true, act_awake s f h.1]

theorem onLogical_awake (s : State) (k : Fin 8) (f : State → State) (h : Awake s) (hk : k.toNat < logicals s.cfg) :
    onLogical s k f = .next (s.hold (f s)) := by
  have : ¬ logicals s.cfg ≤ k := Nat.not_le.mpr hk
  simp only [onLogical, if_neg this, act_awake s f h]

theorem onPhysical_awake (s : State) (k : Fin 9) (f : State → State) (h : Awake s) (hk : k.toNat < physicals s.cfg) :
    onPhysical s k f = .next (s.hold (f s)) := by
  have : ¬ physicals s.cfg ≤ k := Nat.not_le.mpr hk
  simp only [onPhysical, if_neg this, act_awake s f h]

/-- Holding a state that differs from itself in nothing held changes nothing. -/
theorem hold_of (s t : State) (h1 : t.cfg = s.cfg) (h2 : t.pending = s.pending) (h3 : t.porst = s.porst) : s.hold t = t := by
  cases t
  simp_all [State.hold]

@[simp] theorem hold_cfg (s t : State) : (s.hold t).cfg = s.cfg := rfl
@[simp] theorem hold_pending (s t : State) : (s.hold t).pending = s.pending := rfl
@[simp] theorem hold_porst (s t : State) : (s.hold t).porst = s.porst := rfl

end Sys2Proof.Machine
end

