-- ==== Sys2Proof/Laws/Vectors.lean ====
section
/-! SUPPORT. Reading a fixed number of like things after a change of one or of all of them. -/

namespace Sys2Proof.Bits

variable {α : Type} {n : Nat}

/-- Reading the entry that was changed. -/
@[simp] theorem getV_modV_self (v : Vector α n) (i : Nat) (f : α → α) (d : α) (h : i < n) : getV (modV v i f) i d = f (getV v i d) := by
  simp [getV, modV, List.getD_eq_getElem?_getD, h]

/-- Reading another entry than the one changed. -/
theorem getV_modV_ne (v : Vector α n) (i j : Nat) (f : α → α) (d : α) (h : i ≠ j) : getV (modV v i f) j d = getV v j d := by
  simp [getV, modV, List.getD_eq_getElem?_getD, h]

/-- Reading an entry after every entry was changed. -/
theorem getV_mapV (v : Vector α n) (i : Nat) (f : α → α) (d : α) (h : i < n) : getV (mapV f v) i d = f (getV v i d) := by
  simp [getV, mapV, List.getD_eq_getElem?_getD, h]

/-- Two changes of one entry are one. -/
@[simp] theorem modV_modV (v : Vector α n) (i : Nat) (f g : α → α) : modV (modV v i f) i g = modV v i (fun x => g (f x)) := by
  apply Vector.ext
  intro j hj
  simp only [modV, Vector.getElem_mk, List.getElem_toArray, Vector.toList_mk, List.getElem_modify]
  split <;> rfl

/-- A change that leaves every entry leaves the whole. -/
theorem modV_id (v : Vector α n) (i : Nat) (f : α → α) (h : ∀ x, f x = x) : modV v i f = v := by
  apply Vector.ext
  intro j hj
  simp [modV, List.getElem_modify, h]

end Sys2Proof.Bits
end

