-- ==== Sys2Proof/Laws/Words.lean ====
section
/-! SUPPORT. The request and response words of a mailbox give back their fields (Table 12-8). -/

namespace Sys2Proof.Machine

open Sys2Proof.Bits

/-- The 64 request bytes as a number: no field reaches into another. -/
theorem word_toNat (code : Nat) (q : Req) : (q.word code).toNat =
    code % 2 ^ 16 + q.seq.toNat * 2 ^ 16 + q.token.toNat * 2 ^ 32 + q.par.toNat * 2 ^ 64 := by
  have h1 := q.seq.isLt
  have h2 := q.token.isLt
  have h3 := q.par.isLt
  have h4 : code % 2 ^ 16 < 2 ^ 16 := Nat.mod_lt _ (by decide)
  rw [Req.word, BitVec.toNat_ofNat, Nat.mod_eq_of_lt]
  omega

/-- CODE of the request bytes. -/
theorem reqCode_word (code : Nat) (q : Req) : reqCode (q.word code) = code % 2 ^ 16 := by
  rw [reqCode, field, word_toNat]
  simp only [Nat.shiftRight_eq_div_pow]
  omega
/-- The request bytes give back every field of the request. -/
theorem reqOf_word (code : Nat) (q : Req) : reqOf (q.word code) = q := by
  have h1 := q.seq.isLt
  have h2 := q.token.isLt
  have h3 := q.par.isLt
  obtain ⟨a, b, c⟩ := q
  have e1 : field (Req.word code ⟨a, b, c⟩).toNat 16 16 = a.toNat := by
    rw [field, word_toNat]; simp only [Nat.shiftRight_eq_div_pow]; omega
  have e2 : field (Req.word code ⟨a, b, c⟩).toNat 32 32 = b.toNat := by
    rw [field, word_toNat]; simp only [Nat.shiftRight_eq_div_pow]; omega
  have e3 : field (Req.word code ⟨a, b, c⟩).toNat 64 448 = c.toNat := by
    rw [field, word_toNat]; simp only [Nat.shiftRight_eq_div_pow]; omega
  simp only [reqOf, e1, e2, e3, BitVec.ofNat_toNat, BitVec.setWidth_eq]

/-- The 64 response bytes as a number. -/
theorem rsp_toNat (code seq : Nat) (r : Rsp) : (r.word code seq).toNat =
    code % 2 ^ 16 + seq % 2 ^ 16 * 2 ^ 16 + r.status % 2 ^ 16 * 2 ^ 32 + r.detail % 2 ^ 16 * 2 ^ 48 + r.body % 2 ^ 448 * 2 ^ 64 := by
  have h1 : code % 2 ^ 16 < 2 ^ 16 := Nat.mod_lt _ (by decide)
  have h2 : seq % 2 ^ 16 < 2 ^ 16 := Nat.mod_lt _ (by decide)
  have h3 : r.status % 2 ^ 16 < 2 ^ 16 := Nat.mod_lt _ (by decide)
  have h4 : r.detail % 2 ^ 16 < 2 ^ 16 := Nat.mod_lt _ (by decide)
  have h5 : r.body % 2 ^ 448 < 2 ^ 448 := Nat.mod_lt _ (by decide)
  rw [Rsp.word, BitVec.toNat_ofNat, Nat.mod_eq_of_lt]
  omega

/-- SEQ of the response bytes. -/
theorem rsp_seq (code seq : Nat) (r : Rsp) : field (r.word code seq).toNat 16 16 = seq % 2 ^ 16 := by
  rw [field, rsp_toNat]
  simp only [Nat.shiftRight_eq_div_pow]
  omega

/-- STATUS of the response bytes. -/
theorem rsp_status (code seq : Nat) (r : Rsp) : field (r.word code seq).toNat 32 16 = r.status % 2 ^ 16 := by
  rw [field, rsp_toNat]
  simp only [Nat.shiftRight_eq_div_pow]
  omega

end Sys2Proof.Machine
end

