-- ==== Sys2Proof/Laws/Mailbox.lean ====
section
/-! SUPPORT. What a mailbox row does with a request that its sequence accepts: the command runs on the state with the request entered,
and its answer is stored and delivered. -/

namespace Sys2Proof.Machine

open Sys2Proof.Bits

theorem mbx_modMbx (s : State) (m : Fin 4) (f : Mailbox → Mailbox) : (s.modMbx m f).mbx m = f (s.mbx m) := by
  simp [State.mbx, State.modMbx]

theorem mbx_modMbx_ne (s : State) (m j : Nat) (f : Mailbox → Mailbox) (h : m ≠ j) : (s.modMbx m f).mbx j = s.mbx j := by
  simp [State.mbx, State.modMbx, getV_modV_ne _ _ _ _ _ h]

theorem modMbx_modMbx (s : State) (m : Nat) (f g : Mailbox → Mailbox) :
    (s.modMbx m f).modMbx m g = s.modMbx m (fun b => g (f b)) := by
  simp [State.modMbx]

/-- The distance of a SEQ that follows LAST. -/
theorem seq_next (a : BitVec 16) : ((a + 1).toNat + 65536 - a.toNat) % 65536 = 1 := by
  have := a.isLt
  rw [BitVec.toNat_add, show (1 : BitVec 16).toNat = 1 from rfl]
  omega

/-- The state in which a doorbell is served: the request is copied, BUSY is 1. -/
def State.rung (s : State) (m : Fin 4) (code : Nat) (q : Req) : State :=
  ((s.modMbx m (fun b => { b with req := q.word code })).modMbx m
    (fun b => { b with taken := b.req, busy := true, rspValid := false })).answer 0 false

theorem mbx_answer (s : State) (m d : Nat) (e : Bool) : (s.answer d e).mbx m = s.mbx m := rfl

theorem rung_mbx (s : State) (m : Fin 4) (code : Nat) (q : Req) : (s.rung m code q).mbx m =
    { s.mbx m with req := q.word code, taken := q.word code, busy := true, rspValid := false } := by
  rw [State.rung, mbx_answer, mbx_modMbx, mbx_modMbx]

/-- A doorbell that is taken and served at once. -/
theorem mailboxRow_rings (k : Cmd) (s : State) (m : Fin 4) (q : Req) (h : Rings s m) :
    mailboxRow s m q k = .next (s.hold ((s.rung m k.code q).serve m (some k))) := by
  obtain ⟨ha, hl, hb, hh⟩ := h
  have hopen : s.smpOpen = true := by simp [State.smpOpen, ha.2]
  have hl' : ¬ (s.modMbx m (fun b => { b with req := q.word k.code })).level < 1 := Nat.not_lt.mpr hl
  have hbusy : ((s.modMbx m (fun b => { b with req := q.word k.code })).mbx m).busy = false := by rw [mbx_modMbx]; exact hb
  have hhold : (s.rung m k.code q).mcTaken = false := hh
  rw [mailboxRow, act_awake s _ ha]
  congr 2
  simp only [when, hopen, if_true]
  rw [show m.toNat = (m : Nat) from rfl, State.ring, if_neg hl', hbusy]
  simp only [Bool.false_eq_true, if_false]
  rw [show ((s.modMbx m (fun b => { b with req := q.word k.code })).modMbx m
    (fun b => { b with taken := b.req, busy := true, rspValid := false })).answer 0 false = s.rung m k.code q from rfl, hhold]
  simp

/-- The state with the request entered into the sequence. -/
theorem rung_entered (s : State) (m : Fin 4) (code : Nat) (q : Req) :
    (s.rung m code q).modMbx m (fun x => { x with last := q.seq, timer := (s.rung m code q).time }) = s.entered m code q := by
  simp [State.rung, State.modMbx, State.answer, State.modSmp, State.entered]

/-- A mailbox row whose request the sequence accepts: what its execution leaves and answers. -/
theorem mailboxRow_executes (k : Cmd) (s : State) (m : Fin 4) (q : Req) (h : InSequence s m q) (hc : k.code < 65536) (h2 : k.code ≠ 2) :
    mailboxRow s m q k = .next (s.hold (Ran.finish ((s.entered m k.code q).execute m (some k) q.par false) m k.code q)) := by
  obtain ⟨hring, hr, hs, ht, hq⟩ := h
  have hcode : k.code % 2 ^ 16 = k.code := Nat.mod_eq_of_lt hc
  have hd := seq_next (s.mbx m).last
  rw [← hq] at hd
  rw [mailboxRow_rings k s m q hring]
  congr 2
  have hrom : ((s.rung m k.code q).fw.romMode && decide ((m : Nat) ≠ 3) && decide (k.code ≠ 1) && decide (k.code ≠ 5)) = false := by
    rcases hr with hr | hr
    · have : (s.rung m k.code q).fw.romMode = false := hr
      simp [this]
    · subst hr; simp
  rw [State.serve, State.request, rung_mbx]
  simp only [reqCode_word, reqOf_word, hcode, hrom, h2, ht, hs, hd, and_false, if_false, if_true, Bool.false_eq_true, ne_eq,
    not_true, Nat.one_ne_zero]
  rw [rung_entered]
  unfold Ran.finish
  generalize (s.entered m k.code q).execute m (some k) q.par false = r
  obtain ⟨t, a⟩ := r
  cases a <;> rfl

/-- A mailbox row whose request passes every check and runs at once. -/
theorem mailboxRow_accepted (k : Cmd) (s : State) (m : Fin 4) (q : Req) (h : InSequence s m q)
    (hc : k.code < 65536) (h2 : k.code ≠ 2) (hj : k.judge (s.entered m k.code q) m q.par false = none)
    (hw : (k.stages (s.entered m k.code q) && !(s.entered m k.code q).stagingOpen) = false) :
    mailboxRow s m q k = .next (s.hold (Ran.finish (k.run (s.entered m k.code q) m q.par) m k.code q)) := by
  rw [mailboxRow_executes k s m q h hc h2, State.execute, hj]
  simp [hw]

/-- A mailbox row whose request passes every check and waits for the staging region (R398). -/
theorem mailboxRow_staged (k : Cmd) (s : State) (m : Fin 4) (q : Req) (h : InSequence s m q)
    (hc : k.code < 65536) (h2 : k.code ≠ 2) (hj : k.judge (s.entered m k.code q) m q.par false = none)
    (hw : (k.stages (s.entered m k.code q) && !(s.entered m k.code q).stagingOpen) = true) :
    mailboxRow s m q k = .next ((s.entered m k.code q).awaitStaging m) := by
  rw [mailboxRow_executes k s m q h hc h2, State.execute, hj]
  simp only [hw, if_true]
  exact congrArg _ (hold_of _ _ rfl rfl rfl)

/-! ### Rows of mailbox commands -/

/-- The meaning of a mailbox row. -/
theorem row_exec (c : Instr) (k : Cmd) (m : Fin 4) (q : Req) (s : State) (h : rowCmd c = some (k, m, q)) : exec c s = mailboxRow s m q k := by
  cases c <;> simp only [rowCmd, Option.some.injEq, Prod.mk.injEq, reduceCtorEq] at h <;> (obtain ⟨rfl, rfl, rfl⟩ := h; rfl)

/-- The code of a row is that of a command. -/
theorem row_code (c : Instr) (k : Cmd) (m : Fin 4) (q : Req) (h : rowCmd c = some (k, m, q)) : commandOf k.code = some k := by
  cases c <;> simp only [rowCmd, Option.some.injEq, Prod.mk.injEq, reduceCtorEq] at h <;> (obtain ⟨rfl, rfl, rfl⟩ := h; rfl)

/-- A code is a 16-bit value. -/
theorem row_lt (c : Instr) (k : Cmd) (m : Fin 4) (q : Req) (h : rowCmd c = some (k, m, q)) : k.code < 65536 := by
  cases c <;> simp only [rowCmd, Option.some.injEq, Prod.mk.injEq, reduceCtorEq] at h <;> (obtain ⟨rfl, rfl, rfl⟩ := h; decide)

/-- What the checks of a command read. -/
theorem judge_congr (k : Cmd) (s u : State) (m : Nat) (q : BitVec 448) (b : Bool) (h1 : u.romRefuses k.code = s.romRefuses k.code) (h2 : u.level = s.level)
    (hb : k.bad u q = k.bad s q) (hp : ∀ p n, u.pointerOk p n = s.pointerOk p n) : k.judge u m q b = k.judge s m q b := by
  unfold Cmd.judge
  simp only [h1, h2, hb, hp]

/-- Entering a request into its sequence changes no check of its command. -/
theorem row_judge (c : Instr) (k : Cmd) (m : Fin 4) (q : Req) (s : State) (h : rowCmd c = some (k, m, q)) :
    k.judge (s.entered m k.code q) m q.par false = k.judge s m q.par false := by
  refine judge_congr k s (s.entered m k.code q) m q.par false rfl rfl ?_ (fun _ _ => rfl)
  cases c <;> simp only [rowCmd, Option.some.injEq, Prod.mk.injEq, reduceCtorEq] at h <;> (obtain ⟨rfl, rfl, rfl⟩ := h; rfl)

/-- Entering a request into its sequence does not change whether its command transfers staging bytes. -/
theorem row_stages (c : Instr) (k : Cmd) (m : Fin 4) (q : Req) (s : State) (h : rowCmd c = some (k, m, q)) :
    k.stages (s.entered m k.code q) = k.stages s := by
  cases c <;> simp only [rowCmd, Option.some.injEq, Prod.mk.injEq, reduceCtorEq] at h <;> (obtain ⟨rfl, rfl, rfl⟩ := h; rfl)

/-- The doorbell register of a mailbox. -/
theorem smpReg_doorbell (m : Fin 4) : smpReg (BitVec.ofNat 16 (0x1080 + 0x100 * m.toNat)).toNat = some (.mbxDoorbell m) := by
  revert m; decide

/-- Keeping and delivering the answer of a request that was entered. -/
theorem finish_answered (u : State) (m : Fin 4) (code : Nat) (q : Req) (a : Rsp) (hc : code < 65536) (ha : a.status < 65536) :
    Ran.finish (u.entered m code q, some a) m code q = u.answered m code q a := by
  have e1 : field (a.word code q.seq.toNat).toNat 16 16 = q.seq.toNat := by rw [rsp_seq, Nat.mod_eq_of_lt q.seq.isLt]
  have e2 : field (a.word code q.seq.toNat).toNat 32 16 = a.status := by rw [rsp_status, show a.status % 2 ^ 16 = a.status from Nat.mod_eq_of_lt ha]
  simp only [Ran.finish, State.keep, State.deliver, State.modMbx, State.post, State.entered, State.answered, e1, e2, modV_modV]

/-- A row whose request is accepted runs its command on the state with the request entered. -/
theorem exec_accepted (c : Instr) (k : Cmd) (m : Fin 4) (q : Req) (s : State) (h : rowCmd c = some (k, m, q)) (ha : Accepted k s m q)
    (h2 : k.code ≠ 2) : exec c s = .next (s.hold (Ran.finish (k.run (s.entered m k.code q) m q.par) m k.code q)) := by
  rw [row_exec c k m q s h]
  refine mailboxRow_accepted k s m q ha.1 (row_lt c k m q h) h2 (by rw [row_judge c k m q s h]; exact ha.2.1) ?_
  rw [row_stages c k m q s h, show (s.entered m k.code q).stagingOpen = s.stagingOpen from rfl]
  cases hs : k.stages s
  · rfl
  · rw [ha.2.2 hs]; rfl

/-- A row whose command waits for the staging region: BUSY, entered into the sequence, not answered (R398). -/
theorem exec_staged (c : Instr) (k : Cmd) (m : Fin 4) (q : Req) (s : State) (h : rowCmd c = some (k, m, q)) (ha : Staged k s m q)
    (h2 : k.code ≠ 2) : exec c s = .next ((s.entered m k.code q).awaitStaging m) := by
  rw [row_exec c k m q s h]
  refine mailboxRow_staged k s m q ha.1 (row_lt c k m q h) h2 (by rw [row_judge c k m q s h]; exact ha.2.1) ?_
  rw [row_stages c k m q s h, show (s.entered m k.code q).stagingOpen = s.stagingOpen from rfl, ha.2.2.1, ha.2.2.2]
  rfl

/-- A row whose command leaves the mailboxes alone and answers. -/
theorem exec_answers (c : Instr) (k : Cmd) (m : Fin 4) (q : Req) (s u : State) (a : Rsp) (h : rowCmd c = some (k, m, q))
    (ha : Accepted k s m q) (h2 : k.code ≠ 2) (hr : k.run (s.entered m k.code q) m q.par = (u.entered m k.code q, some a))
    (hst : a.status < 65536) (h3 : u.cfg = s.cfg) (h4 : u.pending = s.pending) (h5 : u.porst = s.porst) :
    exec c s = .next (u.answered m k.code q a) := by
  rw [exec_accepted c k m q s h ha h2, hr, finish_answered u m k.code q a (row_lt c k m q h) hst]
  exact congrArg _ (hold_of _ _ h3 h4 h5)

end Sys2Proof.Machine
end

