-- ==== Sys2Proof/Laws/Memory.lean ====
section
/-! SUPPORT. The stack memory: every memory operation keeps the canonical form, and what a read after a write returns. -/

namespace Sys2Proof.Machine

/-- The canonical form, entry by entry. -/
theorem memSorted_cons (a : Nat) (v : Byte) (m : List Host.Cell) :
    memSorted ((a, v) :: m) = true ↔ v ≠ 0 ∧ (∀ c ∈ m, a < c.1) ∧ memSorted m = true := by
  induction m generalizing a v with
  | nil => simp [memSorted]
  | cons c m ih =>
    obtain ⟨b, w⟩ := c
    rw [memSorted]
    have hb := ih b w
    simp only [Bool.and_eq_true, decide_eq_true_eq, List.mem_cons, forall_eq_or_imp]
    constructor
    · rintro ⟨⟨h1, h2⟩, h3⟩
      refine ⟨h1, ⟨h2, fun c hc => ?_⟩, h3⟩
      exact lt_trans h2 ((hb.mp h3).2.1 c hc)
    · rintro ⟨h1, ⟨h2, _⟩, h3⟩
      exact ⟨⟨h1, h2⟩, h3⟩

/-- A write lists no address but those that were listed and its own. -/
theorem writeMem_keys (m : List Host.Cell) (a : Nat) (v : Byte) (c : Host.Cell) (h : c ∈ writeMem m a v) : c = (a, v) ∨ c ∈ m := by
  induction m with
  | nil => 
    simp only [writeMem] at h
    split at h <;> simp_all
  | cons d m ih =>
    obtain ⟨k, b⟩ := d
    simp only [writeMem] at h
    split at h
    · split at h
      · exact .inr (List.mem_cons_of_mem _ h)
      · rename_i hk _
        rcases List.mem_cons.mp h with h | h
        · exact .inl (by rw [h, hk])
        · exact .inr (List.mem_cons_of_mem _ h)
    · split at h
      · split at h
        · exact .inr h
        · rcases List.mem_cons.mp h with h | h
          · exact .inl h
          · exact .inr h
      · rcases List.mem_cons.mp h with h | h
        · exact .inr (h ▸ List.mem_cons_self)
        · rcases ih h with h | h
          · exact .inl h
          · exact .inr (List.mem_cons_of_mem _ h)

/-- A write keeps the canonical form. -/
theorem writeMem_sorted (m : List Host.Cell) (a : Nat) (v : Byte) (h : memSorted m = true) : memSorted (writeMem m a v) = true := by
  induction m with
  | nil => 
    simp only [writeMem]
    split <;> simp_all [memSorted]
  | cons d m ih =>
    obtain ⟨k, b⟩ := d
    obtain ⟨hb, hk, hm⟩ := (memSorted_cons k b m).mp h
    simp only [writeMem]
    split
    · split
      · exact hm
      · rename_i hv
        exact (memSorted_cons k v m).mpr ⟨hv, hk, hm⟩
    · split
      · split
        · exact h
        · rename_i hlt hv
          refine (memSorted_cons a v _).mpr ⟨hv, fun c hc => ?_, h⟩
          rcases List.mem_cons.mp hc with rfl | hc
          · exact hlt
          · exact lt_trans hlt (hk c hc)
      · rename_i hne hlt
        refine (memSorted_cons k b _).mpr ⟨hb, fun c hc => ?_, ih hm⟩
        rcases writeMem_keys m a v c hc with rfl | hc
        · exact lt_of_le_of_ne (not_lt.mp hlt) (Ne.symm hne)
        · exact hk c hc

/-- An address below every listed one reads 0. -/
theorem readMem_below (m : List Host.Cell) (a : Nat) (h : ∀ c ∈ m, a < c.1) : readMem m a = 0 := by
  cases m with
  | nil => rfl
  | cons d m =>
    obtain ⟨k, b⟩ := d
    have : a < k := h (k, b) List.mem_cons_self
    simp [readMem, this, Nat.ne_of_lt this]

/-- A read after a write: the written byte at its address, what stood there at every other. -/
theorem readMem_writeMem (m : List Host.Cell) (a x : Nat) (v : Byte) (h : memSorted m = true) :
    readMem (writeMem m a v) x = if x = a then v else readMem m x := by
  induction m with
  | nil => 
    simp only [writeMem]
    split <;> split <;> simp_all [readMem]
  | cons d m ih =>
    obtain ⟨k, b⟩ := d
    obtain ⟨hb, hk, hm⟩ := (memSorted_cons k b m).mp h
    simp only [writeMem]
    by_cases hak : a = k
    · subst hak
      rw [if_pos rfl]
      by_cases hv : v = 0
      · rw [if_pos hv]
        by_cases hx : x = a
        · subst hx; rw [if_pos rfl, hv]; exact readMem_below m x hk
        · simp only [readMem, hx, if_false]
          split
          · rename_i hlt; exact readMem_below m x (fun c hc => lt_trans hlt (hk c hc))
          · rfl
      · rw [if_neg hv]
        by_cases hx : x = a <;> simp [readMem, hx]
    · rw [if_neg hak]
      by_cases hlt : a < k
      · rw [if_pos hlt]
        by_cases hv : v = 0
        · rw [if_pos hv]
          by_cases hx : x = a
          · subst hx; simp [readMem, hak, hlt, hv]
          · rw [if_neg hx]
        · rw [if_neg hv]
          by_cases hx : x = a
          · simp [readMem, hx]
          · rw [if_neg hx, readMem]
            rw [if_neg hx]
            by_cases hxa : x < a
            · have : x < k := lt_trans hxa hlt
              simp [readMem, hxa, this, Nat.ne_of_lt this]
            · rw [if_neg hxa]
      · rw [if_neg hlt]
        simp only [readMem]
        by_cases hx : x = k
        · subst hx; simp [Ne.symm hak]
        · simp only [hx, if_false]
          by_cases hxk : x < k
          · have : x ≠ a := by omega
            simp [hxk, this]
          · simp only [hxk, if_false]; exact ih hm

/-- A write of consecutive bytes keeps the canonical form. -/
theorem writeMemList_sorted (m : List Host.Cell) (a : Nat) (vs : List Byte) (h : memSorted m = true) : memSorted (writeMemList m a vs) = true := by
  induction vs generalizing m a with
  | nil => exact h
  | cons v vs ih => exact ih _ _ (writeMem_sorted m a v h)

/-- A read after a write of consecutive bytes. -/
theorem readMem_writeMemList (m : List Host.Cell) (a x : Nat) (vs : List Byte) (h : memSorted m = true) :
    readMem (writeMemList m a vs) x = if a ≤ x ∧ x < a + vs.length then vs.getD (x - a) 0 else readMem m x := by
  induction vs generalizing m a with
  | nil => simp [writeMemList]
  | cons v vs ih =>
    rw [writeMemList, ih _ _ (writeMem_sorted m a v h), readMem_writeMem m a x v h]
    by_cases hx : x = a
    · subst hx; simp
    · by_cases h1 : a + 1 ≤ x ∧ x < a + 1 + vs.length
      · rw [if_pos h1, if_pos (by simp; omega)]
        obtain ⟨d, rfl⟩ : ∃ d, x = a + 1 + d := ⟨x - (a + 1), by omega⟩
        have e1 : a + 1 + d - (a + 1) = d := by omega
        have e2 : a + 1 + d - a = d + 1 := by omega
        rw [e1, e2, List.getD_cons_succ]
      · rw [if_neg h1, if_neg hx, if_neg (by simp; omega)]

/-- A write of plane bytes keeps the canonical form. -/
theorem writePlaneList_sorted (c : Cfg) (k a : Nat) (m : List Host.Cell) (vs : List Byte) (h : memSorted m = true) :
    memSorted (writePlaneList c k m a vs) = true := by
  induction vs generalizing m a with
  | nil => exact h
  | cons v vs ih => exact ih _ _ (writeMem_sorted m _ v h)

/-- A write of row bytes keeps the canonical form. -/
theorem writeRowList_sorted (c : Cfg) (ch pc bank row i : Nat) (m : List Host.Cell) (vs : List Byte) (h : memSorted m = true) :
    memSorted (writeRowList c ch pc bank row m i vs) = true := by
  induction vs generalizing m i with
  | nil => exact h
  | cons v vs ih => exact ih _ _ (writeMem_sorted m _ v h)

/-- A write of plane bytes leaves every address that it does not write. -/
theorem readMem_writePlaneList (c : Cfg) (k a x : Nat) (m : List Host.Cell) (vs : List Byte) (h : memSorted m = true)
    (hx : ∀ i < vs.length, x ≠ stackAddr c k (a + i)) : readMem (writePlaneList c k m a vs) x = readMem m x := by
  induction vs generalizing m a with
  | nil => rfl
  | cons v vs ih =>
    rw [writePlaneList, ih _ _ (writeMem_sorted m _ v h), readMem_writeMem _ _ _ _ h, if_neg]
    · exact hx 0 (by simp)
    · intro i hi
      have := hx (i + 1) (by simp; omega)
      rwa [show a + (i + 1) = a + 1 + i by omega] at this

/-- A write of DRAM bytes keeps the canonical form. -/
theorem State.writeDram_wf (s : State) (a : Nat) (bs : List Byte) (h : Memory.wf s.dram) : Memory.wf (s.writeDram a bs).dram :=
  writeMemList_sorted _ _ _ h

/-- A write of a plane keeps the canonical form. -/
theorem State.writePlane_wf (s : State) (k a : Nat) (bs : List Byte) (h : Memory.wf s.dram) : Memory.wf (s.writePlane k a bs).dram :=
  writePlaneList_sorted _ _ _ _ _ h

/-- A STORE of a row keeps the canonical form. -/
theorem State.storeRow_wf (s : State) (ch pc bank row : Nat) (x : Latch) (h : Memory.wf s.dram) :
    Memory.wf (s.storeRow ch pc bank row x).dram := by
  unfold State.storeRow
  generalize Bits.leBytes 1024 x.val = bs
  dsimp only
  split <;> exact writeRowList_sorted _ _ _ _ _ _ _ _ h

/-- A read of DRAM after a write of DRAM bytes. -/
theorem State.writeDram_byte (s : State) (a x : Nat) (bs : List Byte) (h : Memory.wf s.dram) :
    (s.writeDram a bs).dramByte x = if a ≤ x ∧ x < a + bs.length then bs.getD (x - a) 0 else s.dramByte x :=
  readMem_writeMemList _ _ _ _ h

/-- The memory of the state after reset has the canonical form. -/
theorem reset_memory : Memory.wf State.reset.dram := rfl

end Sys2Proof.Machine
end

