-- ==== Sys2Proof/Laws/PerInstr.lean ====
section
/-! SUPPORT. A statement per command: a command that names a unit of IZ-S names a unit of IZ-L. -/

namespace Sys2Proof.Laws

open Sys2Proof Sys2Proof.Machine

/-- IZ-L has every channel, link, domain and Still of IZ-S (Table 0-2), so a command that IZ-S can take IZ-L can take too. -/
def UnitsNest.Statement (i : Instr) : Prop := unitExists .izS i = true → unitExists .izL i = true

theorem channels_nest (n : Nat) (h : n < channels .izS) : n < channels .izL := Nat.lt_trans h (by decide)
theorem links_nest (n : Nat) (h : n < links .izS) : n < links .izL := Nat.lt_trans h (by decide)
theorem logicals_nest (n : Nat) (h : n < logicals .izS) : n < logicals .izL := Nat.lt_trans h (by decide)
theorem physicals_nest (n : Nat) (h : n < physicals .izS) : n < physicals .izL := Nat.lt_trans h (by decide)
theorem domains_nest (d : Domain) (h : domExists .izS d = true) : domExists .izL d = true := by
  cases d with
  | still i => exact decide_eq_true (physicals_nest i (of_decide_eq_true h))
  | _ => rfl

theorem UnitsNest.identify (m : Fin 4) (q : Req) : UnitsNest.Statement (.identify m q) := fun _ => rfl
theorem UnitsNest.sessionOpen (m : Fin 4) (q : Req) : UnitsNest.Statement (.sessionOpen m q) := fun _ => rfl
theorem UnitsNest.sessionClose (m : Fin 4) (q : Req) : UnitsNest.Statement (.sessionClose m q) := fun _ => rfl
theorem UnitsNest.keepalive (m : Fin 4) (q : Req) : UnitsNest.Statement (.keepalive m q) := fun _ => rfl
theorem UnitsNest.runStatus (m : Fin 4) (q : Req) : UnitsNest.Statement (.runStatus m q) := fun _ => rfl
theorem UnitsNest.runSetup (m : Fin 4) (q : Req) : UnitsNest.Statement (.runSetup m q) := fun _ => rfl
theorem UnitsNest.freshSeed (m : Fin 4) (q : Req) : UnitsNest.Statement (.freshSeed m q) := fun _ => rfl
theorem UnitsNest.admitCmd (m : Fin 4) (q : Req) : UnitsNest.Statement (.admitCmd m q) := fun _ => rfl
theorem UnitsNest.stepBegin (m : Fin 4) (q : Req) : UnitsNest.Statement (.stepBegin m q) := fun _ => rfl
theorem UnitsNest.runStop (m : Fin 4) (q : Req) : UnitsNest.Statement (.runStop m q) := fun _ => rfl
theorem UnitsNest.cursorSet (m : Fin 4) (q : Req) : UnitsNest.Statement (.cursorSet m q) := fun _ => rfl
theorem UnitsNest.evalOpen (m : Fin 4) (q : Req) : UnitsNest.Statement (.evalOpen m q) := fun _ => rfl
theorem UnitsNest.evalClose (m : Fin 4) (q : Req) : UnitsNest.Statement (.evalClose m q) := fun _ => rfl
theorem UnitsNest.digestSelect (m : Fin 4) (q : Req) : UnitsNest.Statement (.digestSelect m q) := fun _ => rfl
theorem UnitsNest.gradCapture (m : Fin 4) (q : Req) : UnitsNest.Statement (.gradCapture m q) := fun _ => rfl
theorem UnitsNest.membership (m : Fin 4) (q : Req) : UnitsNest.Statement (.membership m q) := fun _ => rfl
theorem UnitsNest.routeSet (m : Fin 4) (q : Req) : UnitsNest.Statement (.routeSet m q) := fun _ => rfl
theorem UnitsNest.topology (m : Fin 4) (q : Req) : UnitsNest.Statement (.topology m q) := fun _ => rfl
theorem UnitsNest.flaconWrite (m : Fin 4) (q : Req) : UnitsNest.Statement (.flaconWrite m q) := fun _ => rfl
theorem UnitsNest.restore (m : Fin 4) (q : Req) : UnitsNest.Statement (.restore m q) := fun _ => rfl
theorem UnitsNest.restorePiece (m : Fin 4) (q : Req) : UnitsNest.Statement (.restorePiece m q) := fun _ => rfl
theorem UnitsNest.adopt (m : Fin 4) (q : Req) : UnitsNest.Statement (.adopt m q) := fun _ => rfl
theorem UnitsNest.decantFull (m : Fin 4) (q : Req) : UnitsNest.Statement (.decantFull m q) := fun _ => rfl
theorem UnitsNest.opStatus (m : Fin 4) (q : Req) : UnitsNest.Statement (.opStatus m q) := fun _ => rfl
theorem UnitsNest.opSuspend (m : Fin 4) (q : Req) : UnitsNest.Statement (.opSuspend m q) := fun _ => rfl
theorem UnitsNest.opResume (m : Fin 4) (q : Req) : UnitsNest.Statement (.opResume m q) := fun _ => rfl
theorem UnitsNest.opCancel (m : Fin 4) (q : Req) : UnitsNest.Statement (.opCancel m q) := fun _ => rfl
theorem UnitsNest.initRegion (m : Fin 4) (q : Req) : UnitsNest.Statement (.initRegion m q) := fun _ => rfl
theorem UnitsNest.blotterDump (m : Fin 4) (q : Req) : UnitsNest.Statement (.blotterDump m q) := fun _ => rfl
theorem UnitsNest.selfTest (m : Fin 4) (q : Req) : UnitsNest.Statement (.selfTest m q) := fun _ => rfl
theorem UnitsNest.scrubPass (m : Fin 4) (q : Req) : UnitsNest.Statement (.scrubPass m q) := fun _ => rfl
theorem UnitsNest.fenceClear (m : Fin 4) (q : Req) : UnitsNest.Statement (.fenceClear m q) := fun _ => rfl
theorem UnitsNest.errlogRead (m : Fin 4) (q : Req) : UnitsNest.Statement (.errlogRead m q) := fun _ => rfl
theorem UnitsNest.counterRead (m : Fin 4) (q : Req) : UnitsNest.Statement (.counterRead m q) := fun _ => rfl
theorem UnitsNest.counterClear (m : Fin 4) (q : Req) : UnitsNest.Statement (.counterClear m q) := fun _ => rfl
theorem UnitsNest.attest (m : Fin 4) (q : Req) : UnitsNest.Statement (.attest m q) := fun _ => rfl
theorem UnitsNest.fwLoad (m : Fin 4) (q : Req) : UnitsNest.Statement (.fwLoad m q) := fun _ => rfl
theorem UnitsNest.fwActivate (m : Fin 4) (q : Req) : UnitsNest.Statement (.fwActivate m q) := fun _ => rfl
theorem UnitsNest.fwCommit (m : Fin 4) (q : Req) : UnitsNest.Statement (.fwCommit m q) := fun _ => rfl
theorem UnitsNest.recoveryLoad (m : Fin 4) (q : Req) : UnitsNest.Statement (.recoveryLoad m q) := fun _ => rfl
theorem UnitsNest.admitDone (h : BitVec 16) : UnitsNest.Statement (.admitDone h) := fun _ => rfl
theorem UnitsNest.flaconWriteDone (h : BitVec 16) : UnitsNest.Statement (.flaconWriteDone h) := fun _ => rfl
theorem UnitsNest.restoreDone (h : BitVec 16) : UnitsNest.Statement (.restoreDone h) := fun _ => rfl
theorem UnitsNest.adoptDone (h : BitVec 16) : UnitsNest.Statement (.adoptDone h) := fun _ => rfl
theorem UnitsNest.decantFullDone (h : BitVec 16) : UnitsNest.Statement (.decantFullDone h) := fun _ => rfl
theorem UnitsNest.initRegionDone (h : BitVec 16) : UnitsNest.Statement (.initRegionDone h) := fun _ => rfl
theorem UnitsNest.blotterDumpDone (h : BitVec 16) : UnitsNest.Statement (.blotterDumpDone h) := fun _ => rfl
theorem UnitsNest.selfTestDone (h : BitVec 16) (failing : BitVec 11) : UnitsNest.Statement (.selfTestDone h failing) := fun _ => rfl
theorem UnitsNest.scrubPassDone (h : BitVec 16) (corrected uncorrectable : Word32) : UnitsNest.Statement (.scrubPassDone h corrected uncorrectable) := fun _ => rfl
theorem UnitsNest.fwLoadDone (h : BitVec 16) : UnitsNest.Statement (.fwLoadDone h) := fun _ => rfl
theorem UnitsNest.recoveryLoadDone (h : BitVec 16) : UnitsNest.Statement (.recoveryLoadDone h) := fun _ => rfl
theorem UnitsNest.opSuspendPoint (h : BitVec 16) (done : Word64) : UnitsNest.Statement (.opSuspendPoint h done) := fun _ => rfl
theorem UnitsNest.longopWindowEnter (h : BitVec 16) : UnitsNest.Statement (.longopWindowEnter h) := fun _ => rfl
theorem UnitsNest.evalWindowOpen : UnitsNest.Statement (.evalWindowOpen) := fun _ => rfl
theorem UnitsNest.runStopEffect : UnitsNest.Statement (.runStopEffect) := fun _ => rfl
theorem UnitsNest.smLevelWrite (w : Word32) : UnitsNest.Statement (.smLevelWrite w) := fun _ => rfl
theorem UnitsNest.levelRaiseDone : UnitsNest.Statement (.levelRaiseDone) := fun _ => rfl
theorem UnitsNest.levelLowerEffect : UnitsNest.Statement (.levelLowerEffect) := fun _ => rfl
theorem UnitsNest.fallComplete : UnitsNest.Statement (.fallComplete) := fun _ => rfl
theorem UnitsNest.smTimeLoRead : UnitsNest.Statement (.smTimeLoRead) := fun _ => rfl
theorem UnitsNest.smEvqPop (w : Word32) : UnitsNest.Statement (.smEvqPop w) := fun _ => rfl
theorem UnitsNest.smEgrAck (w : Word32) : UnitsNest.Statement (.smEgrAck w) := fun _ => rfl
theorem UnitsNest.smStageWrite (mib : Bool) (w : Word32) : UnitsNest.Statement (.smStageWrite mib w) := fun _ => rfl
theorem UnitsNest.smIrqMaskWrite (w : Word32) : UnitsNest.Statement (.smIrqMaskWrite w) := fun _ => rfl
theorem UnitsNest.registerWrite (addr : BitVec 16) (w : Word32) : UnitsNest.Statement (.registerWrite addr w) := fun _ => rfl
theorem UnitsNest.porstNAssert : UnitsNest.Statement (.porstNAssert) := fun _ => rfl
theorem UnitsNest.porstNRelease (pos : BitVec 3) : UnitsNest.Statement (.porstNRelease pos) := fun _ => rfl
theorem UnitsNest.romBoot (r : RomStart) : UnitsNest.Statement (.romBoot r) := fun _ => rfl
theorem UnitsNest.wrstNAssert : UnitsNest.Statement (.wrstNAssert) := fun _ => rfl
theorem UnitsNest.wrstNRelease (r : RomStart) : UnitsNest.Statement (.wrstNRelease r) := fun _ => rfl
theorem UnitsNest.wrapperInstruction (code : BitVec 4) : UnitsNest.Statement (.wrapperInstruction code) := fun _ => rfl
theorem UnitsNest.wrstnAssert : UnitsNest.Statement (.wrstnAssert) := fun _ => rfl
theorem UnitsNest.tempSample (code : Byte) : UnitsNest.Statement (.tempSample code) := fun _ => rfl
theorem UnitsNest.pwrAckRise (d : Domain) : UnitsNest.Statement (.pwrAckRise d) := domains_nest d
theorem UnitsNest.generatorLock (d : Domain) : UnitsNest.Statement (.generatorLock d) := domains_nest d
theorem UnitsNest.lockLoss (d : Domain) : UnitsNest.Statement (.lockLoss d) := domains_nest d
theorem UnitsNest.pwrAckFall (d : Domain) : UnitsNest.Statement (.pwrAckFall d) := domains_nest d
theorem UnitsNest.powerDownRequest (d : Domain) : UnitsNest.Statement (.powerDownRequest d) := domains_nest d
theorem UnitsNest.pwrAckSlow (d : Domain) : UnitsNest.Statement (.pwrAckSlow d) := domains_nest d
theorem UnitsNest.clockCheck (khz : List Word32) : UnitsNest.Statement (.clockCheck khz) := fun _ => rfl
theorem UnitsNest.hostAct (ch : Fin 32) (pc : Fin 2) (bank : Fin 32) (row : BitVec 16) : UnitsNest.Statement (.hostAct ch pc bank row) := fun h => decide_eq_true (channels_nest ch (of_decide_eq_true h))
theorem UnitsNest.hostRead (ch : Fin 32) (pc : Fin 2) (bank : Fin 32) (col : Fin 32) (sev : BitVec 2) : UnitsNest.Statement (.hostRead ch pc bank col sev) := fun h => decide_eq_true (channels_nest ch (of_decide_eq_true h))
theorem UnitsNest.hostWrite (ch : Fin 32) (pc : Fin 2) (bank : Fin 32) (col : Fin 32) (data : BitVec 256) (mask : Word32) (pois : Bool) : UnitsNest.Statement (.hostWrite ch pc bank col data mask pois) := fun h => decide_eq_true (channels_nest ch (of_decide_eq_true h))
theorem UnitsNest.hostPre (ch : Fin 32) (pc : Fin 2) (bank : Fin 32) : UnitsNest.Statement (.hostPre ch pc bank) := fun h => decide_eq_true (channels_nest ch (of_decide_eq_true h))
theorem UnitsNest.hostPrea (ch : Fin 32) (pc : Fin 2) : UnitsNest.Statement (.hostPrea ch pc) := fun h => decide_eq_true (channels_nest ch (of_decide_eq_true h))
theorem UnitsNest.hostRefresh (ch : Fin 32) (pc : Fin 2) (bank : Fin 32) (all : Bool) : UnitsNest.Statement (.hostRefresh ch pc bank all) := fun h => decide_eq_true (channels_nest ch (of_decide_eq_true h))
theorem UnitsNest.hostMrs (ch : Fin 32) (arg : Mrs) : UnitsNest.Statement (.hostMrs ch arg) := fun h => decide_eq_true (channels_nest ch (of_decide_eq_true h))
theorem UnitsNest.hostOtherRowCmd (ch : Fin 32) (kind : BitVec 4) (pc : Fin 2) : UnitsNest.Statement (.hostOtherRowCmd ch kind pc) := fun h => decide_eq_true (channels_nest ch (of_decide_eq_true h))
theorem UnitsNest.stepAnchor : UnitsNest.Statement (.stepAnchor) := fun _ => rfl
theorem UnitsNest.segmentBoundary (ch : Fin 32) : UnitsNest.Statement (.segmentBoundary ch) := fun h => decide_eq_true (channels_nest ch (of_decide_eq_true h))
theorem UnitsNest.transitEnd (ch : Fin 32) (stuck : Bool) : UnitsNest.Statement (.transitEnd ch stuck) := fun h => decide_eq_true (channels_nest ch (of_decide_eq_true h))
theorem UnitsNest.catchupRefreshDone (ch : Fin 32) : UnitsNest.Statement (.catchupRefreshDone ch) := fun h => decide_eq_true (channels_nest ch (of_decide_eq_true h))
theorem UnitsNest.refreshTick (ch : Fin 32) (pc : Fin 2) (bank : Fin 32) : UnitsNest.Statement (.refreshTick ch pc bank) := fun h => decide_eq_true (channels_nest ch (of_decide_eq_true h))
theorem UnitsNest.slotOpen (shard : Word32) : UnitsNest.Statement (.slotOpen shard) := fun _ => rfl
theorem UnitsNest.oaFold (shard : Word32) : UnitsNest.Statement (.oaFold shard) := fun _ => rfl
theorem UnitsNest.prefetch (still : Fin 8) (shard : Word32) : UnitsNest.Statement (.prefetch still shard) := fun h => decide_eq_true (logicals_nest still (of_decide_eq_true h))
theorem UnitsNest.prefetchDone (still : Fin 8) (shard : Word32) (sev : Sev) : UnitsNest.Statement (.prefetchDone still shard sev) := fun h => decide_eq_true (logicals_nest still (of_decide_eq_true h))
theorem UnitsNest.passStart (shard : Word32) : UnitsNest.Statement (.passStart shard) := fun _ => rfl
theorem UnitsNest.blockCommit (still : Fin 8) (shard : Word32) (sev : Sev) : UnitsNest.Statement (.blockCommit still shard sev) := fun h => decide_eq_true (logicals_nest still (of_decide_eq_true h))
theorem UnitsNest.laneError (still : Fin 9) : UnitsNest.Statement (.laneError still) := fun h => decide_eq_true (physicals_nest still (of_decide_eq_true h))
theorem UnitsNest.stillTakeover (still : Fin 8) : UnitsNest.Statement (.stillTakeover still) := fun h => decide_eq_true (logicals_nest still (of_decide_eq_true h))
theorem UnitsNest.stepRecordWrite : UnitsNest.Statement (.stepRecordWrite) := fun _ => rfl
theorem UnitsNest.atmSegmentStart (ch : Fin 32) : UnitsNest.Statement (.atmSegmentStart ch) := fun h => decide_eq_true (channels_nest ch (of_decide_eq_true h))
theorem UnitsNest.atmGo (ch : Fin 32) (half : HalfGo) : UnitsNest.Statement (.atmGo ch half) := fun h => decide_eq_true (channels_nest ch (of_decide_eq_true h))
theorem UnitsNest.bucketRefill (ch : Fin 32) : UnitsNest.Statement (.bucketRefill ch) := fun h => decide_eq_true (channels_nest ch (of_decide_eq_true h))
theorem UnitsNest.atmDone (ch : Fin 32) (half : Fin 2) : UnitsNest.Statement (.atmDone ch half) := fun h => decide_eq_true (channels_nest ch (of_decide_eq_true h))
theorem UnitsNest.atmRpt (ch : Fin 32) (beat : Word64) : UnitsNest.Statement (.atmRpt ch beat) := fun h => decide_eq_true (channels_nest ch (of_decide_eq_true h))
theorem UnitsNest.atmErr (ch : Fin 32) (status : Word32) : UnitsNest.Statement (.atmErr ch status) := fun h => decide_eq_true (channels_nest ch (of_decide_eq_true h))
theorem UnitsNest.atmKeyOkFall (ch : Fin 32) : UnitsNest.Statement (.atmKeyOkFall ch) := fun h => decide_eq_true (channels_nest ch (of_decide_eq_true h))
theorem UnitsNest.hello (p : Fin 2) (k : Packet) : UnitsNest.Statement (.hello p k) := fun h => decide_eq_true (links_nest p (of_decide_eq_true h))
theorem UnitsNest.helloAck (p : Fin 2) (k : Packet) : UnitsNest.Statement (.helloAck p k) := fun h => decide_eq_true (links_nest p (of_decide_eq_true h))
theorem UnitsNest.topo (p : Fin 2) (k : Packet) : UnitsNest.Statement (.topo p k) := fun h => decide_eq_true (links_nest p (of_decide_eq_true h))
theorem UnitsNest.scalarUp (p : Fin 2) (k : Packet) : UnitsNest.Statement (.scalarUp p k) := fun h => decide_eq_true (links_nest p (of_decide_eq_true h))
theorem UnitsNest.scalarDown (p : Fin 2) (k : Packet) : UnitsNest.Statement (.scalarDown p k) := fun h => decide_eq_true (links_nest p (of_decide_eq_true h))
theorem UnitsNest.contrib (p : Fin 2) (k : Packet) : UnitsNest.Statement (.contrib p k) := fun h => decide_eq_true (links_nest p (of_decide_eq_true h))
theorem UnitsNest.flaconData (p : Fin 2) (k : Packet) : UnitsNest.Statement (.flaconData p k) := fun h => decide_eq_true (links_nest p (of_decide_eq_true h))
theorem UnitsNest.flaconAck (p : Fin 2) (k : Packet) : UnitsNest.Statement (.flaconAck p k) := fun h => decide_eq_true (links_nest p (of_decide_eq_true h))
theorem UnitsNest.restoreData (p : Fin 2) (k : Packet) : UnitsNest.Statement (.restoreData p k) := fun h => decide_eq_true (links_nest p (of_decide_eq_true h))
theorem UnitsNest.mbxRelay (p : Fin 2) (k : Packet) : UnitsNest.Statement (.mbxRelay p k) := fun h => decide_eq_true (links_nest p (of_decide_eq_true h))
theorem UnitsNest.fenceNotice (p : Fin 2) (k : Packet) : UnitsNest.Statement (.fenceNotice p k) := fun h => decide_eq_true (links_nest p (of_decide_eq_true h))
theorem UnitsNest.packetTransmit (p : Fin 2) : UnitsNest.Statement (.packetTransmit p) := fun h => decide_eq_true (links_nest p (of_decide_eq_true h))
theorem UnitsNest.batchTimeout (dst : Ea) : UnitsNest.Statement (.batchTimeout dst) := fun _ => rfl
theorem UnitsNest.egressPagePublish (win : Byte) : UnitsNest.Statement (.egressPagePublish win) := fun _ => rfl
theorem UnitsNest.discoverTimer (p : Fin 2) : UnitsNest.Statement (.discoverTimer p) := fun h => decide_eq_true (links_nest p (of_decide_eq_true h))
theorem UnitsNest.heartbeatSend (p : Fin 2) : UnitsNest.Statement (.heartbeatSend p) := fun h => decide_eq_true (links_nest p (of_decide_eq_true h))
theorem UnitsNest.heartbeatCheck (p : Fin 2) : UnitsNest.Statement (.heartbeatCheck p) := fun h => decide_eq_true (links_nest p (of_decide_eq_true h))
theorem UnitsNest.creditHelloTimer (p : Fin 2) : UnitsNest.Statement (.creditHelloTimer p) := fun h => decide_eq_true (links_nest p (of_decide_eq_true h))
theorem UnitsNest.epochExpired : UnitsNest.Statement (.epochExpired) := fun _ => rfl
theorem UnitsNest.pptLinkUp (p : Fin 2) : UnitsNest.Statement (.pptLinkUp p) := fun h => decide_eq_true (links_nest p (of_decide_eq_true h))
theorem UnitsNest.pptLinkDown (p : Fin 2) : UnitsNest.Statement (.pptLinkDown p) := fun h => decide_eq_true (links_nest p (of_decide_eq_true h))
theorem UnitsNest.pptErr (p : Fin 2) : UnitsNest.Statement (.pptErr p) := fun h => decide_eq_true (links_nest p (of_decide_eq_true h))
theorem UnitsNest.blotterDrain : UnitsNest.Statement (.blotterDrain) := fun _ => rfl
theorem UnitsNest.loanStart : UnitsNest.Statement (.loanStart) := fun _ => rfl
theorem UnitsNest.loanEnd : UnitsNest.Statement (.loanEnd) := fun _ => rfl
theorem UnitsNest.bootFetchDone : UnitsNest.Statement (.bootFetchDone) := fun _ => rfl
theorem UnitsNest.standbyBootDone (ok : Bool) : UnitsNest.Statement (.standbyBootDone ok) := fun _ => rfl
theorem UnitsNest.handoverPoint : UnitsNest.Statement (.handoverPoint) := fun _ => rfl
theorem UnitsNest.takeover (selfCheck : Bool) : UnitsNest.Statement (.takeover selfCheck) := fun _ => rfl
theorem UnitsNest.microcodeBankSwitch (ch : Fin 32) : UnitsNest.Statement (.microcodeBankSwitch ch) := fun h => decide_eq_true (channels_nest ch (of_decide_eq_true h))
theorem UnitsNest.probationEnd : UnitsNest.Statement (.probationEnd) := fun _ => rfl
theorem UnitsNest.watchdogExpiry (core : Fin 2) : UnitsNest.Statement (.watchdogExpiry core) := fun _ => rfl
theorem UnitsNest.mcCoreFault (core : Fin 2) (cause : BitVec 2) : UnitsNest.Statement (.mcCoreFault core cause) := fun _ => rfl
theorem UnitsNest.fspValid (w : Word32) : UnitsNest.Statement (.fspValid w) := fun _ => rfl
theorem UnitsNest.fspReadTimeout : UnitsNest.Statement (.fspReadTimeout) := fun _ => rfl
theorem UnitsNest.fspVppAck : UnitsNest.Statement (.fspVppAck) := fun _ => rfl
theorem UnitsNest.vppTimeout : UnitsNest.Statement (.vppTimeout) := fun _ => rfl
theorem UnitsNest.fspDone : UnitsNest.Statement (.fspDone) := fun _ => rfl
theorem UnitsNest.sessionExpired (m : Fin 4) : UnitsNest.Statement (.sessionExpired m) := fun _ => rfl
theorem UnitsNest.esStartupDone : UnitsNest.Statement (.esStartupDone) := fun _ => rfl
theorem UnitsNest.entropyFail (proportion : Bool) : UnitsNest.Statement (.entropyFail proportion) := fun _ => rfl
theorem UnitsNest.csqFault (ch : Fin 32) (parity : BitVec 16) : UnitsNest.Statement (.csqFault ch parity) := fun h => decide_eq_true (channels_nest ch (of_decide_eq_true h))
theorem UnitsNest.scrubDebt (ch : Fin 32) : UnitsNest.Statement (.scrubDebt ch) := fun h => decide_eq_true (channels_nest ch (of_decide_eq_true h))
theorem UnitsNest.patrolScrub (ch : Fin 32) (sev : Sev) (last : Bool) : UnitsNest.Statement (.patrolScrub ch sev last) := fun h => decide_eq_true (channels_nest ch (of_decide_eq_true h))
theorem UnitsNest.longopWindowEnd (h : BitVec 16) : UnitsNest.Statement (.longopWindowEnd h) := fun _ => rfl
theorem UnitsNest.mixerSelfCheck : UnitsNest.Statement (.mixerSelfCheck) := fun _ => rfl

end Sys2Proof.Laws
end

