-- ==== Sys2Proof/Laws/State.lean ====
section
/-! SUPPORT. What each shared update of the state leaves: one lemma for each field, so that no later proof unfolds a record update. -/

namespace Sys2Proof.Machine

open Sys2Proof.Bits


/-! ### modSmp -/

@[simp] theorem State.modSmp_cfg (s : State) (f : Smp → Smp) : (s.modSmp f).cfg = s.cfg := rfl
@[simp] theorem State.modSmp_pending (s : State) (f : Smp → Smp) : (s.modSmp f).pending = s.pending := rfl
@[simp] theorem State.modSmp_free (s : State) (f : Smp → Smp) : (s.modSmp f).free = s.free := rfl
@[simp] theorem State.modSmp_time (s : State) (f : Smp → Smp) : (s.modSmp f).time = s.time := rfl
@[simp] theorem State.modSmp_porst (s : State) (f : Smp → Smp) : (s.modSmp f).porst = s.porst := rfl
@[simp] theorem State.modSmp_wrst (s : State) (f : Smp → Smp) : (s.modSmp f).wrst = s.wrst := rfl
@[simp] theorem State.modSmp_wir (s : State) (f : Smp → Smp) : (s.modSmp f).wir = s.wir := rfl
@[simp] theorem State.modSmp_fall (s : State) (f : Smp → Smp) : (s.modSmp f).fall = s.fall := rfl
@[simp] theorem State.modSmp_testPending (s : State) (f : Smp → Smp) : (s.modSmp f).testPending = s.testPending := rfl
@[simp] theorem State.modSmp_smp (s : State) (f : Smp → Smp) : (s.modSmp f).smp = f s.smp := rfl
@[simp] theorem State.modSmp_ops (s : State) (f : Smp → Smp) : (s.modSmp f).ops = s.ops := rfl
@[simp] theorem State.modSmp_retained (s : State) (f : Smp → Smp) : (s.modSmp f).retained = s.retained := rfl
@[simp] theorem State.modSmp_nextHandle (s : State) (f : Smp → Smp) : (s.modSmp f).nextHandle = s.nextHandle := rfl
@[simp] theorem State.modSmp_doms (s : State) (f : Smp → Smp) : (s.modSmp f).doms = s.doms := rfl
@[simp] theorem State.modSmp_clocks (s : State) (f : Smp → Smp) : (s.modSmp f).clocks = s.clocks := rfl
@[simp] theorem State.modSmp_chans (s : State) (f : Smp → Smp) : (s.modSmp f).chans = s.chans := rfl
@[simp] theorem State.modSmp_out (s : State) (f : Smp → Smp) : (s.modSmp f).out = s.out := rfl
@[simp] theorem State.modSmp_dram (s : State) (f : Smp → Smp) : (s.modSmp f).dram = s.dram := rfl
@[simp] theorem State.modSmp_poisonWords (s : State) (f : Smp → Smp) : (s.modSmp f).poisonWords = s.poisonWords := rfl
@[simp] theorem State.modSmp_disc (s : State) (f : Smp → Smp) : (s.modSmp f).disc = s.disc := rfl
@[simp] theorem State.modSmp_fuses (s : State) (f : Smp → Smp) : (s.modSmp f).fuses = s.fuses := rfl
@[simp] theorem State.modSmp_fusePass (s : State) (f : Smp → Smp) : (s.modSmp f).fusePass = s.fusePass := rfl
@[simp] theorem State.modSmp_fw (s : State) (f : Smp → Smp) : (s.modSmp f).fw = s.fw := rfl
@[simp] theorem State.modSmp_loan (s : State) (f : Smp → Smp) : (s.modSmp f).loan = s.loan := rfl
@[simp] theorem State.modSmp_entropy (s : State) (f : Smp → Smp) : (s.modSmp f).entropy = s.entropy := rfl
@[simp] theorem State.modSmp_keyPresent (s : State) (f : Smp → Smp) : (s.modSmp f).keyPresent = s.keyPresent := rfl
@[simp] theorem State.modSmp_keyFenced (s : State) (f : Smp → Smp) : (s.modSmp f).keyFenced = s.keyFenced := rfl
@[simp] theorem State.modSmp_log (s : State) (f : Smp → Smp) : (s.modSmp f).log = s.log := rfl
@[simp] theorem State.modSmp_counters (s : State) (f : Smp → Smp) : (s.modSmp f).counters = s.counters := rfl
@[simp] theorem State.modSmp_formula (s : State) (f : Smp → Smp) : (s.modSmp f).formula = s.formula := rfl
@[simp] theorem State.modSmp_bounds (s : State) (f : Smp → Smp) : (s.modSmp f).bounds = s.bounds := rfl
@[simp] theorem State.modSmp_waits (s : State) (f : Smp → Smp) : (s.modSmp f).waits = s.waits := rfl
@[simp] theorem State.modSmp_latest (s : State) (f : Smp → Smp) : (s.modSmp f).latest = s.latest := rfl
@[simp] theorem State.modSmp_admitTime (s : State) (f : Smp → Smp) : (s.modSmp f).admitTime = s.admitTime := rfl
@[simp] theorem State.modSmp_anchorBlocked (s : State) (f : Smp → Smp) : (s.modSmp f).anchorBlocked = s.anchorBlocked := rfl
@[simp] theorem State.modSmp_run (s : State) (f : Smp → Smp) : (s.modSmp f).run = s.run := rfl
@[simp] theorem State.modSmp_cursors (s : State) (f : Smp → Smp) : (s.modSmp f).cursors = s.cursors := rfl
@[simp] theorem State.modSmp_digestSel (s : State) (f : Smp → Smp) : (s.modSmp f).digestSel = s.digestSel := rfl
@[simp] theorem State.modSmp_captureSel (s : State) (f : Smp → Smp) : (s.modSmp f).captureSel = s.captureSel := rfl
@[simp] theorem State.modSmp_shards (s : State) (f : Smp → Smp) : (s.modSmp f).shards = s.shards := rfl
@[simp] theorem State.modSmp_wins (s : State) (f : Smp → Smp) : (s.modSmp f).wins = s.wins := rfl
@[simp] theorem State.modSmp_envs (s : State) (f : Smp → Smp) : (s.modSmp f).envs = s.envs := rfl
@[simp] theorem State.modSmp_pagesFenced (s : State) (f : Smp → Smp) : (s.modSmp f).pagesFenced = s.pagesFenced := rfl
@[simp] theorem State.modSmp_stills (s : State) (f : Smp → Smp) : (s.modSmp f).stills = s.stills := rfl
@[simp] theorem State.modSmp_scales (s : State) (f : Smp → Smp) : (s.modSmp f).scales = s.scales := rfl
@[simp] theorem State.modSmp_atm (s : State) (f : Smp → Smp) : (s.modSmp f).atm = s.atm := rfl
@[simp] theorem State.modSmp_atmResults (s : State) (f : Smp → Smp) : (s.modSmp f).atmResults = s.atmResults := rfl
@[simp] theorem State.modSmp_fabric (s : State) (f : Smp → Smp) : (s.modSmp f).fabric = s.fabric := rfl
@[simp] theorem State.modSmp_emission (s : State) (f : Smp → Smp) : (s.modSmp f).emission = s.emission := rfl
@[simp] theorem State.modSmp_near (s : State) (f : Smp → Smp) : (s.modSmp f).near = s.near := rfl
@[simp] theorem State.modSmp_restored (s : State) (f : Smp → Smp) : (s.modSmp f).restored = s.restored := rfl
@[simp] theorem State.modSmp_blotter (s : State) (f : Smp → Smp) : (s.modSmp f).blotter = s.blotter := rfl
@[simp] theorem State.modSmp_outPages (s : State) (f : Smp → Smp) : (s.modSmp f).outPages = s.outPages := rfl

/-! ### modMbx -/

@[simp] theorem State.modMbx_cfg (s : State) (m : Nat) (f : Mailbox → Mailbox) : (s.modMbx m f).cfg = s.cfg := rfl
@[simp] theorem State.modMbx_pending (s : State) (m : Nat) (f : Mailbox → Mailbox) : (s.modMbx m f).pending = s.pending := rfl
@[simp] theorem State.modMbx_free (s : State) (m : Nat) (f : Mailbox → Mailbox) : (s.modMbx m f).free = s.free := rfl
@[simp] theorem State.modMbx_time (s : State) (m : Nat) (f : Mailbox → Mailbox) : (s.modMbx m f).time = s.time := rfl
@[simp] theorem State.modMbx_porst (s : State) (m : Nat) (f : Mailbox → Mailbox) : (s.modMbx m f).porst = s.porst := rfl
@[simp] theorem State.modMbx_wrst (s : State) (m : Nat) (f : Mailbox → Mailbox) : (s.modMbx m f).wrst = s.wrst := rfl
@[simp] theorem State.modMbx_wir (s : State) (m : Nat) (f : Mailbox → Mailbox) : (s.modMbx m f).wir = s.wir := rfl
@[simp] theorem State.modMbx_fall (s : State) (m : Nat) (f : Mailbox → Mailbox) : (s.modMbx m f).fall = s.fall := rfl
@[simp] theorem State.modMbx_testPending (s : State) (m : Nat) (f : Mailbox → Mailbox) : (s.modMbx m f).testPending = s.testPending := rfl
@[simp] theorem State.modMbx_smp (s : State) (m : Nat) (f : Mailbox → Mailbox) : (s.modMbx m f).smp = { s.smp with mbx := modV s.smp.mbx m f } := rfl
@[simp] theorem State.modMbx_ops (s : State) (m : Nat) (f : Mailbox → Mailbox) : (s.modMbx m f).ops = s.ops := rfl
@[simp] theorem State.modMbx_retained (s : State) (m : Nat) (f : Mailbox → Mailbox) : (s.modMbx m f).retained = s.retained := rfl
@[simp] theorem State.modMbx_nextHandle (s : State) (m : Nat) (f : Mailbox → Mailbox) : (s.modMbx m f).nextHandle = s.nextHandle := rfl
@[simp] theorem State.modMbx_doms (s : State) (m : Nat) (f : Mailbox → Mailbox) : (s.modMbx m f).doms = s.doms := rfl
@[simp] theorem State.modMbx_clocks (s : State) (m : Nat) (f : Mailbox → Mailbox) : (s.modMbx m f).clocks = s.clocks := rfl
@[simp] theorem State.modMbx_chans (s : State) (m : Nat) (f : Mailbox → Mailbox) : (s.modMbx m f).chans = s.chans := rfl
@[simp] theorem State.modMbx_out (s : State) (m : Nat) (f : Mailbox → Mailbox) : (s.modMbx m f).out = s.out := rfl
@[simp] theorem State.modMbx_dram (s : State) (m : Nat) (f : Mailbox → Mailbox) : (s.modMbx m f).dram = s.dram := rfl
@[simp] theorem State.modMbx_poisonWords (s : State) (m : Nat) (f : Mailbox → Mailbox) : (s.modMbx m f).poisonWords = s.poisonWords := rfl
@[simp] theorem State.modMbx_disc (s : State) (m : Nat) (f : Mailbox → Mailbox) : (s.modMbx m f).disc = s.disc := rfl
@[simp] theorem State.modMbx_fuses (s : State) (m : Nat) (f : Mailbox → Mailbox) : (s.modMbx m f).fuses = s.fuses := rfl
@[simp] theorem State.modMbx_fusePass (s : State) (m : Nat) (f : Mailbox → Mailbox) : (s.modMbx m f).fusePass = s.fusePass := rfl
@[simp] theorem State.modMbx_fw (s : State) (m : Nat) (f : Mailbox → Mailbox) : (s.modMbx m f).fw = s.fw := rfl
@[simp] theorem State.modMbx_loan (s : State) (m : Nat) (f : Mailbox → Mailbox) : (s.modMbx m f).loan = s.loan := rfl
@[simp] theorem State.modMbx_entropy (s : State) (m : Nat) (f : Mailbox → Mailbox) : (s.modMbx m f).entropy = s.entropy := rfl
@[simp] theorem State.modMbx_keyPresent (s : State) (m : Nat) (f : Mailbox → Mailbox) : (s.modMbx m f).keyPresent = s.keyPresent := rfl
@[simp] theorem State.modMbx_keyFenced (s : State) (m : Nat) (f : Mailbox → Mailbox) : (s.modMbx m f).keyFenced = s.keyFenced := rfl
@[simp] theorem State.modMbx_log (s : State) (m : Nat) (f : Mailbox → Mailbox) : (s.modMbx m f).log = s.log := rfl
@[simp] theorem State.modMbx_counters (s : State) (m : Nat) (f : Mailbox → Mailbox) : (s.modMbx m f).counters = s.counters := rfl
@[simp] theorem State.modMbx_formula (s : State) (m : Nat) (f : Mailbox → Mailbox) : (s.modMbx m f).formula = s.formula := rfl
@[simp] theorem State.modMbx_bounds (s : State) (m : Nat) (f : Mailbox → Mailbox) : (s.modMbx m f).bounds = s.bounds := rfl
@[simp] theorem State.modMbx_waits (s : State) (m : Nat) (f : Mailbox → Mailbox) : (s.modMbx m f).waits = s.waits := rfl
@[simp] theorem State.modMbx_latest (s : State) (m : Nat) (f : Mailbox → Mailbox) : (s.modMbx m f).latest = s.latest := rfl
@[simp] theorem State.modMbx_admitTime (s : State) (m : Nat) (f : Mailbox → Mailbox) : (s.modMbx m f).admitTime = s.admitTime := rfl
@[simp] theorem State.modMbx_anchorBlocked (s : State) (m : Nat) (f : Mailbox → Mailbox) : (s.modMbx m f).anchorBlocked = s.anchorBlocked := rfl
@[simp] theorem State.modMbx_run (s : State) (m : Nat) (f : Mailbox → Mailbox) : (s.modMbx m f).run = s.run := rfl
@[simp] theorem State.modMbx_cursors (s : State) (m : Nat) (f : Mailbox → Mailbox) : (s.modMbx m f).cursors = s.cursors := rfl
@[simp] theorem State.modMbx_digestSel (s : State) (m : Nat) (f : Mailbox → Mailbox) : (s.modMbx m f).digestSel = s.digestSel := rfl
@[simp] theorem State.modMbx_captureSel (s : State) (m : Nat) (f : Mailbox → Mailbox) : (s.modMbx m f).captureSel = s.captureSel := rfl
@[simp] theorem State.modMbx_shards (s : State) (m : Nat) (f : Mailbox → Mailbox) : (s.modMbx m f).shards = s.shards := rfl
@[simp] theorem State.modMbx_wins (s : State) (m : Nat) (f : Mailbox → Mailbox) : (s.modMbx m f).wins = s.wins := rfl
@[simp] theorem State.modMbx_envs (s : State) (m : Nat) (f : Mailbox → Mailbox) : (s.modMbx m f).envs = s.envs := rfl
@[simp] theorem State.modMbx_pagesFenced (s : State) (m : Nat) (f : Mailbox → Mailbox) : (s.modMbx m f).pagesFenced = s.pagesFenced := rfl
@[simp] theorem State.modMbx_stills (s : State) (m : Nat) (f : Mailbox → Mailbox) : (s.modMbx m f).stills = s.stills := rfl
@[simp] theorem State.modMbx_scales (s : State) (m : Nat) (f : Mailbox → Mailbox) : (s.modMbx m f).scales = s.scales := rfl
@[simp] theorem State.modMbx_atm (s : State) (m : Nat) (f : Mailbox → Mailbox) : (s.modMbx m f).atm = s.atm := rfl
@[simp] theorem State.modMbx_atmResults (s : State) (m : Nat) (f : Mailbox → Mailbox) : (s.modMbx m f).atmResults = s.atmResults := rfl
@[simp] theorem State.modMbx_fabric (s : State) (m : Nat) (f : Mailbox → Mailbox) : (s.modMbx m f).fabric = s.fabric := rfl
@[simp] theorem State.modMbx_emission (s : State) (m : Nat) (f : Mailbox → Mailbox) : (s.modMbx m f).emission = s.emission := rfl
@[simp] theorem State.modMbx_near (s : State) (m : Nat) (f : Mailbox → Mailbox) : (s.modMbx m f).near = s.near := rfl
@[simp] theorem State.modMbx_restored (s : State) (m : Nat) (f : Mailbox → Mailbox) : (s.modMbx m f).restored = s.restored := rfl
@[simp] theorem State.modMbx_blotter (s : State) (m : Nat) (f : Mailbox → Mailbox) : (s.modMbx m f).blotter = s.blotter := rfl
@[simp] theorem State.modMbx_outPages (s : State) (m : Nat) (f : Mailbox → Mailbox) : (s.modMbx m f).outPages = s.outPages := rfl

/-! ### modFw -/

@[simp] theorem State.modFw_cfg (s : State) (f : Firmware → Firmware) : (s.modFw f).cfg = s.cfg := rfl
@[simp] theorem State.modFw_pending (s : State) (f : Firmware → Firmware) : (s.modFw f).pending = s.pending := rfl
@[simp] theorem State.modFw_free (s : State) (f : Firmware → Firmware) : (s.modFw f).free = s.free := rfl
@[simp] theorem State.modFw_time (s : State) (f : Firmware → Firmware) : (s.modFw f).time = s.time := rfl
@[simp] theorem State.modFw_porst (s : State) (f : Firmware → Firmware) : (s.modFw f).porst = s.porst := rfl
@[simp] theorem State.modFw_wrst (s : State) (f : Firmware → Firmware) : (s.modFw f).wrst = s.wrst := rfl
@[simp] theorem State.modFw_wir (s : State) (f : Firmware → Firmware) : (s.modFw f).wir = s.wir := rfl
@[simp] theorem State.modFw_fall (s : State) (f : Firmware → Firmware) : (s.modFw f).fall = s.fall := rfl
@[simp] theorem State.modFw_testPending (s : State) (f : Firmware → Firmware) : (s.modFw f).testPending = s.testPending := rfl
@[simp] theorem State.modFw_smp (s : State) (f : Firmware → Firmware) : (s.modFw f).smp = s.smp := rfl
@[simp] theorem State.modFw_ops (s : State) (f : Firmware → Firmware) : (s.modFw f).ops = s.ops := rfl
@[simp] theorem State.modFw_retained (s : State) (f : Firmware → Firmware) : (s.modFw f).retained = s.retained := rfl
@[simp] theorem State.modFw_nextHandle (s : State) (f : Firmware → Firmware) : (s.modFw f).nextHandle = s.nextHandle := rfl
@[simp] theorem State.modFw_doms (s : State) (f : Firmware → Firmware) : (s.modFw f).doms = s.doms := rfl
@[simp] theorem State.modFw_clocks (s : State) (f : Firmware → Firmware) : (s.modFw f).clocks = s.clocks := rfl
@[simp] theorem State.modFw_chans (s : State) (f : Firmware → Firmware) : (s.modFw f).chans = s.chans := rfl
@[simp] theorem State.modFw_out (s : State) (f : Firmware → Firmware) : (s.modFw f).out = s.out := rfl
@[simp] theorem State.modFw_dram (s : State) (f : Firmware → Firmware) : (s.modFw f).dram = s.dram := rfl
@[simp] theorem State.modFw_poisonWords (s : State) (f : Firmware → Firmware) : (s.modFw f).poisonWords = s.poisonWords := rfl
@[simp] theorem State.modFw_disc (s : State) (f : Firmware → Firmware) : (s.modFw f).disc = s.disc := rfl
@[simp] theorem State.modFw_fuses (s : State) (f : Firmware → Firmware) : (s.modFw f).fuses = s.fuses := rfl
@[simp] theorem State.modFw_fusePass (s : State) (f : Firmware → Firmware) : (s.modFw f).fusePass = s.fusePass := rfl
@[simp] theorem State.modFw_fw (s : State) (f : Firmware → Firmware) : (s.modFw f).fw = f s.fw := rfl
@[simp] theorem State.modFw_loan (s : State) (f : Firmware → Firmware) : (s.modFw f).loan = s.loan := rfl
@[simp] theorem State.modFw_entropy (s : State) (f : Firmware → Firmware) : (s.modFw f).entropy = s.entropy := rfl
@[simp] theorem State.modFw_keyPresent (s : State) (f : Firmware → Firmware) : (s.modFw f).keyPresent = s.keyPresent := rfl
@[simp] theorem State.modFw_keyFenced (s : State) (f : Firmware → Firmware) : (s.modFw f).keyFenced = s.keyFenced := rfl
@[simp] theorem State.modFw_log (s : State) (f : Firmware → Firmware) : (s.modFw f).log = s.log := rfl
@[simp] theorem State.modFw_counters (s : State) (f : Firmware → Firmware) : (s.modFw f).counters = s.counters := rfl
@[simp] theorem State.modFw_formula (s : State) (f : Firmware → Firmware) : (s.modFw f).formula = s.formula := rfl
@[simp] theorem State.modFw_bounds (s : State) (f : Firmware → Firmware) : (s.modFw f).bounds = s.bounds := rfl
@[simp] theorem State.modFw_waits (s : State) (f : Firmware → Firmware) : (s.modFw f).waits = s.waits := rfl
@[simp] theorem State.modFw_latest (s : State) (f : Firmware → Firmware) : (s.modFw f).latest = s.latest := rfl
@[simp] theorem State.modFw_admitTime (s : State) (f : Firmware → Firmware) : (s.modFw f).admitTime = s.admitTime := rfl
@[simp] theorem State.modFw_anchorBlocked (s : State) (f : Firmware → Firmware) : (s.modFw f).anchorBlocked = s.anchorBlocked := rfl
@[simp] theorem State.modFw_run (s : State) (f : Firmware → Firmware) : (s.modFw f).run = s.run := rfl
@[simp] theorem State.modFw_cursors (s : State) (f : Firmware → Firmware) : (s.modFw f).cursors = s.cursors := rfl
@[simp] theorem State.modFw_digestSel (s : State) (f : Firmware → Firmware) : (s.modFw f).digestSel = s.digestSel := rfl
@[simp] theorem State.modFw_captureSel (s : State) (f : Firmware → Firmware) : (s.modFw f).captureSel = s.captureSel := rfl
@[simp] theorem State.modFw_shards (s : State) (f : Firmware → Firmware) : (s.modFw f).shards = s.shards := rfl
@[simp] theorem State.modFw_wins (s : State) (f : Firmware → Firmware) : (s.modFw f).wins = s.wins := rfl
@[simp] theorem State.modFw_envs (s : State) (f : Firmware → Firmware) : (s.modFw f).envs = s.envs := rfl
@[simp] theorem State.modFw_pagesFenced (s : State) (f : Firmware → Firmware) : (s.modFw f).pagesFenced = s.pagesFenced := rfl
@[simp] theorem State.modFw_stills (s : State) (f : Firmware → Firmware) : (s.modFw f).stills = s.stills := rfl
@[simp] theorem State.modFw_scales (s : State) (f : Firmware → Firmware) : (s.modFw f).scales = s.scales := rfl
@[simp] theorem State.modFw_atm (s : State) (f : Firmware → Firmware) : (s.modFw f).atm = s.atm := rfl
@[simp] theorem State.modFw_atmResults (s : State) (f : Firmware → Firmware) : (s.modFw f).atmResults = s.atmResults := rfl
@[simp] theorem State.modFw_fabric (s : State) (f : Firmware → Firmware) : (s.modFw f).fabric = s.fabric := rfl
@[simp] theorem State.modFw_emission (s : State) (f : Firmware → Firmware) : (s.modFw f).emission = s.emission := rfl
@[simp] theorem State.modFw_near (s : State) (f : Firmware → Firmware) : (s.modFw f).near = s.near := rfl
@[simp] theorem State.modFw_restored (s : State) (f : Firmware → Firmware) : (s.modFw f).restored = s.restored := rfl
@[simp] theorem State.modFw_blotter (s : State) (f : Firmware → Firmware) : (s.modFw f).blotter = s.blotter := rfl
@[simp] theorem State.modFw_outPages (s : State) (f : Firmware → Firmware) : (s.modFw f).outPages = s.outPages := rfl

/-! ### modCode -/

@[simp] theorem State.modCode_cfg (s : State) (i : Nat) (f : CodeSlot → CodeSlot) : (s.modCode i f).cfg = s.cfg := rfl
@[simp] theorem State.modCode_pending (s : State) (i : Nat) (f : CodeSlot → CodeSlot) : (s.modCode i f).pending = s.pending := rfl
@[simp] theorem State.modCode_free (s : State) (i : Nat) (f : CodeSlot → CodeSlot) : (s.modCode i f).free = s.free := rfl
@[simp] theorem State.modCode_time (s : State) (i : Nat) (f : CodeSlot → CodeSlot) : (s.modCode i f).time = s.time := rfl
@[simp] theorem State.modCode_porst (s : State) (i : Nat) (f : CodeSlot → CodeSlot) : (s.modCode i f).porst = s.porst := rfl
@[simp] theorem State.modCode_wrst (s : State) (i : Nat) (f : CodeSlot → CodeSlot) : (s.modCode i f).wrst = s.wrst := rfl
@[simp] theorem State.modCode_wir (s : State) (i : Nat) (f : CodeSlot → CodeSlot) : (s.modCode i f).wir = s.wir := rfl
@[simp] theorem State.modCode_fall (s : State) (i : Nat) (f : CodeSlot → CodeSlot) : (s.modCode i f).fall = s.fall := rfl
@[simp] theorem State.modCode_testPending (s : State) (i : Nat) (f : CodeSlot → CodeSlot) : (s.modCode i f).testPending = s.testPending := rfl
@[simp] theorem State.modCode_smp (s : State) (i : Nat) (f : CodeSlot → CodeSlot) : (s.modCode i f).smp = s.smp := rfl
@[simp] theorem State.modCode_ops (s : State) (i : Nat) (f : CodeSlot → CodeSlot) : (s.modCode i f).ops = s.ops := rfl
@[simp] theorem State.modCode_retained (s : State) (i : Nat) (f : CodeSlot → CodeSlot) : (s.modCode i f).retained = s.retained := rfl
@[simp] theorem State.modCode_nextHandle (s : State) (i : Nat) (f : CodeSlot → CodeSlot) : (s.modCode i f).nextHandle = s.nextHandle := rfl
@[simp] theorem State.modCode_doms (s : State) (i : Nat) (f : CodeSlot → CodeSlot) : (s.modCode i f).doms = s.doms := rfl
@[simp] theorem State.modCode_clocks (s : State) (i : Nat) (f : CodeSlot → CodeSlot) : (s.modCode i f).clocks = s.clocks := rfl
@[simp] theorem State.modCode_chans (s : State) (i : Nat) (f : CodeSlot → CodeSlot) : (s.modCode i f).chans = s.chans := rfl
@[simp] theorem State.modCode_out (s : State) (i : Nat) (f : CodeSlot → CodeSlot) : (s.modCode i f).out = s.out := rfl
@[simp] theorem State.modCode_dram (s : State) (i : Nat) (f : CodeSlot → CodeSlot) : (s.modCode i f).dram = s.dram := rfl
@[simp] theorem State.modCode_poisonWords (s : State) (i : Nat) (f : CodeSlot → CodeSlot) : (s.modCode i f).poisonWords = s.poisonWords := rfl
@[simp] theorem State.modCode_disc (s : State) (i : Nat) (f : CodeSlot → CodeSlot) : (s.modCode i f).disc = s.disc := rfl
@[simp] theorem State.modCode_fuses (s : State) (i : Nat) (f : CodeSlot → CodeSlot) : (s.modCode i f).fuses = s.fuses := rfl
@[simp] theorem State.modCode_fusePass (s : State) (i : Nat) (f : CodeSlot → CodeSlot) : (s.modCode i f).fusePass = s.fusePass := rfl
@[simp] theorem State.modCode_fw (s : State) (i : Nat) (f : CodeSlot → CodeSlot) : (s.modCode i f).fw = { s.fw with slots := modV s.fw.slots i f } := rfl
@[simp] theorem State.modCode_loan (s : State) (i : Nat) (f : CodeSlot → CodeSlot) : (s.modCode i f).loan = s.loan := rfl
@[simp] theorem State.modCode_entropy (s : State) (i : Nat) (f : CodeSlot → CodeSlot) : (s.modCode i f).entropy = s.entropy := rfl
@[simp] theorem State.modCode_keyPresent (s : State) (i : Nat) (f : CodeSlot → CodeSlot) : (s.modCode i f).keyPresent = s.keyPresent := rfl
@[simp] theorem State.modCode_keyFenced (s : State) (i : Nat) (f : CodeSlot → CodeSlot) : (s.modCode i f).keyFenced = s.keyFenced := rfl
@[simp] theorem State.modCode_log (s : State) (i : Nat) (f : CodeSlot → CodeSlot) : (s.modCode i f).log = s.log := rfl
@[simp] theorem State.modCode_counters (s : State) (i : Nat) (f : CodeSlot → CodeSlot) : (s.modCode i f).counters = s.counters := rfl
@[simp] theorem State.modCode_formula (s : State) (i : Nat) (f : CodeSlot → CodeSlot) : (s.modCode i f).formula = s.formula := rfl
@[simp] theorem State.modCode_bounds (s : State) (i : Nat) (f : CodeSlot → CodeSlot) : (s.modCode i f).bounds = s.bounds := rfl
@[simp] theorem State.modCode_waits (s : State) (i : Nat) (f : CodeSlot → CodeSlot) : (s.modCode i f).waits = s.waits := rfl
@[simp] theorem State.modCode_latest (s : State) (i : Nat) (f : CodeSlot → CodeSlot) : (s.modCode i f).latest = s.latest := rfl
@[simp] theorem State.modCode_admitTime (s : State) (i : Nat) (f : CodeSlot → CodeSlot) : (s.modCode i f).admitTime = s.admitTime := rfl
@[simp] theorem State.modCode_anchorBlocked (s : State) (i : Nat) (f : CodeSlot → CodeSlot) : (s.modCode i f).anchorBlocked = s.anchorBlocked := rfl
@[simp] theorem State.modCode_run (s : State) (i : Nat) (f : CodeSlot → CodeSlot) : (s.modCode i f).run = s.run := rfl
@[simp] theorem State.modCode_cursors (s : State) (i : Nat) (f : CodeSlot → CodeSlot) : (s.modCode i f).cursors = s.cursors := rfl
@[simp] theorem State.modCode_digestSel (s : State) (i : Nat) (f : CodeSlot → CodeSlot) : (s.modCode i f).digestSel = s.digestSel := rfl
@[simp] theorem State.modCode_captureSel (s : State) (i : Nat) (f : CodeSlot → CodeSlot) : (s.modCode i f).captureSel = s.captureSel := rfl
@[simp] theorem State.modCode_shards (s : State) (i : Nat) (f : CodeSlot → CodeSlot) : (s.modCode i f).shards = s.shards := rfl
@[simp] theorem State.modCode_wins (s : State) (i : Nat) (f : CodeSlot → CodeSlot) : (s.modCode i f).wins = s.wins := rfl
@[simp] theorem State.modCode_envs (s : State) (i : Nat) (f : CodeSlot → CodeSlot) : (s.modCode i f).envs = s.envs := rfl
@[simp] theorem State.modCode_pagesFenced (s : State) (i : Nat) (f : CodeSlot → CodeSlot) : (s.modCode i f).pagesFenced = s.pagesFenced := rfl
@[simp] theorem State.modCode_stills (s : State) (i : Nat) (f : CodeSlot → CodeSlot) : (s.modCode i f).stills = s.stills := rfl
@[simp] theorem State.modCode_scales (s : State) (i : Nat) (f : CodeSlot → CodeSlot) : (s.modCode i f).scales = s.scales := rfl
@[simp] theorem State.modCode_atm (s : State) (i : Nat) (f : CodeSlot → CodeSlot) : (s.modCode i f).atm = s.atm := rfl
@[simp] theorem State.modCode_atmResults (s : State) (i : Nat) (f : CodeSlot → CodeSlot) : (s.modCode i f).atmResults = s.atmResults := rfl
@[simp] theorem State.modCode_fabric (s : State) (i : Nat) (f : CodeSlot → CodeSlot) : (s.modCode i f).fabric = s.fabric := rfl
@[simp] theorem State.modCode_emission (s : State) (i : Nat) (f : CodeSlot → CodeSlot) : (s.modCode i f).emission = s.emission := rfl
@[simp] theorem State.modCode_near (s : State) (i : Nat) (f : CodeSlot → CodeSlot) : (s.modCode i f).near = s.near := rfl
@[simp] theorem State.modCode_restored (s : State) (i : Nat) (f : CodeSlot → CodeSlot) : (s.modCode i f).restored = s.restored := rfl
@[simp] theorem State.modCode_blotter (s : State) (i : Nat) (f : CodeSlot → CodeSlot) : (s.modCode i f).blotter = s.blotter := rfl
@[simp] theorem State.modCode_outPages (s : State) (i : Nat) (f : CodeSlot → CodeSlot) : (s.modCode i f).outPages = s.outPages := rfl

/-! ### modRun -/

@[simp] theorem State.modRun_cfg (s : State) (f : Run → Run) : (s.modRun f).cfg = s.cfg := rfl
@[simp] theorem State.modRun_pending (s : State) (f : Run → Run) : (s.modRun f).pending = s.pending := rfl
@[simp] theorem State.modRun_free (s : State) (f : Run → Run) : (s.modRun f).free = s.free := rfl
@[simp] theorem State.modRun_time (s : State) (f : Run → Run) : (s.modRun f).time = s.time := rfl
@[simp] theorem State.modRun_porst (s : State) (f : Run → Run) : (s.modRun f).porst = s.porst := rfl
@[simp] theorem State.modRun_wrst (s : State) (f : Run → Run) : (s.modRun f).wrst = s.wrst := rfl
@[simp] theorem State.modRun_wir (s : State) (f : Run → Run) : (s.modRun f).wir = s.wir := rfl
@[simp] theorem State.modRun_fall (s : State) (f : Run → Run) : (s.modRun f).fall = s.fall := rfl
@[simp] theorem State.modRun_testPending (s : State) (f : Run → Run) : (s.modRun f).testPending = s.testPending := rfl
@[simp] theorem State.modRun_smp (s : State) (f : Run → Run) : (s.modRun f).smp = s.smp := rfl
@[simp] theorem State.modRun_ops (s : State) (f : Run → Run) : (s.modRun f).ops = s.ops := rfl
@[simp] theorem State.modRun_retained (s : State) (f : Run → Run) : (s.modRun f).retained = s.retained := rfl
@[simp] theorem State.modRun_nextHandle (s : State) (f : Run → Run) : (s.modRun f).nextHandle = s.nextHandle := rfl
@[simp] theorem State.modRun_doms (s : State) (f : Run → Run) : (s.modRun f).doms = s.doms := rfl
@[simp] theorem State.modRun_clocks (s : State) (f : Run → Run) : (s.modRun f).clocks = s.clocks := rfl
@[simp] theorem State.modRun_chans (s : State) (f : Run → Run) : (s.modRun f).chans = s.chans := rfl
@[simp] theorem State.modRun_out (s : State) (f : Run → Run) : (s.modRun f).out = s.out := rfl
@[simp] theorem State.modRun_dram (s : State) (f : Run → Run) : (s.modRun f).dram = s.dram := rfl
@[simp] theorem State.modRun_poisonWords (s : State) (f : Run → Run) : (s.modRun f).poisonWords = s.poisonWords := rfl
@[simp] theorem State.modRun_disc (s : State) (f : Run → Run) : (s.modRun f).disc = s.disc := rfl
@[simp] theorem State.modRun_fuses (s : State) (f : Run → Run) : (s.modRun f).fuses = s.fuses := rfl
@[simp] theorem State.modRun_fusePass (s : State) (f : Run → Run) : (s.modRun f).fusePass = s.fusePass := rfl
@[simp] theorem State.modRun_fw (s : State) (f : Run → Run) : (s.modRun f).fw = s.fw := rfl
@[simp] theorem State.modRun_loan (s : State) (f : Run → Run) : (s.modRun f).loan = s.loan := rfl
@[simp] theorem State.modRun_entropy (s : State) (f : Run → Run) : (s.modRun f).entropy = s.entropy := rfl
@[simp] theorem State.modRun_keyPresent (s : State) (f : Run → Run) : (s.modRun f).keyPresent = s.keyPresent := rfl
@[simp] theorem State.modRun_keyFenced (s : State) (f : Run → Run) : (s.modRun f).keyFenced = s.keyFenced := rfl
@[simp] theorem State.modRun_log (s : State) (f : Run → Run) : (s.modRun f).log = s.log := rfl
@[simp] theorem State.modRun_counters (s : State) (f : Run → Run) : (s.modRun f).counters = s.counters := rfl
@[simp] theorem State.modRun_formula (s : State) (f : Run → Run) : (s.modRun f).formula = s.formula := rfl
@[simp] theorem State.modRun_bounds (s : State) (f : Run → Run) : (s.modRun f).bounds = s.bounds := rfl
@[simp] theorem State.modRun_waits (s : State) (f : Run → Run) : (s.modRun f).waits = s.waits := rfl
@[simp] theorem State.modRun_latest (s : State) (f : Run → Run) : (s.modRun f).latest = s.latest := rfl
@[simp] theorem State.modRun_admitTime (s : State) (f : Run → Run) : (s.modRun f).admitTime = s.admitTime := rfl
@[simp] theorem State.modRun_anchorBlocked (s : State) (f : Run → Run) : (s.modRun f).anchorBlocked = s.anchorBlocked := rfl
@[simp] theorem State.modRun_run (s : State) (f : Run → Run) : (s.modRun f).run = f s.run := rfl
@[simp] theorem State.modRun_cursors (s : State) (f : Run → Run) : (s.modRun f).cursors = s.cursors := rfl
@[simp] theorem State.modRun_digestSel (s : State) (f : Run → Run) : (s.modRun f).digestSel = s.digestSel := rfl
@[simp] theorem State.modRun_captureSel (s : State) (f : Run → Run) : (s.modRun f).captureSel = s.captureSel := rfl
@[simp] theorem State.modRun_shards (s : State) (f : Run → Run) : (s.modRun f).shards = s.shards := rfl
@[simp] theorem State.modRun_wins (s : State) (f : Run → Run) : (s.modRun f).wins = s.wins := rfl
@[simp] theorem State.modRun_envs (s : State) (f : Run → Run) : (s.modRun f).envs = s.envs := rfl
@[simp] theorem State.modRun_pagesFenced (s : State) (f : Run → Run) : (s.modRun f).pagesFenced = s.pagesFenced := rfl
@[simp] theorem State.modRun_stills (s : State) (f : Run → Run) : (s.modRun f).stills = s.stills := rfl
@[simp] theorem State.modRun_scales (s : State) (f : Run → Run) : (s.modRun f).scales = s.scales := rfl
@[simp] theorem State.modRun_atm (s : State) (f : Run → Run) : (s.modRun f).atm = s.atm := rfl
@[simp] theorem State.modRun_atmResults (s : State) (f : Run → Run) : (s.modRun f).atmResults = s.atmResults := rfl
@[simp] theorem State.modRun_fabric (s : State) (f : Run → Run) : (s.modRun f).fabric = s.fabric := rfl
@[simp] theorem State.modRun_emission (s : State) (f : Run → Run) : (s.modRun f).emission = s.emission := rfl
@[simp] theorem State.modRun_near (s : State) (f : Run → Run) : (s.modRun f).near = s.near := rfl
@[simp] theorem State.modRun_restored (s : State) (f : Run → Run) : (s.modRun f).restored = s.restored := rfl
@[simp] theorem State.modRun_blotter (s : State) (f : Run → Run) : (s.modRun f).blotter = s.blotter := rfl
@[simp] theorem State.modRun_outPages (s : State) (f : Run → Run) : (s.modRun f).outPages = s.outPages := rfl

/-! ### modStills -/

@[simp] theorem State.modStills_cfg (s : State) (f : Stills → Stills) : (s.modStills f).cfg = s.cfg := rfl
@[simp] theorem State.modStills_pending (s : State) (f : Stills → Stills) : (s.modStills f).pending = s.pending := rfl
@[simp] theorem State.modStills_free (s : State) (f : Stills → Stills) : (s.modStills f).free = s.free := rfl
@[simp] theorem State.modStills_time (s : State) (f : Stills → Stills) : (s.modStills f).time = s.time := rfl
@[simp] theorem State.modStills_porst (s : State) (f : Stills → Stills) : (s.modStills f).porst = s.porst := rfl
@[simp] theorem State.modStills_wrst (s : State) (f : Stills → Stills) : (s.modStills f).wrst = s.wrst := rfl
@[simp] theorem State.modStills_wir (s : State) (f : Stills → Stills) : (s.modStills f).wir = s.wir := rfl
@[simp] theorem State.modStills_fall (s : State) (f : Stills → Stills) : (s.modStills f).fall = s.fall := rfl
@[simp] theorem State.modStills_testPending (s : State) (f : Stills → Stills) : (s.modStills f).testPending = s.testPending := rfl
@[simp] theorem State.modStills_smp (s : State) (f : Stills → Stills) : (s.modStills f).smp = s.smp := rfl
@[simp] theorem State.modStills_ops (s : State) (f : Stills → Stills) : (s.modStills f).ops = s.ops := rfl
@[simp] theorem State.modStills_retained (s : State) (f : Stills → Stills) : (s.modStills f).retained = s.retained := rfl
@[simp] theorem State.modStills_nextHandle (s : State) (f : Stills → Stills) : (s.modStills f).nextHandle = s.nextHandle := rfl
@[simp] theorem State.modStills_doms (s : State) (f : Stills → Stills) : (s.modStills f).doms = s.doms := rfl
@[simp] theorem State.modStills_clocks (s : State) (f : Stills → Stills) : (s.modStills f).clocks = s.clocks := rfl
@[simp] theorem State.modStills_chans (s : State) (f : Stills → Stills) : (s.modStills f).chans = s.chans := rfl
@[simp] theorem State.modStills_out (s : State) (f : Stills → Stills) : (s.modStills f).out = s.out := rfl
@[simp] theorem State.modStills_dram (s : State) (f : Stills → Stills) : (s.modStills f).dram = s.dram := rfl
@[simp] theorem State.modStills_poisonWords (s : State) (f : Stills → Stills) : (s.modStills f).poisonWords = s.poisonWords := rfl
@[simp] theorem State.modStills_disc (s : State) (f : Stills → Stills) : (s.modStills f).disc = s.disc := rfl
@[simp] theorem State.modStills_fuses (s : State) (f : Stills → Stills) : (s.modStills f).fuses = s.fuses := rfl
@[simp] theorem State.modStills_fusePass (s : State) (f : Stills → Stills) : (s.modStills f).fusePass = s.fusePass := rfl
@[simp] theorem State.modStills_fw (s : State) (f : Stills → Stills) : (s.modStills f).fw = s.fw := rfl
@[simp] theorem State.modStills_loan (s : State) (f : Stills → Stills) : (s.modStills f).loan = s.loan := rfl
@[simp] theorem State.modStills_entropy (s : State) (f : Stills → Stills) : (s.modStills f).entropy = s.entropy := rfl
@[simp] theorem State.modStills_keyPresent (s : State) (f : Stills → Stills) : (s.modStills f).keyPresent = s.keyPresent := rfl
@[simp] theorem State.modStills_keyFenced (s : State) (f : Stills → Stills) : (s.modStills f).keyFenced = s.keyFenced := rfl
@[simp] theorem State.modStills_log (s : State) (f : Stills → Stills) : (s.modStills f).log = s.log := rfl
@[simp] theorem State.modStills_counters (s : State) (f : Stills → Stills) : (s.modStills f).counters = s.counters := rfl
@[simp] theorem State.modStills_formula (s : State) (f : Stills → Stills) : (s.modStills f).formula = s.formula := rfl
@[simp] theorem State.modStills_bounds (s : State) (f : Stills → Stills) : (s.modStills f).bounds = s.bounds := rfl
@[simp] theorem State.modStills_waits (s : State) (f : Stills → Stills) : (s.modStills f).waits = s.waits := rfl
@[simp] theorem State.modStills_latest (s : State) (f : Stills → Stills) : (s.modStills f).latest = s.latest := rfl
@[simp] theorem State.modStills_admitTime (s : State) (f : Stills → Stills) : (s.modStills f).admitTime = s.admitTime := rfl
@[simp] theorem State.modStills_anchorBlocked (s : State) (f : Stills → Stills) : (s.modStills f).anchorBlocked = s.anchorBlocked := rfl
@[simp] theorem State.modStills_run (s : State) (f : Stills → Stills) : (s.modStills f).run = s.run := rfl
@[simp] theorem State.modStills_cursors (s : State) (f : Stills → Stills) : (s.modStills f).cursors = s.cursors := rfl
@[simp] theorem State.modStills_digestSel (s : State) (f : Stills → Stills) : (s.modStills f).digestSel = s.digestSel := rfl
@[simp] theorem State.modStills_captureSel (s : State) (f : Stills → Stills) : (s.modStills f).captureSel = s.captureSel := rfl
@[simp] theorem State.modStills_shards (s : State) (f : Stills → Stills) : (s.modStills f).shards = s.shards := rfl
@[simp] theorem State.modStills_wins (s : State) (f : Stills → Stills) : (s.modStills f).wins = s.wins := rfl
@[simp] theorem State.modStills_envs (s : State) (f : Stills → Stills) : (s.modStills f).envs = s.envs := rfl
@[simp] theorem State.modStills_pagesFenced (s : State) (f : Stills → Stills) : (s.modStills f).pagesFenced = s.pagesFenced := rfl
@[simp] theorem State.modStills_stills (s : State) (f : Stills → Stills) : (s.modStills f).stills = f s.stills := rfl
@[simp] theorem State.modStills_scales (s : State) (f : Stills → Stills) : (s.modStills f).scales = s.scales := rfl
@[simp] theorem State.modStills_atm (s : State) (f : Stills → Stills) : (s.modStills f).atm = s.atm := rfl
@[simp] theorem State.modStills_atmResults (s : State) (f : Stills → Stills) : (s.modStills f).atmResults = s.atmResults := rfl
@[simp] theorem State.modStills_fabric (s : State) (f : Stills → Stills) : (s.modStills f).fabric = s.fabric := rfl
@[simp] theorem State.modStills_emission (s : State) (f : Stills → Stills) : (s.modStills f).emission = s.emission := rfl
@[simp] theorem State.modStills_near (s : State) (f : Stills → Stills) : (s.modStills f).near = s.near := rfl
@[simp] theorem State.modStills_restored (s : State) (f : Stills → Stills) : (s.modStills f).restored = s.restored := rfl
@[simp] theorem State.modStills_blotter (s : State) (f : Stills → Stills) : (s.modStills f).blotter = s.blotter := rfl
@[simp] theorem State.modStills_outPages (s : State) (f : Stills → Stills) : (s.modStills f).outPages = s.outPages := rfl

/-! ### modFabric -/

@[simp] theorem State.modFabric_cfg (s : State) (f : Fabric → Fabric) : (s.modFabric f).cfg = s.cfg := rfl
@[simp] theorem State.modFabric_pending (s : State) (f : Fabric → Fabric) : (s.modFabric f).pending = s.pending := rfl
@[simp] theorem State.modFabric_free (s : State) (f : Fabric → Fabric) : (s.modFabric f).free = s.free := rfl
@[simp] theorem State.modFabric_time (s : State) (f : Fabric → Fabric) : (s.modFabric f).time = s.time := rfl
@[simp] theorem State.modFabric_porst (s : State) (f : Fabric → Fabric) : (s.modFabric f).porst = s.porst := rfl
@[simp] theorem State.modFabric_wrst (s : State) (f : Fabric → Fabric) : (s.modFabric f).wrst = s.wrst := rfl
@[simp] theorem State.modFabric_wir (s : State) (f : Fabric → Fabric) : (s.modFabric f).wir = s.wir := rfl
@[simp] theorem State.modFabric_fall (s : State) (f : Fabric → Fabric) : (s.modFabric f).fall = s.fall := rfl
@[simp] theorem State.modFabric_testPending (s : State) (f : Fabric → Fabric) : (s.modFabric f).testPending = s.testPending := rfl
@[simp] theorem State.modFabric_smp (s : State) (f : Fabric → Fabric) : (s.modFabric f).smp = s.smp := rfl
@[simp] theorem State.modFabric_ops (s : State) (f : Fabric → Fabric) : (s.modFabric f).ops = s.ops := rfl
@[simp] theorem State.modFabric_retained (s : State) (f : Fabric → Fabric) : (s.modFabric f).retained = s.retained := rfl
@[simp] theorem State.modFabric_nextHandle (s : State) (f : Fabric → Fabric) : (s.modFabric f).nextHandle = s.nextHandle := rfl
@[simp] theorem State.modFabric_doms (s : State) (f : Fabric → Fabric) : (s.modFabric f).doms = s.doms := rfl
@[simp] theorem State.modFabric_clocks (s : State) (f : Fabric → Fabric) : (s.modFabric f).clocks = s.clocks := rfl
@[simp] theorem State.modFabric_chans (s : State) (f : Fabric → Fabric) : (s.modFabric f).chans = s.chans := rfl
@[simp] theorem State.modFabric_out (s : State) (f : Fabric → Fabric) : (s.modFabric f).out = s.out := rfl
@[simp] theorem State.modFabric_dram (s : State) (f : Fabric → Fabric) : (s.modFabric f).dram = s.dram := rfl
@[simp] theorem State.modFabric_poisonWords (s : State) (f : Fabric → Fabric) : (s.modFabric f).poisonWords = s.poisonWords := rfl
@[simp] theorem State.modFabric_disc (s : State) (f : Fabric → Fabric) : (s.modFabric f).disc = s.disc := rfl
@[simp] theorem State.modFabric_fuses (s : State) (f : Fabric → Fabric) : (s.modFabric f).fuses = s.fuses := rfl
@[simp] theorem State.modFabric_fusePass (s : State) (f : Fabric → Fabric) : (s.modFabric f).fusePass = s.fusePass := rfl
@[simp] theorem State.modFabric_fw (s : State) (f : Fabric → Fabric) : (s.modFabric f).fw = s.fw := rfl
@[simp] theorem State.modFabric_loan (s : State) (f : Fabric → Fabric) : (s.modFabric f).loan = s.loan := rfl
@[simp] theorem State.modFabric_entropy (s : State) (f : Fabric → Fabric) : (s.modFabric f).entropy = s.entropy := rfl
@[simp] theorem State.modFabric_keyPresent (s : State) (f : Fabric → Fabric) : (s.modFabric f).keyPresent = s.keyPresent := rfl
@[simp] theorem State.modFabric_keyFenced (s : State) (f : Fabric → Fabric) : (s.modFabric f).keyFenced = s.keyFenced := rfl
@[simp] theorem State.modFabric_log (s : State) (f : Fabric → Fabric) : (s.modFabric f).log = s.log := rfl
@[simp] theorem State.modFabric_counters (s : State) (f : Fabric → Fabric) : (s.modFabric f).counters = s.counters := rfl
@[simp] theorem State.modFabric_formula (s : State) (f : Fabric → Fabric) : (s.modFabric f).formula = s.formula := rfl
@[simp] theorem State.modFabric_bounds (s : State) (f : Fabric → Fabric) : (s.modFabric f).bounds = s.bounds := rfl
@[simp] theorem State.modFabric_waits (s : State) (f : Fabric → Fabric) : (s.modFabric f).waits = s.waits := rfl
@[simp] theorem State.modFabric_latest (s : State) (f : Fabric → Fabric) : (s.modFabric f).latest = s.latest := rfl
@[simp] theorem State.modFabric_admitTime (s : State) (f : Fabric → Fabric) : (s.modFabric f).admitTime = s.admitTime := rfl
@[simp] theorem State.modFabric_anchorBlocked (s : State) (f : Fabric → Fabric) : (s.modFabric f).anchorBlocked = s.anchorBlocked := rfl
@[simp] theorem State.modFabric_run (s : State) (f : Fabric → Fabric) : (s.modFabric f).run = s.run := rfl
@[simp] theorem State.modFabric_cursors (s : State) (f : Fabric → Fabric) : (s.modFabric f).cursors = s.cursors := rfl
@[simp] theorem State.modFabric_digestSel (s : State) (f : Fabric → Fabric) : (s.modFabric f).digestSel = s.digestSel := rfl
@[simp] theorem State.modFabric_captureSel (s : State) (f : Fabric → Fabric) : (s.modFabric f).captureSel = s.captureSel := rfl
@[simp] theorem State.modFabric_shards (s : State) (f : Fabric → Fabric) : (s.modFabric f).shards = s.shards := rfl
@[simp] theorem State.modFabric_wins (s : State) (f : Fabric → Fabric) : (s.modFabric f).wins = s.wins := rfl
@[simp] theorem State.modFabric_envs (s : State) (f : Fabric → Fabric) : (s.modFabric f).envs = s.envs := rfl
@[simp] theorem State.modFabric_pagesFenced (s : State) (f : Fabric → Fabric) : (s.modFabric f).pagesFenced = s.pagesFenced := rfl
@[simp] theorem State.modFabric_stills (s : State) (f : Fabric → Fabric) : (s.modFabric f).stills = s.stills := rfl
@[simp] theorem State.modFabric_scales (s : State) (f : Fabric → Fabric) : (s.modFabric f).scales = s.scales := rfl
@[simp] theorem State.modFabric_atm (s : State) (f : Fabric → Fabric) : (s.modFabric f).atm = s.atm := rfl
@[simp] theorem State.modFabric_atmResults (s : State) (f : Fabric → Fabric) : (s.modFabric f).atmResults = s.atmResults := rfl
@[simp] theorem State.modFabric_fabric (s : State) (f : Fabric → Fabric) : (s.modFabric f).fabric = f s.fabric := rfl
@[simp] theorem State.modFabric_emission (s : State) (f : Fabric → Fabric) : (s.modFabric f).emission = s.emission := rfl
@[simp] theorem State.modFabric_near (s : State) (f : Fabric → Fabric) : (s.modFabric f).near = s.near := rfl
@[simp] theorem State.modFabric_restored (s : State) (f : Fabric → Fabric) : (s.modFabric f).restored = s.restored := rfl
@[simp] theorem State.modFabric_blotter (s : State) (f : Fabric → Fabric) : (s.modFabric f).blotter = s.blotter := rfl
@[simp] theorem State.modFabric_outPages (s : State) (f : Fabric → Fabric) : (s.modFabric f).outPages = s.outPages := rfl

/-! ### modLink -/

@[simp] theorem State.modLink_cfg (s : State) (p : Nat) (f : Link → Link) : (s.modLink p f).cfg = s.cfg := rfl
@[simp] theorem State.modLink_pending (s : State) (p : Nat) (f : Link → Link) : (s.modLink p f).pending = s.pending := rfl
@[simp] theorem State.modLink_free (s : State) (p : Nat) (f : Link → Link) : (s.modLink p f).free = s.free := rfl
@[simp] theorem State.modLink_time (s : State) (p : Nat) (f : Link → Link) : (s.modLink p f).time = s.time := rfl
@[simp] theorem State.modLink_porst (s : State) (p : Nat) (f : Link → Link) : (s.modLink p f).porst = s.porst := rfl
@[simp] theorem State.modLink_wrst (s : State) (p : Nat) (f : Link → Link) : (s.modLink p f).wrst = s.wrst := rfl
@[simp] theorem State.modLink_wir (s : State) (p : Nat) (f : Link → Link) : (s.modLink p f).wir = s.wir := rfl
@[simp] theorem State.modLink_fall (s : State) (p : Nat) (f : Link → Link) : (s.modLink p f).fall = s.fall := rfl
@[simp] theorem State.modLink_testPending (s : State) (p : Nat) (f : Link → Link) : (s.modLink p f).testPending = s.testPending := rfl
@[simp] theorem State.modLink_smp (s : State) (p : Nat) (f : Link → Link) : (s.modLink p f).smp = s.smp := rfl
@[simp] theorem State.modLink_ops (s : State) (p : Nat) (f : Link → Link) : (s.modLink p f).ops = s.ops := rfl
@[simp] theorem State.modLink_retained (s : State) (p : Nat) (f : Link → Link) : (s.modLink p f).retained = s.retained := rfl
@[simp] theorem State.modLink_nextHandle (s : State) (p : Nat) (f : Link → Link) : (s.modLink p f).nextHandle = s.nextHandle := rfl
@[simp] theorem State.modLink_doms (s : State) (p : Nat) (f : Link → Link) : (s.modLink p f).doms = s.doms := rfl
@[simp] theorem State.modLink_clocks (s : State) (p : Nat) (f : Link → Link) : (s.modLink p f).clocks = s.clocks := rfl
@[simp] theorem State.modLink_chans (s : State) (p : Nat) (f : Link → Link) : (s.modLink p f).chans = s.chans := rfl
@[simp] theorem State.modLink_out (s : State) (p : Nat) (f : Link → Link) : (s.modLink p f).out = s.out := rfl
@[simp] theorem State.modLink_dram (s : State) (p : Nat) (f : Link → Link) : (s.modLink p f).dram = s.dram := rfl
@[simp] theorem State.modLink_poisonWords (s : State) (p : Nat) (f : Link → Link) : (s.modLink p f).poisonWords = s.poisonWords := rfl
@[simp] theorem State.modLink_disc (s : State) (p : Nat) (f : Link → Link) : (s.modLink p f).disc = s.disc := rfl
@[simp] theorem State.modLink_fuses (s : State) (p : Nat) (f : Link → Link) : (s.modLink p f).fuses = s.fuses := rfl
@[simp] theorem State.modLink_fusePass (s : State) (p : Nat) (f : Link → Link) : (s.modLink p f).fusePass = s.fusePass := rfl
@[simp] theorem State.modLink_fw (s : State) (p : Nat) (f : Link → Link) : (s.modLink p f).fw = s.fw := rfl
@[simp] theorem State.modLink_loan (s : State) (p : Nat) (f : Link → Link) : (s.modLink p f).loan = s.loan := rfl
@[simp] theorem State.modLink_entropy (s : State) (p : Nat) (f : Link → Link) : (s.modLink p f).entropy = s.entropy := rfl
@[simp] theorem State.modLink_keyPresent (s : State) (p : Nat) (f : Link → Link) : (s.modLink p f).keyPresent = s.keyPresent := rfl
@[simp] theorem State.modLink_keyFenced (s : State) (p : Nat) (f : Link → Link) : (s.modLink p f).keyFenced = s.keyFenced := rfl
@[simp] theorem State.modLink_log (s : State) (p : Nat) (f : Link → Link) : (s.modLink p f).log = s.log := rfl
@[simp] theorem State.modLink_counters (s : State) (p : Nat) (f : Link → Link) : (s.modLink p f).counters = s.counters := rfl
@[simp] theorem State.modLink_formula (s : State) (p : Nat) (f : Link → Link) : (s.modLink p f).formula = s.formula := rfl
@[simp] theorem State.modLink_bounds (s : State) (p : Nat) (f : Link → Link) : (s.modLink p f).bounds = s.bounds := rfl
@[simp] theorem State.modLink_waits (s : State) (p : Nat) (f : Link → Link) : (s.modLink p f).waits = s.waits := rfl
@[simp] theorem State.modLink_latest (s : State) (p : Nat) (f : Link → Link) : (s.modLink p f).latest = s.latest := rfl
@[simp] theorem State.modLink_admitTime (s : State) (p : Nat) (f : Link → Link) : (s.modLink p f).admitTime = s.admitTime := rfl
@[simp] theorem State.modLink_anchorBlocked (s : State) (p : Nat) (f : Link → Link) : (s.modLink p f).anchorBlocked = s.anchorBlocked := rfl
@[simp] theorem State.modLink_run (s : State) (p : Nat) (f : Link → Link) : (s.modLink p f).run = s.run := rfl
@[simp] theorem State.modLink_cursors (s : State) (p : Nat) (f : Link → Link) : (s.modLink p f).cursors = s.cursors := rfl
@[simp] theorem State.modLink_digestSel (s : State) (p : Nat) (f : Link → Link) : (s.modLink p f).digestSel = s.digestSel := rfl
@[simp] theorem State.modLink_captureSel (s : State) (p : Nat) (f : Link → Link) : (s.modLink p f).captureSel = s.captureSel := rfl
@[simp] theorem State.modLink_shards (s : State) (p : Nat) (f : Link → Link) : (s.modLink p f).shards = s.shards := rfl
@[simp] theorem State.modLink_wins (s : State) (p : Nat) (f : Link → Link) : (s.modLink p f).wins = s.wins := rfl
@[simp] theorem State.modLink_envs (s : State) (p : Nat) (f : Link → Link) : (s.modLink p f).envs = s.envs := rfl
@[simp] theorem State.modLink_pagesFenced (s : State) (p : Nat) (f : Link → Link) : (s.modLink p f).pagesFenced = s.pagesFenced := rfl
@[simp] theorem State.modLink_stills (s : State) (p : Nat) (f : Link → Link) : (s.modLink p f).stills = s.stills := rfl
@[simp] theorem State.modLink_scales (s : State) (p : Nat) (f : Link → Link) : (s.modLink p f).scales = s.scales := rfl
@[simp] theorem State.modLink_atm (s : State) (p : Nat) (f : Link → Link) : (s.modLink p f).atm = s.atm := rfl
@[simp] theorem State.modLink_atmResults (s : State) (p : Nat) (f : Link → Link) : (s.modLink p f).atmResults = s.atmResults := rfl
@[simp] theorem State.modLink_fabric (s : State) (p : Nat) (f : Link → Link) : (s.modLink p f).fabric = { s.fabric with links := modV s.fabric.links p f } := rfl
@[simp] theorem State.modLink_emission (s : State) (p : Nat) (f : Link → Link) : (s.modLink p f).emission = s.emission := rfl
@[simp] theorem State.modLink_near (s : State) (p : Nat) (f : Link → Link) : (s.modLink p f).near = s.near := rfl
@[simp] theorem State.modLink_restored (s : State) (p : Nat) (f : Link → Link) : (s.modLink p f).restored = s.restored := rfl
@[simp] theorem State.modLink_blotter (s : State) (p : Nat) (f : Link → Link) : (s.modLink p f).blotter = s.blotter := rfl
@[simp] theorem State.modLink_outPages (s : State) (p : Nat) (f : Link → Link) : (s.modLink p f).outPages = s.outPages := rfl

/-! ### modChan -/

@[simp] theorem State.modChan_cfg (s : State) (i : Nat) (f : Channel → Channel) : (s.modChan i f).cfg = s.cfg := rfl
@[simp] theorem State.modChan_pending (s : State) (i : Nat) (f : Channel → Channel) : (s.modChan i f).pending = s.pending := rfl
@[simp] theorem State.modChan_free (s : State) (i : Nat) (f : Channel → Channel) : (s.modChan i f).free = s.free := rfl
@[simp] theorem State.modChan_time (s : State) (i : Nat) (f : Channel → Channel) : (s.modChan i f).time = s.time := rfl
@[simp] theorem State.modChan_porst (s : State) (i : Nat) (f : Channel → Channel) : (s.modChan i f).porst = s.porst := rfl
@[simp] theorem State.modChan_wrst (s : State) (i : Nat) (f : Channel → Channel) : (s.modChan i f).wrst = s.wrst := rfl
@[simp] theorem State.modChan_wir (s : State) (i : Nat) (f : Channel → Channel) : (s.modChan i f).wir = s.wir := rfl
@[simp] theorem State.modChan_fall (s : State) (i : Nat) (f : Channel → Channel) : (s.modChan i f).fall = s.fall := rfl
@[simp] theorem State.modChan_testPending (s : State) (i : Nat) (f : Channel → Channel) : (s.modChan i f).testPending = s.testPending := rfl
@[simp] theorem State.modChan_smp (s : State) (i : Nat) (f : Channel → Channel) : (s.modChan i f).smp = s.smp := rfl
@[simp] theorem State.modChan_ops (s : State) (i : Nat) (f : Channel → Channel) : (s.modChan i f).ops = s.ops := rfl
@[simp] theorem State.modChan_retained (s : State) (i : Nat) (f : Channel → Channel) : (s.modChan i f).retained = s.retained := rfl
@[simp] theorem State.modChan_nextHandle (s : State) (i : Nat) (f : Channel → Channel) : (s.modChan i f).nextHandle = s.nextHandle := rfl
@[simp] theorem State.modChan_doms (s : State) (i : Nat) (f : Channel → Channel) : (s.modChan i f).doms = s.doms := rfl
@[simp] theorem State.modChan_clocks (s : State) (i : Nat) (f : Channel → Channel) : (s.modChan i f).clocks = s.clocks := rfl
@[simp] theorem State.modChan_chans (s : State) (i : Nat) (f : Channel → Channel) : (s.modChan i f).chans = modV s.chans i f := rfl
@[simp] theorem State.modChan_out (s : State) (i : Nat) (f : Channel → Channel) : (s.modChan i f).out = s.out := rfl
@[simp] theorem State.modChan_dram (s : State) (i : Nat) (f : Channel → Channel) : (s.modChan i f).dram = s.dram := rfl
@[simp] theorem State.modChan_poisonWords (s : State) (i : Nat) (f : Channel → Channel) : (s.modChan i f).poisonWords = s.poisonWords := rfl
@[simp] theorem State.modChan_disc (s : State) (i : Nat) (f : Channel → Channel) : (s.modChan i f).disc = s.disc := rfl
@[simp] theorem State.modChan_fuses (s : State) (i : Nat) (f : Channel → Channel) : (s.modChan i f).fuses = s.fuses := rfl
@[simp] theorem State.modChan_fusePass (s : State) (i : Nat) (f : Channel → Channel) : (s.modChan i f).fusePass = s.fusePass := rfl
@[simp] theorem State.modChan_fw (s : State) (i : Nat) (f : Channel → Channel) : (s.modChan i f).fw = s.fw := rfl
@[simp] theorem State.modChan_loan (s : State) (i : Nat) (f : Channel → Channel) : (s.modChan i f).loan = s.loan := rfl
@[simp] theorem State.modChan_entropy (s : State) (i : Nat) (f : Channel → Channel) : (s.modChan i f).entropy = s.entropy := rfl
@[simp] theorem State.modChan_keyPresent (s : State) (i : Nat) (f : Channel → Channel) : (s.modChan i f).keyPresent = s.keyPresent := rfl
@[simp] theorem State.modChan_keyFenced (s : State) (i : Nat) (f : Channel → Channel) : (s.modChan i f).keyFenced = s.keyFenced := rfl
@[simp] theorem State.modChan_log (s : State) (i : Nat) (f : Channel → Channel) : (s.modChan i f).log = s.log := rfl
@[simp] theorem State.modChan_counters (s : State) (i : Nat) (f : Channel → Channel) : (s.modChan i f).counters = s.counters := rfl
@[simp] theorem State.modChan_formula (s : State) (i : Nat) (f : Channel → Channel) : (s.modChan i f).formula = s.formula := rfl
@[simp] theorem State.modChan_bounds (s : State) (i : Nat) (f : Channel → Channel) : (s.modChan i f).bounds = s.bounds := rfl
@[simp] theorem State.modChan_waits (s : State) (i : Nat) (f : Channel → Channel) : (s.modChan i f).waits = s.waits := rfl
@[simp] theorem State.modChan_latest (s : State) (i : Nat) (f : Channel → Channel) : (s.modChan i f).latest = s.latest := rfl
@[simp] theorem State.modChan_admitTime (s : State) (i : Nat) (f : Channel → Channel) : (s.modChan i f).admitTime = s.admitTime := rfl
@[simp] theorem State.modChan_anchorBlocked (s : State) (i : Nat) (f : Channel → Channel) : (s.modChan i f).anchorBlocked = s.anchorBlocked := rfl
@[simp] theorem State.modChan_run (s : State) (i : Nat) (f : Channel → Channel) : (s.modChan i f).run = s.run := rfl
@[simp] theorem State.modChan_cursors (s : State) (i : Nat) (f : Channel → Channel) : (s.modChan i f).cursors = s.cursors := rfl
@[simp] theorem State.modChan_digestSel (s : State) (i : Nat) (f : Channel → Channel) : (s.modChan i f).digestSel = s.digestSel := rfl
@[simp] theorem State.modChan_captureSel (s : State) (i : Nat) (f : Channel → Channel) : (s.modChan i f).captureSel = s.captureSel := rfl
@[simp] theorem State.modChan_shards (s : State) (i : Nat) (f : Channel → Channel) : (s.modChan i f).shards = s.shards := rfl
@[simp] theorem State.modChan_wins (s : State) (i : Nat) (f : Channel → Channel) : (s.modChan i f).wins = s.wins := rfl
@[simp] theorem State.modChan_envs (s : State) (i : Nat) (f : Channel → Channel) : (s.modChan i f).envs = s.envs := rfl
@[simp] theorem State.modChan_pagesFenced (s : State) (i : Nat) (f : Channel → Channel) : (s.modChan i f).pagesFenced = s.pagesFenced := rfl
@[simp] theorem State.modChan_stills (s : State) (i : Nat) (f : Channel → Channel) : (s.modChan i f).stills = s.stills := rfl
@[simp] theorem State.modChan_scales (s : State) (i : Nat) (f : Channel → Channel) : (s.modChan i f).scales = s.scales := rfl
@[simp] theorem State.modChan_atm (s : State) (i : Nat) (f : Channel → Channel) : (s.modChan i f).atm = s.atm := rfl
@[simp] theorem State.modChan_atmResults (s : State) (i : Nat) (f : Channel → Channel) : (s.modChan i f).atmResults = s.atmResults := rfl
@[simp] theorem State.modChan_fabric (s : State) (i : Nat) (f : Channel → Channel) : (s.modChan i f).fabric = s.fabric := rfl
@[simp] theorem State.modChan_emission (s : State) (i : Nat) (f : Channel → Channel) : (s.modChan i f).emission = s.emission := rfl
@[simp] theorem State.modChan_near (s : State) (i : Nat) (f : Channel → Channel) : (s.modChan i f).near = s.near := rfl
@[simp] theorem State.modChan_restored (s : State) (i : Nat) (f : Channel → Channel) : (s.modChan i f).restored = s.restored := rfl
@[simp] theorem State.modChan_blotter (s : State) (i : Nat) (f : Channel → Channel) : (s.modChan i f).blotter = s.blotter := rfl
@[simp] theorem State.modChan_outPages (s : State) (i : Nat) (f : Channel → Channel) : (s.modChan i f).outPages = s.outPages := rfl

/-! ### modDom -/

@[simp] theorem State.modDom_cfg (s : State) (i : Nat) (f : Dom → Dom) : (s.modDom i f).cfg = s.cfg := rfl
@[simp] theorem State.modDom_pending (s : State) (i : Nat) (f : Dom → Dom) : (s.modDom i f).pending = s.pending := rfl
@[simp] theorem State.modDom_free (s : State) (i : Nat) (f : Dom → Dom) : (s.modDom i f).free = s.free := rfl
@[simp] theorem State.modDom_time (s : State) (i : Nat) (f : Dom → Dom) : (s.modDom i f).time = s.time := rfl
@[simp] theorem State.modDom_porst (s : State) (i : Nat) (f : Dom → Dom) : (s.modDom i f).porst = s.porst := rfl
@[simp] theorem State.modDom_wrst (s : State) (i : Nat) (f : Dom → Dom) : (s.modDom i f).wrst = s.wrst := rfl
@[simp] theorem State.modDom_wir (s : State) (i : Nat) (f : Dom → Dom) : (s.modDom i f).wir = s.wir := rfl
@[simp] theorem State.modDom_fall (s : State) (i : Nat) (f : Dom → Dom) : (s.modDom i f).fall = s.fall := rfl
@[simp] theorem State.modDom_testPending (s : State) (i : Nat) (f : Dom → Dom) : (s.modDom i f).testPending = s.testPending := rfl
@[simp] theorem State.modDom_smp (s : State) (i : Nat) (f : Dom → Dom) : (s.modDom i f).smp = s.smp := rfl
@[simp] theorem State.modDom_ops (s : State) (i : Nat) (f : Dom → Dom) : (s.modDom i f).ops = s.ops := rfl
@[simp] theorem State.modDom_retained (s : State) (i : Nat) (f : Dom → Dom) : (s.modDom i f).retained = s.retained := rfl
@[simp] theorem State.modDom_nextHandle (s : State) (i : Nat) (f : Dom → Dom) : (s.modDom i f).nextHandle = s.nextHandle := rfl
@[simp] theorem State.modDom_doms (s : State) (i : Nat) (f : Dom → Dom) : (s.modDom i f).doms = modV s.doms i f := rfl
@[simp] theorem State.modDom_clocks (s : State) (i : Nat) (f : Dom → Dom) : (s.modDom i f).clocks = s.clocks := rfl
@[simp] theorem State.modDom_chans (s : State) (i : Nat) (f : Dom → Dom) : (s.modDom i f).chans = s.chans := rfl
@[simp] theorem State.modDom_out (s : State) (i : Nat) (f : Dom → Dom) : (s.modDom i f).out = s.out := rfl
@[simp] theorem State.modDom_dram (s : State) (i : Nat) (f : Dom → Dom) : (s.modDom i f).dram = s.dram := rfl
@[simp] theorem State.modDom_poisonWords (s : State) (i : Nat) (f : Dom → Dom) : (s.modDom i f).poisonWords = s.poisonWords := rfl
@[simp] theorem State.modDom_disc (s : State) (i : Nat) (f : Dom → Dom) : (s.modDom i f).disc = s.disc := rfl
@[simp] theorem State.modDom_fuses (s : State) (i : Nat) (f : Dom → Dom) : (s.modDom i f).fuses = s.fuses := rfl
@[simp] theorem State.modDom_fusePass (s : State) (i : Nat) (f : Dom → Dom) : (s.modDom i f).fusePass = s.fusePass := rfl
@[simp] theorem State.modDom_fw (s : State) (i : Nat) (f : Dom → Dom) : (s.modDom i f).fw = s.fw := rfl
@[simp] theorem State.modDom_loan (s : State) (i : Nat) (f : Dom → Dom) : (s.modDom i f).loan = s.loan := rfl
@[simp] theorem State.modDom_entropy (s : State) (i : Nat) (f : Dom → Dom) : (s.modDom i f).entropy = s.entropy := rfl
@[simp] theorem State.modDom_keyPresent (s : State) (i : Nat) (f : Dom → Dom) : (s.modDom i f).keyPresent = s.keyPresent := rfl
@[simp] theorem State.modDom_keyFenced (s : State) (i : Nat) (f : Dom → Dom) : (s.modDom i f).keyFenced = s.keyFenced := rfl
@[simp] theorem State.modDom_log (s : State) (i : Nat) (f : Dom → Dom) : (s.modDom i f).log = s.log := rfl
@[simp] theorem State.modDom_counters (s : State) (i : Nat) (f : Dom → Dom) : (s.modDom i f).counters = s.counters := rfl
@[simp] theorem State.modDom_formula (s : State) (i : Nat) (f : Dom → Dom) : (s.modDom i f).formula = s.formula := rfl
@[simp] theorem State.modDom_bounds (s : State) (i : Nat) (f : Dom → Dom) : (s.modDom i f).bounds = s.bounds := rfl
@[simp] theorem State.modDom_waits (s : State) (i : Nat) (f : Dom → Dom) : (s.modDom i f).waits = s.waits := rfl
@[simp] theorem State.modDom_latest (s : State) (i : Nat) (f : Dom → Dom) : (s.modDom i f).latest = s.latest := rfl
@[simp] theorem State.modDom_admitTime (s : State) (i : Nat) (f : Dom → Dom) : (s.modDom i f).admitTime = s.admitTime := rfl
@[simp] theorem State.modDom_anchorBlocked (s : State) (i : Nat) (f : Dom → Dom) : (s.modDom i f).anchorBlocked = s.anchorBlocked := rfl
@[simp] theorem State.modDom_run (s : State) (i : Nat) (f : Dom → Dom) : (s.modDom i f).run = s.run := rfl
@[simp] theorem State.modDom_cursors (s : State) (i : Nat) (f : Dom → Dom) : (s.modDom i f).cursors = s.cursors := rfl
@[simp] theorem State.modDom_digestSel (s : State) (i : Nat) (f : Dom → Dom) : (s.modDom i f).digestSel = s.digestSel := rfl
@[simp] theorem State.modDom_captureSel (s : State) (i : Nat) (f : Dom → Dom) : (s.modDom i f).captureSel = s.captureSel := rfl
@[simp] theorem State.modDom_shards (s : State) (i : Nat) (f : Dom → Dom) : (s.modDom i f).shards = s.shards := rfl
@[simp] theorem State.modDom_wins (s : State) (i : Nat) (f : Dom → Dom) : (s.modDom i f).wins = s.wins := rfl
@[simp] theorem State.modDom_envs (s : State) (i : Nat) (f : Dom → Dom) : (s.modDom i f).envs = s.envs := rfl
@[simp] theorem State.modDom_pagesFenced (s : State) (i : Nat) (f : Dom → Dom) : (s.modDom i f).pagesFenced = s.pagesFenced := rfl
@[simp] theorem State.modDom_stills (s : State) (i : Nat) (f : Dom → Dom) : (s.modDom i f).stills = s.stills := rfl
@[simp] theorem State.modDom_scales (s : State) (i : Nat) (f : Dom → Dom) : (s.modDom i f).scales = s.scales := rfl
@[simp] theorem State.modDom_atm (s : State) (i : Nat) (f : Dom → Dom) : (s.modDom i f).atm = s.atm := rfl
@[simp] theorem State.modDom_atmResults (s : State) (i : Nat) (f : Dom → Dom) : (s.modDom i f).atmResults = s.atmResults := rfl
@[simp] theorem State.modDom_fabric (s : State) (i : Nat) (f : Dom → Dom) : (s.modDom i f).fabric = s.fabric := rfl
@[simp] theorem State.modDom_emission (s : State) (i : Nat) (f : Dom → Dom) : (s.modDom i f).emission = s.emission := rfl
@[simp] theorem State.modDom_near (s : State) (i : Nat) (f : Dom → Dom) : (s.modDom i f).near = s.near := rfl
@[simp] theorem State.modDom_restored (s : State) (i : Nat) (f : Dom → Dom) : (s.modDom i f).restored = s.restored := rfl
@[simp] theorem State.modDom_blotter (s : State) (i : Nat) (f : Dom → Dom) : (s.modDom i f).blotter = s.blotter := rfl
@[simp] theorem State.modDom_outPages (s : State) (i : Nat) (f : Dom → Dom) : (s.modDom i f).outPages = s.outPages := rfl

/-! ### requestDom -/

@[simp] theorem State.requestDom_cfg (s : State) (i : Nat) : (s.requestDom i).cfg = s.cfg := rfl
@[simp] theorem State.requestDom_pending (s : State) (i : Nat) : (s.requestDom i).pending = s.pending := rfl
@[simp] theorem State.requestDom_free (s : State) (i : Nat) : (s.requestDom i).free = s.free := rfl
@[simp] theorem State.requestDom_time (s : State) (i : Nat) : (s.requestDom i).time = s.time := rfl
@[simp] theorem State.requestDom_porst (s : State) (i : Nat) : (s.requestDom i).porst = s.porst := rfl
@[simp] theorem State.requestDom_wrst (s : State) (i : Nat) : (s.requestDom i).wrst = s.wrst := rfl
@[simp] theorem State.requestDom_wir (s : State) (i : Nat) : (s.requestDom i).wir = s.wir := rfl
@[simp] theorem State.requestDom_fall (s : State) (i : Nat) : (s.requestDom i).fall = s.fall := rfl
@[simp] theorem State.requestDom_testPending (s : State) (i : Nat) : (s.requestDom i).testPending = s.testPending := rfl
@[simp] theorem State.requestDom_smp (s : State) (i : Nat) : (s.requestDom i).smp = s.smp := rfl
@[simp] theorem State.requestDom_ops (s : State) (i : Nat) : (s.requestDom i).ops = s.ops := rfl
@[simp] theorem State.requestDom_retained (s : State) (i : Nat) : (s.requestDom i).retained = s.retained := rfl
@[simp] theorem State.requestDom_nextHandle (s : State) (i : Nat) : (s.requestDom i).nextHandle = s.nextHandle := rfl
@[simp] theorem State.requestDom_clocks (s : State) (i : Nat) : (s.requestDom i).clocks = s.clocks := rfl
@[simp] theorem State.requestDom_chans (s : State) (i : Nat) : (s.requestDom i).chans = s.chans := rfl
@[simp] theorem State.requestDom_out (s : State) (i : Nat) : (s.requestDom i).out = s.out := rfl
@[simp] theorem State.requestDom_dram (s : State) (i : Nat) : (s.requestDom i).dram = s.dram := rfl
@[simp] theorem State.requestDom_poisonWords (s : State) (i : Nat) : (s.requestDom i).poisonWords = s.poisonWords := rfl
@[simp] theorem State.requestDom_disc (s : State) (i : Nat) : (s.requestDom i).disc = s.disc := rfl
@[simp] theorem State.requestDom_fuses (s : State) (i : Nat) : (s.requestDom i).fuses = s.fuses := rfl
@[simp] theorem State.requestDom_fusePass (s : State) (i : Nat) : (s.requestDom i).fusePass = s.fusePass := rfl
@[simp] theorem State.requestDom_fw (s : State) (i : Nat) : (s.requestDom i).fw = s.fw := rfl
@[simp] theorem State.requestDom_loan (s : State) (i : Nat) : (s.requestDom i).loan = s.loan := rfl
@[simp] theorem State.requestDom_entropy (s : State) (i : Nat) : (s.requestDom i).entropy = s.entropy := rfl
@[simp] theorem State.requestDom_keyPresent (s : State) (i : Nat) : (s.requestDom i).keyPresent = s.keyPresent := rfl
@[simp] theorem State.requestDom_keyFenced (s : State) (i : Nat) : (s.requestDom i).keyFenced = s.keyFenced := rfl
@[simp] theorem State.requestDom_log (s : State) (i : Nat) : (s.requestDom i).log = s.log := rfl
@[simp] theorem State.requestDom_counters (s : State) (i : Nat) : (s.requestDom i).counters = s.counters := rfl
@[simp] theorem State.requestDom_formula (s : State) (i : Nat) : (s.requestDom i).formula = s.formula := rfl
@[simp] theorem State.requestDom_bounds (s : State) (i : Nat) : (s.requestDom i).bounds = s.bounds := rfl
@[simp] theorem State.requestDom_waits (s : State) (i : Nat) : (s.requestDom i).waits = s.waits := rfl
@[simp] theorem State.requestDom_latest (s : State) (i : Nat) : (s.requestDom i).latest = s.latest := rfl
@[simp] theorem State.requestDom_admitTime (s : State) (i : Nat) : (s.requestDom i).admitTime = s.admitTime := rfl
@[simp] theorem State.requestDom_anchorBlocked (s : State) (i : Nat) : (s.requestDom i).anchorBlocked = s.anchorBlocked := rfl
@[simp] theorem State.requestDom_run (s : State) (i : Nat) : (s.requestDom i).run = s.run := rfl
@[simp] theorem State.requestDom_cursors (s : State) (i : Nat) : (s.requestDom i).cursors = s.cursors := rfl
@[simp] theorem State.requestDom_digestSel (s : State) (i : Nat) : (s.requestDom i).digestSel = s.digestSel := rfl
@[simp] theorem State.requestDom_captureSel (s : State) (i : Nat) : (s.requestDom i).captureSel = s.captureSel := rfl
@[simp] theorem State.requestDom_shards (s : State) (i : Nat) : (s.requestDom i).shards = s.shards := rfl
@[simp] theorem State.requestDom_wins (s : State) (i : Nat) : (s.requestDom i).wins = s.wins := rfl
@[simp] theorem State.requestDom_envs (s : State) (i : Nat) : (s.requestDom i).envs = s.envs := rfl
@[simp] theorem State.requestDom_pagesFenced (s : State) (i : Nat) : (s.requestDom i).pagesFenced = s.pagesFenced := rfl
@[simp] theorem State.requestDom_stills (s : State) (i : Nat) : (s.requestDom i).stills = s.stills := rfl
@[simp] theorem State.requestDom_scales (s : State) (i : Nat) : (s.requestDom i).scales = s.scales := rfl
@[simp] theorem State.requestDom_atm (s : State) (i : Nat) : (s.requestDom i).atm = s.atm := rfl
@[simp] theorem State.requestDom_atmResults (s : State) (i : Nat) : (s.requestDom i).atmResults = s.atmResults := rfl
@[simp] theorem State.requestDom_fabric (s : State) (i : Nat) : (s.requestDom i).fabric = s.fabric := rfl
@[simp] theorem State.requestDom_emission (s : State) (i : Nat) : (s.requestDom i).emission = s.emission := rfl
@[simp] theorem State.requestDom_near (s : State) (i : Nat) : (s.requestDom i).near = s.near := rfl
@[simp] theorem State.requestDom_restored (s : State) (i : Nat) : (s.requestDom i).restored = s.restored := rfl
@[simp] theorem State.requestDom_blotter (s : State) (i : Nat) : (s.requestDom i).blotter = s.blotter := rfl
@[simp] theorem State.requestDom_outPages (s : State) (i : Nat) : (s.requestDom i).outPages = s.outPages := rfl

/-! ### modWin -/

@[simp] theorem State.modWin_cfg (s : State) (w : Nat) (f : Win → Win) : (s.modWin w f).cfg = s.cfg := rfl
@[simp] theorem State.modWin_pending (s : State) (w : Nat) (f : Win → Win) : (s.modWin w f).pending = s.pending := rfl
@[simp] theorem State.modWin_free (s : State) (w : Nat) (f : Win → Win) : (s.modWin w f).free = s.free := rfl
@[simp] theorem State.modWin_time (s : State) (w : Nat) (f : Win → Win) : (s.modWin w f).time = s.time := rfl
@[simp] theorem State.modWin_porst (s : State) (w : Nat) (f : Win → Win) : (s.modWin w f).porst = s.porst := rfl
@[simp] theorem State.modWin_wrst (s : State) (w : Nat) (f : Win → Win) : (s.modWin w f).wrst = s.wrst := rfl
@[simp] theorem State.modWin_wir (s : State) (w : Nat) (f : Win → Win) : (s.modWin w f).wir = s.wir := rfl
@[simp] theorem State.modWin_fall (s : State) (w : Nat) (f : Win → Win) : (s.modWin w f).fall = s.fall := rfl
@[simp] theorem State.modWin_testPending (s : State) (w : Nat) (f : Win → Win) : (s.modWin w f).testPending = s.testPending := rfl
@[simp] theorem State.modWin_smp (s : State) (w : Nat) (f : Win → Win) : (s.modWin w f).smp = s.smp := rfl
@[simp] theorem State.modWin_ops (s : State) (w : Nat) (f : Win → Win) : (s.modWin w f).ops = s.ops := rfl
@[simp] theorem State.modWin_retained (s : State) (w : Nat) (f : Win → Win) : (s.modWin w f).retained = s.retained := rfl
@[simp] theorem State.modWin_nextHandle (s : State) (w : Nat) (f : Win → Win) : (s.modWin w f).nextHandle = s.nextHandle := rfl
@[simp] theorem State.modWin_doms (s : State) (w : Nat) (f : Win → Win) : (s.modWin w f).doms = s.doms := rfl
@[simp] theorem State.modWin_clocks (s : State) (w : Nat) (f : Win → Win) : (s.modWin w f).clocks = s.clocks := rfl
@[simp] theorem State.modWin_chans (s : State) (w : Nat) (f : Win → Win) : (s.modWin w f).chans = s.chans := rfl
@[simp] theorem State.modWin_out (s : State) (w : Nat) (f : Win → Win) : (s.modWin w f).out = s.out := rfl
@[simp] theorem State.modWin_dram (s : State) (w : Nat) (f : Win → Win) : (s.modWin w f).dram = s.dram := rfl
@[simp] theorem State.modWin_poisonWords (s : State) (w : Nat) (f : Win → Win) : (s.modWin w f).poisonWords = s.poisonWords := rfl
@[simp] theorem State.modWin_disc (s : State) (w : Nat) (f : Win → Win) : (s.modWin w f).disc = s.disc := rfl
@[simp] theorem State.modWin_fuses (s : State) (w : Nat) (f : Win → Win) : (s.modWin w f).fuses = s.fuses := rfl
@[simp] theorem State.modWin_fusePass (s : State) (w : Nat) (f : Win → Win) : (s.modWin w f).fusePass = s.fusePass := rfl
@[simp] theorem State.modWin_fw (s : State) (w : Nat) (f : Win → Win) : (s.modWin w f).fw = s.fw := rfl
@[simp] theorem State.modWin_loan (s : State) (w : Nat) (f : Win → Win) : (s.modWin w f).loan = s.loan := rfl
@[simp] theorem State.modWin_entropy (s : State) (w : Nat) (f : Win → Win) : (s.modWin w f).entropy = s.entropy := rfl
@[simp] theorem State.modWin_keyPresent (s : State) (w : Nat) (f : Win → Win) : (s.modWin w f).keyPresent = s.keyPresent := rfl
@[simp] theorem State.modWin_keyFenced (s : State) (w : Nat) (f : Win → Win) : (s.modWin w f).keyFenced = s.keyFenced := rfl
@[simp] theorem State.modWin_log (s : State) (w : Nat) (f : Win → Win) : (s.modWin w f).log = s.log := rfl
@[simp] theorem State.modWin_counters (s : State) (w : Nat) (f : Win → Win) : (s.modWin w f).counters = s.counters := rfl
@[simp] theorem State.modWin_formula (s : State) (w : Nat) (f : Win → Win) : (s.modWin w f).formula = s.formula := rfl
@[simp] theorem State.modWin_bounds (s : State) (w : Nat) (f : Win → Win) : (s.modWin w f).bounds = s.bounds := rfl
@[simp] theorem State.modWin_waits (s : State) (w : Nat) (f : Win → Win) : (s.modWin w f).waits = s.waits := rfl
@[simp] theorem State.modWin_latest (s : State) (w : Nat) (f : Win → Win) : (s.modWin w f).latest = s.latest := rfl
@[simp] theorem State.modWin_admitTime (s : State) (w : Nat) (f : Win → Win) : (s.modWin w f).admitTime = s.admitTime := rfl
@[simp] theorem State.modWin_anchorBlocked (s : State) (w : Nat) (f : Win → Win) : (s.modWin w f).anchorBlocked = s.anchorBlocked := rfl
@[simp] theorem State.modWin_run (s : State) (w : Nat) (f : Win → Win) : (s.modWin w f).run = s.run := rfl
@[simp] theorem State.modWin_cursors (s : State) (w : Nat) (f : Win → Win) : (s.modWin w f).cursors = s.cursors := rfl
@[simp] theorem State.modWin_digestSel (s : State) (w : Nat) (f : Win → Win) : (s.modWin w f).digestSel = s.digestSel := rfl
@[simp] theorem State.modWin_captureSel (s : State) (w : Nat) (f : Win → Win) : (s.modWin w f).captureSel = s.captureSel := rfl
@[simp] theorem State.modWin_shards (s : State) (w : Nat) (f : Win → Win) : (s.modWin w f).shards = s.shards := rfl
@[simp] theorem State.modWin_wins (s : State) (w : Nat) (f : Win → Win) : (s.modWin w f).wins = modAt s.wins w f := rfl
@[simp] theorem State.modWin_envs (s : State) (w : Nat) (f : Win → Win) : (s.modWin w f).envs = s.envs := rfl
@[simp] theorem State.modWin_pagesFenced (s : State) (w : Nat) (f : Win → Win) : (s.modWin w f).pagesFenced = s.pagesFenced := rfl
@[simp] theorem State.modWin_stills (s : State) (w : Nat) (f : Win → Win) : (s.modWin w f).stills = s.stills := rfl
@[simp] theorem State.modWin_scales (s : State) (w : Nat) (f : Win → Win) : (s.modWin w f).scales = s.scales := rfl
@[simp] theorem State.modWin_atm (s : State) (w : Nat) (f : Win → Win) : (s.modWin w f).atm = s.atm := rfl
@[simp] theorem State.modWin_atmResults (s : State) (w : Nat) (f : Win → Win) : (s.modWin w f).atmResults = s.atmResults := rfl
@[simp] theorem State.modWin_fabric (s : State) (w : Nat) (f : Win → Win) : (s.modWin w f).fabric = s.fabric := rfl
@[simp] theorem State.modWin_emission (s : State) (w : Nat) (f : Win → Win) : (s.modWin w f).emission = s.emission := rfl
@[simp] theorem State.modWin_near (s : State) (w : Nat) (f : Win → Win) : (s.modWin w f).near = s.near := rfl
@[simp] theorem State.modWin_restored (s : State) (w : Nat) (f : Win → Win) : (s.modWin w f).restored = s.restored := rfl
@[simp] theorem State.modWin_blotter (s : State) (w : Nat) (f : Win → Win) : (s.modWin w f).blotter = s.blotter := rfl
@[simp] theorem State.modWin_outPages (s : State) (w : Nat) (f : Win → Win) : (s.modWin w f).outPages = s.outPages := rfl

/-! ### modShard -/

@[simp] theorem State.modShard_cfg (s : State) (i : Nat) (f : Shard → Shard) : (s.modShard i f).cfg = s.cfg := rfl
@[simp] theorem State.modShard_pending (s : State) (i : Nat) (f : Shard → Shard) : (s.modShard i f).pending = s.pending := rfl
@[simp] theorem State.modShard_free (s : State) (i : Nat) (f : Shard → Shard) : (s.modShard i f).free = s.free := rfl
@[simp] theorem State.modShard_time (s : State) (i : Nat) (f : Shard → Shard) : (s.modShard i f).time = s.time := rfl
@[simp] theorem State.modShard_porst (s : State) (i : Nat) (f : Shard → Shard) : (s.modShard i f).porst = s.porst := rfl
@[simp] theorem State.modShard_wrst (s : State) (i : Nat) (f : Shard → Shard) : (s.modShard i f).wrst = s.wrst := rfl
@[simp] theorem State.modShard_wir (s : State) (i : Nat) (f : Shard → Shard) : (s.modShard i f).wir = s.wir := rfl
@[simp] theorem State.modShard_fall (s : State) (i : Nat) (f : Shard → Shard) : (s.modShard i f).fall = s.fall := rfl
@[simp] theorem State.modShard_testPending (s : State) (i : Nat) (f : Shard → Shard) : (s.modShard i f).testPending = s.testPending := rfl
@[simp] theorem State.modShard_smp (s : State) (i : Nat) (f : Shard → Shard) : (s.modShard i f).smp = s.smp := rfl
@[simp] theorem State.modShard_ops (s : State) (i : Nat) (f : Shard → Shard) : (s.modShard i f).ops = s.ops := rfl
@[simp] theorem State.modShard_retained (s : State) (i : Nat) (f : Shard → Shard) : (s.modShard i f).retained = s.retained := rfl
@[simp] theorem State.modShard_nextHandle (s : State) (i : Nat) (f : Shard → Shard) : (s.modShard i f).nextHandle = s.nextHandle := rfl
@[simp] theorem State.modShard_doms (s : State) (i : Nat) (f : Shard → Shard) : (s.modShard i f).doms = s.doms := rfl
@[simp] theorem State.modShard_clocks (s : State) (i : Nat) (f : Shard → Shard) : (s.modShard i f).clocks = s.clocks := rfl
@[simp] theorem State.modShard_chans (s : State) (i : Nat) (f : Shard → Shard) : (s.modShard i f).chans = s.chans := rfl
@[simp] theorem State.modShard_out (s : State) (i : Nat) (f : Shard → Shard) : (s.modShard i f).out = s.out := rfl
@[simp] theorem State.modShard_dram (s : State) (i : Nat) (f : Shard → Shard) : (s.modShard i f).dram = s.dram := rfl
@[simp] theorem State.modShard_poisonWords (s : State) (i : Nat) (f : Shard → Shard) : (s.modShard i f).poisonWords = s.poisonWords := rfl
@[simp] theorem State.modShard_disc (s : State) (i : Nat) (f : Shard → Shard) : (s.modShard i f).disc = s.disc := rfl
@[simp] theorem State.modShard_fuses (s : State) (i : Nat) (f : Shard → Shard) : (s.modShard i f).fuses = s.fuses := rfl
@[simp] theorem State.modShard_fusePass (s : State) (i : Nat) (f : Shard → Shard) : (s.modShard i f).fusePass = s.fusePass := rfl
@[simp] theorem State.modShard_fw (s : State) (i : Nat) (f : Shard → Shard) : (s.modShard i f).fw = s.fw := rfl
@[simp] theorem State.modShard_loan (s : State) (i : Nat) (f : Shard → Shard) : (s.modShard i f).loan = s.loan := rfl
@[simp] theorem State.modShard_entropy (s : State) (i : Nat) (f : Shard → Shard) : (s.modShard i f).entropy = s.entropy := rfl
@[simp] theorem State.modShard_keyPresent (s : State) (i : Nat) (f : Shard → Shard) : (s.modShard i f).keyPresent = s.keyPresent := rfl
@[simp] theorem State.modShard_keyFenced (s : State) (i : Nat) (f : Shard → Shard) : (s.modShard i f).keyFenced = s.keyFenced := rfl
@[simp] theorem State.modShard_log (s : State) (i : Nat) (f : Shard → Shard) : (s.modShard i f).log = s.log := rfl
@[simp] theorem State.modShard_counters (s : State) (i : Nat) (f : Shard → Shard) : (s.modShard i f).counters = s.counters := rfl
@[simp] theorem State.modShard_formula (s : State) (i : Nat) (f : Shard → Shard) : (s.modShard i f).formula = s.formula := rfl
@[simp] theorem State.modShard_bounds (s : State) (i : Nat) (f : Shard → Shard) : (s.modShard i f).bounds = s.bounds := rfl
@[simp] theorem State.modShard_waits (s : State) (i : Nat) (f : Shard → Shard) : (s.modShard i f).waits = s.waits := rfl
@[simp] theorem State.modShard_latest (s : State) (i : Nat) (f : Shard → Shard) : (s.modShard i f).latest = s.latest := rfl
@[simp] theorem State.modShard_admitTime (s : State) (i : Nat) (f : Shard → Shard) : (s.modShard i f).admitTime = s.admitTime := rfl
@[simp] theorem State.modShard_anchorBlocked (s : State) (i : Nat) (f : Shard → Shard) : (s.modShard i f).anchorBlocked = s.anchorBlocked := rfl
@[simp] theorem State.modShard_run (s : State) (i : Nat) (f : Shard → Shard) : (s.modShard i f).run = s.run := rfl
@[simp] theorem State.modShard_cursors (s : State) (i : Nat) (f : Shard → Shard) : (s.modShard i f).cursors = s.cursors := rfl
@[simp] theorem State.modShard_digestSel (s : State) (i : Nat) (f : Shard → Shard) : (s.modShard i f).digestSel = s.digestSel := rfl
@[simp] theorem State.modShard_captureSel (s : State) (i : Nat) (f : Shard → Shard) : (s.modShard i f).captureSel = s.captureSel := rfl
@[simp] theorem State.modShard_shards (s : State) (i : Nat) (f : Shard → Shard) : (s.modShard i f).shards = modAt s.shards i f := rfl
@[simp] theorem State.modShard_wins (s : State) (i : Nat) (f : Shard → Shard) : (s.modShard i f).wins = s.wins := rfl
@[simp] theorem State.modShard_envs (s : State) (i : Nat) (f : Shard → Shard) : (s.modShard i f).envs = s.envs := rfl
@[simp] theorem State.modShard_pagesFenced (s : State) (i : Nat) (f : Shard → Shard) : (s.modShard i f).pagesFenced = s.pagesFenced := rfl
@[simp] theorem State.modShard_stills (s : State) (i : Nat) (f : Shard → Shard) : (s.modShard i f).stills = s.stills := rfl
@[simp] theorem State.modShard_scales (s : State) (i : Nat) (f : Shard → Shard) : (s.modShard i f).scales = s.scales := rfl
@[simp] theorem State.modShard_atm (s : State) (i : Nat) (f : Shard → Shard) : (s.modShard i f).atm = s.atm := rfl
@[simp] theorem State.modShard_atmResults (s : State) (i : Nat) (f : Shard → Shard) : (s.modShard i f).atmResults = s.atmResults := rfl
@[simp] theorem State.modShard_fabric (s : State) (i : Nat) (f : Shard → Shard) : (s.modShard i f).fabric = s.fabric := rfl
@[simp] theorem State.modShard_emission (s : State) (i : Nat) (f : Shard → Shard) : (s.modShard i f).emission = s.emission := rfl
@[simp] theorem State.modShard_near (s : State) (i : Nat) (f : Shard → Shard) : (s.modShard i f).near = s.near := rfl
@[simp] theorem State.modShard_restored (s : State) (i : Nat) (f : Shard → Shard) : (s.modShard i f).restored = s.restored := rfl
@[simp] theorem State.modShard_blotter (s : State) (i : Nat) (f : Shard → Shard) : (s.modShard i f).blotter = s.blotter := rfl
@[simp] theorem State.modShard_outPages (s : State) (i : Nat) (f : Shard → Shard) : (s.modShard i f).outPages = s.outPages := rfl

/-! ### modSlot -/

@[simp] theorem State.modSlot_cfg (s : State) (i : Nat) (f : Slot → Slot) : (s.modSlot i f).cfg = s.cfg := rfl
@[simp] theorem State.modSlot_pending (s : State) (i : Nat) (f : Slot → Slot) : (s.modSlot i f).pending = s.pending := rfl
@[simp] theorem State.modSlot_free (s : State) (i : Nat) (f : Slot → Slot) : (s.modSlot i f).free = s.free := rfl
@[simp] theorem State.modSlot_time (s : State) (i : Nat) (f : Slot → Slot) : (s.modSlot i f).time = s.time := rfl
@[simp] theorem State.modSlot_porst (s : State) (i : Nat) (f : Slot → Slot) : (s.modSlot i f).porst = s.porst := rfl
@[simp] theorem State.modSlot_wrst (s : State) (i : Nat) (f : Slot → Slot) : (s.modSlot i f).wrst = s.wrst := rfl
@[simp] theorem State.modSlot_wir (s : State) (i : Nat) (f : Slot → Slot) : (s.modSlot i f).wir = s.wir := rfl
@[simp] theorem State.modSlot_fall (s : State) (i : Nat) (f : Slot → Slot) : (s.modSlot i f).fall = s.fall := rfl
@[simp] theorem State.modSlot_testPending (s : State) (i : Nat) (f : Slot → Slot) : (s.modSlot i f).testPending = s.testPending := rfl
@[simp] theorem State.modSlot_smp (s : State) (i : Nat) (f : Slot → Slot) : (s.modSlot i f).smp = s.smp := rfl
@[simp] theorem State.modSlot_ops (s : State) (i : Nat) (f : Slot → Slot) : (s.modSlot i f).ops = s.ops := rfl
@[simp] theorem State.modSlot_retained (s : State) (i : Nat) (f : Slot → Slot) : (s.modSlot i f).retained = s.retained := rfl
@[simp] theorem State.modSlot_nextHandle (s : State) (i : Nat) (f : Slot → Slot) : (s.modSlot i f).nextHandle = s.nextHandle := rfl
@[simp] theorem State.modSlot_doms (s : State) (i : Nat) (f : Slot → Slot) : (s.modSlot i f).doms = s.doms := rfl
@[simp] theorem State.modSlot_clocks (s : State) (i : Nat) (f : Slot → Slot) : (s.modSlot i f).clocks = s.clocks := rfl
@[simp] theorem State.modSlot_chans (s : State) (i : Nat) (f : Slot → Slot) : (s.modSlot i f).chans = s.chans := rfl
@[simp] theorem State.modSlot_out (s : State) (i : Nat) (f : Slot → Slot) : (s.modSlot i f).out = s.out := rfl
@[simp] theorem State.modSlot_dram (s : State) (i : Nat) (f : Slot → Slot) : (s.modSlot i f).dram = s.dram := rfl
@[simp] theorem State.modSlot_poisonWords (s : State) (i : Nat) (f : Slot → Slot) : (s.modSlot i f).poisonWords = s.poisonWords := rfl
@[simp] theorem State.modSlot_disc (s : State) (i : Nat) (f : Slot → Slot) : (s.modSlot i f).disc = s.disc := rfl
@[simp] theorem State.modSlot_fuses (s : State) (i : Nat) (f : Slot → Slot) : (s.modSlot i f).fuses = s.fuses := rfl
@[simp] theorem State.modSlot_fusePass (s : State) (i : Nat) (f : Slot → Slot) : (s.modSlot i f).fusePass = s.fusePass := rfl
@[simp] theorem State.modSlot_fw (s : State) (i : Nat) (f : Slot → Slot) : (s.modSlot i f).fw = s.fw := rfl
@[simp] theorem State.modSlot_loan (s : State) (i : Nat) (f : Slot → Slot) : (s.modSlot i f).loan = s.loan := rfl
@[simp] theorem State.modSlot_entropy (s : State) (i : Nat) (f : Slot → Slot) : (s.modSlot i f).entropy = s.entropy := rfl
@[simp] theorem State.modSlot_keyPresent (s : State) (i : Nat) (f : Slot → Slot) : (s.modSlot i f).keyPresent = s.keyPresent := rfl
@[simp] theorem State.modSlot_keyFenced (s : State) (i : Nat) (f : Slot → Slot) : (s.modSlot i f).keyFenced = s.keyFenced := rfl
@[simp] theorem State.modSlot_log (s : State) (i : Nat) (f : Slot → Slot) : (s.modSlot i f).log = s.log := rfl
@[simp] theorem State.modSlot_counters (s : State) (i : Nat) (f : Slot → Slot) : (s.modSlot i f).counters = s.counters := rfl
@[simp] theorem State.modSlot_formula (s : State) (i : Nat) (f : Slot → Slot) : (s.modSlot i f).formula = s.formula := rfl
@[simp] theorem State.modSlot_bounds (s : State) (i : Nat) (f : Slot → Slot) : (s.modSlot i f).bounds = s.bounds := rfl
@[simp] theorem State.modSlot_waits (s : State) (i : Nat) (f : Slot → Slot) : (s.modSlot i f).waits = s.waits := rfl
@[simp] theorem State.modSlot_latest (s : State) (i : Nat) (f : Slot → Slot) : (s.modSlot i f).latest = s.latest := rfl
@[simp] theorem State.modSlot_admitTime (s : State) (i : Nat) (f : Slot → Slot) : (s.modSlot i f).admitTime = s.admitTime := rfl
@[simp] theorem State.modSlot_anchorBlocked (s : State) (i : Nat) (f : Slot → Slot) : (s.modSlot i f).anchorBlocked = s.anchorBlocked := rfl
@[simp] theorem State.modSlot_run (s : State) (i : Nat) (f : Slot → Slot) : (s.modSlot i f).run = s.run := rfl
@[simp] theorem State.modSlot_cursors (s : State) (i : Nat) (f : Slot → Slot) : (s.modSlot i f).cursors = s.cursors := rfl
@[simp] theorem State.modSlot_digestSel (s : State) (i : Nat) (f : Slot → Slot) : (s.modSlot i f).digestSel = s.digestSel := rfl
@[simp] theorem State.modSlot_captureSel (s : State) (i : Nat) (f : Slot → Slot) : (s.modSlot i f).captureSel = s.captureSel := rfl
@[simp] theorem State.modSlot_wins (s : State) (i : Nat) (f : Slot → Slot) : (s.modSlot i f).wins = s.wins := rfl
@[simp] theorem State.modSlot_envs (s : State) (i : Nat) (f : Slot → Slot) : (s.modSlot i f).envs = s.envs := rfl
@[simp] theorem State.modSlot_pagesFenced (s : State) (i : Nat) (f : Slot → Slot) : (s.modSlot i f).pagesFenced = s.pagesFenced := rfl
@[simp] theorem State.modSlot_stills (s : State) (i : Nat) (f : Slot → Slot) : (s.modSlot i f).stills = s.stills := rfl
@[simp] theorem State.modSlot_scales (s : State) (i : Nat) (f : Slot → Slot) : (s.modSlot i f).scales = s.scales := rfl
@[simp] theorem State.modSlot_atm (s : State) (i : Nat) (f : Slot → Slot) : (s.modSlot i f).atm = s.atm := rfl
@[simp] theorem State.modSlot_atmResults (s : State) (i : Nat) (f : Slot → Slot) : (s.modSlot i f).atmResults = s.atmResults := rfl
@[simp] theorem State.modSlot_fabric (s : State) (i : Nat) (f : Slot → Slot) : (s.modSlot i f).fabric = s.fabric := rfl
@[simp] theorem State.modSlot_emission (s : State) (i : Nat) (f : Slot → Slot) : (s.modSlot i f).emission = s.emission := rfl
@[simp] theorem State.modSlot_near (s : State) (i : Nat) (f : Slot → Slot) : (s.modSlot i f).near = s.near := rfl
@[simp] theorem State.modSlot_restored (s : State) (i : Nat) (f : Slot → Slot) : (s.modSlot i f).restored = s.restored := rfl
@[simp] theorem State.modSlot_blotter (s : State) (i : Nat) (f : Slot → Slot) : (s.modSlot i f).blotter = s.blotter := rfl
@[simp] theorem State.modSlot_outPages (s : State) (i : Nat) (f : Slot → Slot) : (s.modSlot i f).outPages = s.outPages := rfl

/-! ### modAtm -/

@[simp] theorem State.modAtm_cfg (s : State) (ch : Nat) (f : AtmChannel → AtmChannel) : (s.modAtm ch f).cfg = s.cfg := rfl
@[simp] theorem State.modAtm_pending (s : State) (ch : Nat) (f : AtmChannel → AtmChannel) : (s.modAtm ch f).pending = s.pending := rfl
@[simp] theorem State.modAtm_free (s : State) (ch : Nat) (f : AtmChannel → AtmChannel) : (s.modAtm ch f).free = s.free := rfl
@[simp] theorem State.modAtm_time (s : State) (ch : Nat) (f : AtmChannel → AtmChannel) : (s.modAtm ch f).time = s.time := rfl
@[simp] theorem State.modAtm_porst (s : State) (ch : Nat) (f : AtmChannel → AtmChannel) : (s.modAtm ch f).porst = s.porst := rfl
@[simp] theorem State.modAtm_wrst (s : State) (ch : Nat) (f : AtmChannel → AtmChannel) : (s.modAtm ch f).wrst = s.wrst := rfl
@[simp] theorem State.modAtm_wir (s : State) (ch : Nat) (f : AtmChannel → AtmChannel) : (s.modAtm ch f).wir = s.wir := rfl
@[simp] theorem State.modAtm_fall (s : State) (ch : Nat) (f : AtmChannel → AtmChannel) : (s.modAtm ch f).fall = s.fall := rfl
@[simp] theorem State.modAtm_testPending (s : State) (ch : Nat) (f : AtmChannel → AtmChannel) : (s.modAtm ch f).testPending = s.testPending := rfl
@[simp] theorem State.modAtm_smp (s : State) (ch : Nat) (f : AtmChannel → AtmChannel) : (s.modAtm ch f).smp = s.smp := rfl
@[simp] theorem State.modAtm_ops (s : State) (ch : Nat) (f : AtmChannel → AtmChannel) : (s.modAtm ch f).ops = s.ops := rfl
@[simp] theorem State.modAtm_retained (s : State) (ch : Nat) (f : AtmChannel → AtmChannel) : (s.modAtm ch f).retained = s.retained := rfl
@[simp] theorem State.modAtm_nextHandle (s : State) (ch : Nat) (f : AtmChannel → AtmChannel) : (s.modAtm ch f).nextHandle = s.nextHandle := rfl
@[simp] theorem State.modAtm_doms (s : State) (ch : Nat) (f : AtmChannel → AtmChannel) : (s.modAtm ch f).doms = s.doms := rfl
@[simp] theorem State.modAtm_clocks (s : State) (ch : Nat) (f : AtmChannel → AtmChannel) : (s.modAtm ch f).clocks = s.clocks := rfl
@[simp] theorem State.modAtm_chans (s : State) (ch : Nat) (f : AtmChannel → AtmChannel) : (s.modAtm ch f).chans = s.chans := rfl
@[simp] theorem State.modAtm_out (s : State) (ch : Nat) (f : AtmChannel → AtmChannel) : (s.modAtm ch f).out = s.out := rfl
@[simp] theorem State.modAtm_dram (s : State) (ch : Nat) (f : AtmChannel → AtmChannel) : (s.modAtm ch f).dram = s.dram := rfl
@[simp] theorem State.modAtm_poisonWords (s : State) (ch : Nat) (f : AtmChannel → AtmChannel) : (s.modAtm ch f).poisonWords = s.poisonWords := rfl
@[simp] theorem State.modAtm_disc (s : State) (ch : Nat) (f : AtmChannel → AtmChannel) : (s.modAtm ch f).disc = s.disc := rfl
@[simp] theorem State.modAtm_fuses (s : State) (ch : Nat) (f : AtmChannel → AtmChannel) : (s.modAtm ch f).fuses = s.fuses := rfl
@[simp] theorem State.modAtm_fusePass (s : State) (ch : Nat) (f : AtmChannel → AtmChannel) : (s.modAtm ch f).fusePass = s.fusePass := rfl
@[simp] theorem State.modAtm_fw (s : State) (ch : Nat) (f : AtmChannel → AtmChannel) : (s.modAtm ch f).fw = s.fw := rfl
@[simp] theorem State.modAtm_loan (s : State) (ch : Nat) (f : AtmChannel → AtmChannel) : (s.modAtm ch f).loan = s.loan := rfl
@[simp] theorem State.modAtm_entropy (s : State) (ch : Nat) (f : AtmChannel → AtmChannel) : (s.modAtm ch f).entropy = s.entropy := rfl
@[simp] theorem State.modAtm_keyPresent (s : State) (ch : Nat) (f : AtmChannel → AtmChannel) : (s.modAtm ch f).keyPresent = s.keyPresent := rfl
@[simp] theorem State.modAtm_keyFenced (s : State) (ch : Nat) (f : AtmChannel → AtmChannel) : (s.modAtm ch f).keyFenced = s.keyFenced := rfl
@[simp] theorem State.modAtm_log (s : State) (ch : Nat) (f : AtmChannel → AtmChannel) : (s.modAtm ch f).log = s.log := rfl
@[simp] theorem State.modAtm_counters (s : State) (ch : Nat) (f : AtmChannel → AtmChannel) : (s.modAtm ch f).counters = s.counters := rfl
@[simp] theorem State.modAtm_formula (s : State) (ch : Nat) (f : AtmChannel → AtmChannel) : (s.modAtm ch f).formula = s.formula := rfl
@[simp] theorem State.modAtm_bounds (s : State) (ch : Nat) (f : AtmChannel → AtmChannel) : (s.modAtm ch f).bounds = s.bounds := rfl
@[simp] theorem State.modAtm_waits (s : State) (ch : Nat) (f : AtmChannel → AtmChannel) : (s.modAtm ch f).waits = s.waits := rfl
@[simp] theorem State.modAtm_latest (s : State) (ch : Nat) (f : AtmChannel → AtmChannel) : (s.modAtm ch f).latest = s.latest := rfl
@[simp] theorem State.modAtm_admitTime (s : State) (ch : Nat) (f : AtmChannel → AtmChannel) : (s.modAtm ch f).admitTime = s.admitTime := rfl
@[simp] theorem State.modAtm_anchorBlocked (s : State) (ch : Nat) (f : AtmChannel → AtmChannel) : (s.modAtm ch f).anchorBlocked = s.anchorBlocked := rfl
@[simp] theorem State.modAtm_run (s : State) (ch : Nat) (f : AtmChannel → AtmChannel) : (s.modAtm ch f).run = s.run := rfl
@[simp] theorem State.modAtm_cursors (s : State) (ch : Nat) (f : AtmChannel → AtmChannel) : (s.modAtm ch f).cursors = s.cursors := rfl
@[simp] theorem State.modAtm_digestSel (s : State) (ch : Nat) (f : AtmChannel → AtmChannel) : (s.modAtm ch f).digestSel = s.digestSel := rfl
@[simp] theorem State.modAtm_captureSel (s : State) (ch : Nat) (f : AtmChannel → AtmChannel) : (s.modAtm ch f).captureSel = s.captureSel := rfl
@[simp] theorem State.modAtm_shards (s : State) (ch : Nat) (f : AtmChannel → AtmChannel) : (s.modAtm ch f).shards = s.shards := rfl
@[simp] theorem State.modAtm_wins (s : State) (ch : Nat) (f : AtmChannel → AtmChannel) : (s.modAtm ch f).wins = s.wins := rfl
@[simp] theorem State.modAtm_envs (s : State) (ch : Nat) (f : AtmChannel → AtmChannel) : (s.modAtm ch f).envs = s.envs := rfl
@[simp] theorem State.modAtm_pagesFenced (s : State) (ch : Nat) (f : AtmChannel → AtmChannel) : (s.modAtm ch f).pagesFenced = s.pagesFenced := rfl
@[simp] theorem State.modAtm_stills (s : State) (ch : Nat) (f : AtmChannel → AtmChannel) : (s.modAtm ch f).stills = s.stills := rfl
@[simp] theorem State.modAtm_scales (s : State) (ch : Nat) (f : AtmChannel → AtmChannel) : (s.modAtm ch f).scales = s.scales := rfl
@[simp] theorem State.modAtm_atm (s : State) (ch : Nat) (f : AtmChannel → AtmChannel) : (s.modAtm ch f).atm = modV s.atm ch f := rfl
@[simp] theorem State.modAtm_atmResults (s : State) (ch : Nat) (f : AtmChannel → AtmChannel) : (s.modAtm ch f).atmResults = s.atmResults := rfl
@[simp] theorem State.modAtm_fabric (s : State) (ch : Nat) (f : AtmChannel → AtmChannel) : (s.modAtm ch f).fabric = s.fabric := rfl
@[simp] theorem State.modAtm_emission (s : State) (ch : Nat) (f : AtmChannel → AtmChannel) : (s.modAtm ch f).emission = s.emission := rfl
@[simp] theorem State.modAtm_near (s : State) (ch : Nat) (f : AtmChannel → AtmChannel) : (s.modAtm ch f).near = s.near := rfl
@[simp] theorem State.modAtm_restored (s : State) (ch : Nat) (f : AtmChannel → AtmChannel) : (s.modAtm ch f).restored = s.restored := rfl
@[simp] theorem State.modAtm_blotter (s : State) (ch : Nat) (f : AtmChannel → AtmChannel) : (s.modAtm ch f).blotter = s.blotter := rfl
@[simp] theorem State.modAtm_outPages (s : State) (ch : Nat) (f : AtmChannel → AtmChannel) : (s.modAtm ch f).outPages = s.outPages := rfl

/-! ### modOp -/

@[simp] theorem State.modOp_cfg (s : State) (h : Nat) (f : LongOp → LongOp) : (s.modOp h f).cfg = s.cfg := rfl
@[simp] theorem State.modOp_pending (s : State) (h : Nat) (f : LongOp → LongOp) : (s.modOp h f).pending = s.pending := rfl
@[simp] theorem State.modOp_free (s : State) (h : Nat) (f : LongOp → LongOp) : (s.modOp h f).free = s.free := rfl
@[simp] theorem State.modOp_time (s : State) (h : Nat) (f : LongOp → LongOp) : (s.modOp h f).time = s.time := rfl
@[simp] theorem State.modOp_porst (s : State) (h : Nat) (f : LongOp → LongOp) : (s.modOp h f).porst = s.porst := rfl
@[simp] theorem State.modOp_wrst (s : State) (h : Nat) (f : LongOp → LongOp) : (s.modOp h f).wrst = s.wrst := rfl
@[simp] theorem State.modOp_wir (s : State) (h : Nat) (f : LongOp → LongOp) : (s.modOp h f).wir = s.wir := rfl
@[simp] theorem State.modOp_fall (s : State) (h : Nat) (f : LongOp → LongOp) : (s.modOp h f).fall = s.fall := rfl
@[simp] theorem State.modOp_testPending (s : State) (h : Nat) (f : LongOp → LongOp) : (s.modOp h f).testPending = s.testPending := rfl
@[simp] theorem State.modOp_smp (s : State) (h : Nat) (f : LongOp → LongOp) : (s.modOp h f).smp = s.smp := rfl
@[simp] theorem State.modOp_retained (s : State) (h : Nat) (f : LongOp → LongOp) : (s.modOp h f).retained = s.retained := rfl
@[simp] theorem State.modOp_nextHandle (s : State) (h : Nat) (f : LongOp → LongOp) : (s.modOp h f).nextHandle = s.nextHandle := rfl
@[simp] theorem State.modOp_doms (s : State) (h : Nat) (f : LongOp → LongOp) : (s.modOp h f).doms = s.doms := rfl
@[simp] theorem State.modOp_clocks (s : State) (h : Nat) (f : LongOp → LongOp) : (s.modOp h f).clocks = s.clocks := rfl
@[simp] theorem State.modOp_chans (s : State) (h : Nat) (f : LongOp → LongOp) : (s.modOp h f).chans = s.chans := rfl
@[simp] theorem State.modOp_out (s : State) (h : Nat) (f : LongOp → LongOp) : (s.modOp h f).out = s.out := rfl
@[simp] theorem State.modOp_dram (s : State) (h : Nat) (f : LongOp → LongOp) : (s.modOp h f).dram = s.dram := rfl
@[simp] theorem State.modOp_poisonWords (s : State) (h : Nat) (f : LongOp → LongOp) : (s.modOp h f).poisonWords = s.poisonWords := rfl
@[simp] theorem State.modOp_disc (s : State) (h : Nat) (f : LongOp → LongOp) : (s.modOp h f).disc = s.disc := rfl
@[simp] theorem State.modOp_fuses (s : State) (h : Nat) (f : LongOp → LongOp) : (s.modOp h f).fuses = s.fuses := rfl
@[simp] theorem State.modOp_fusePass (s : State) (h : Nat) (f : LongOp → LongOp) : (s.modOp h f).fusePass = s.fusePass := rfl
@[simp] theorem State.modOp_fw (s : State) (h : Nat) (f : LongOp → LongOp) : (s.modOp h f).fw = s.fw := rfl
@[simp] theorem State.modOp_loan (s : State) (h : Nat) (f : LongOp → LongOp) : (s.modOp h f).loan = s.loan := rfl
@[simp] theorem State.modOp_entropy (s : State) (h : Nat) (f : LongOp → LongOp) : (s.modOp h f).entropy = s.entropy := rfl
@[simp] theorem State.modOp_keyPresent (s : State) (h : Nat) (f : LongOp → LongOp) : (s.modOp h f).keyPresent = s.keyPresent := rfl
@[simp] theorem State.modOp_keyFenced (s : State) (h : Nat) (f : LongOp → LongOp) : (s.modOp h f).keyFenced = s.keyFenced := rfl
@[simp] theorem State.modOp_log (s : State) (h : Nat) (f : LongOp → LongOp) : (s.modOp h f).log = s.log := rfl
@[simp] theorem State.modOp_counters (s : State) (h : Nat) (f : LongOp → LongOp) : (s.modOp h f).counters = s.counters := rfl
@[simp] theorem State.modOp_formula (s : State) (h : Nat) (f : LongOp → LongOp) : (s.modOp h f).formula = s.formula := rfl
@[simp] theorem State.modOp_bounds (s : State) (h : Nat) (f : LongOp → LongOp) : (s.modOp h f).bounds = s.bounds := rfl
@[simp] theorem State.modOp_waits (s : State) (h : Nat) (f : LongOp → LongOp) : (s.modOp h f).waits = s.waits := rfl
@[simp] theorem State.modOp_latest (s : State) (h : Nat) (f : LongOp → LongOp) : (s.modOp h f).latest = s.latest := rfl
@[simp] theorem State.modOp_admitTime (s : State) (h : Nat) (f : LongOp → LongOp) : (s.modOp h f).admitTime = s.admitTime := rfl
@[simp] theorem State.modOp_anchorBlocked (s : State) (h : Nat) (f : LongOp → LongOp) : (s.modOp h f).anchorBlocked = s.anchorBlocked := rfl
@[simp] theorem State.modOp_run (s : State) (h : Nat) (f : LongOp → LongOp) : (s.modOp h f).run = s.run := rfl
@[simp] theorem State.modOp_cursors (s : State) (h : Nat) (f : LongOp → LongOp) : (s.modOp h f).cursors = s.cursors := rfl
@[simp] theorem State.modOp_digestSel (s : State) (h : Nat) (f : LongOp → LongOp) : (s.modOp h f).digestSel = s.digestSel := rfl
@[simp] theorem State.modOp_captureSel (s : State) (h : Nat) (f : LongOp → LongOp) : (s.modOp h f).captureSel = s.captureSel := rfl
@[simp] theorem State.modOp_shards (s : State) (h : Nat) (f : LongOp → LongOp) : (s.modOp h f).shards = s.shards := rfl
@[simp] theorem State.modOp_wins (s : State) (h : Nat) (f : LongOp → LongOp) : (s.modOp h f).wins = s.wins := rfl
@[simp] theorem State.modOp_envs (s : State) (h : Nat) (f : LongOp → LongOp) : (s.modOp h f).envs = s.envs := rfl
@[simp] theorem State.modOp_pagesFenced (s : State) (h : Nat) (f : LongOp → LongOp) : (s.modOp h f).pagesFenced = s.pagesFenced := rfl
@[simp] theorem State.modOp_stills (s : State) (h : Nat) (f : LongOp → LongOp) : (s.modOp h f).stills = s.stills := rfl
@[simp] theorem State.modOp_scales (s : State) (h : Nat) (f : LongOp → LongOp) : (s.modOp h f).scales = s.scales := rfl
@[simp] theorem State.modOp_atm (s : State) (h : Nat) (f : LongOp → LongOp) : (s.modOp h f).atm = s.atm := rfl
@[simp] theorem State.modOp_atmResults (s : State) (h : Nat) (f : LongOp → LongOp) : (s.modOp h f).atmResults = s.atmResults := rfl
@[simp] theorem State.modOp_fabric (s : State) (h : Nat) (f : LongOp → LongOp) : (s.modOp h f).fabric = s.fabric := rfl
@[simp] theorem State.modOp_emission (s : State) (h : Nat) (f : LongOp → LongOp) : (s.modOp h f).emission = s.emission := rfl
@[simp] theorem State.modOp_near (s : State) (h : Nat) (f : LongOp → LongOp) : (s.modOp h f).near = s.near := rfl
@[simp] theorem State.modOp_restored (s : State) (h : Nat) (f : LongOp → LongOp) : (s.modOp h f).restored = s.restored := rfl
@[simp] theorem State.modOp_blotter (s : State) (h : Nat) (f : LongOp → LongOp) : (s.modOp h f).blotter = s.blotter := rfl
@[simp] theorem State.modOp_outPages (s : State) (h : Nat) (f : LongOp → LongOp) : (s.modOp h f).outPages = s.outPages := rfl

/-! ### modEmission -/

@[simp] theorem State.modEmission_cfg (s : State) (f : Emission → Emission) : (s.modEmission f).cfg = s.cfg := rfl
@[simp] theorem State.modEmission_pending (s : State) (f : Emission → Emission) : (s.modEmission f).pending = s.pending := rfl
@[simp] theorem State.modEmission_free (s : State) (f : Emission → Emission) : (s.modEmission f).free = s.free := rfl
@[simp] theorem State.modEmission_time (s : State) (f : Emission → Emission) : (s.modEmission f).time = s.time := rfl
@[simp] theorem State.modEmission_porst (s : State) (f : Emission → Emission) : (s.modEmission f).porst = s.porst := rfl
@[simp] theorem State.modEmission_wrst (s : State) (f : Emission → Emission) : (s.modEmission f).wrst = s.wrst := rfl
@[simp] theorem State.modEmission_wir (s : State) (f : Emission → Emission) : (s.modEmission f).wir = s.wir := rfl
@[simp] theorem State.modEmission_fall (s : State) (f : Emission → Emission) : (s.modEmission f).fall = s.fall := rfl
@[simp] theorem State.modEmission_testPending (s : State) (f : Emission → Emission) : (s.modEmission f).testPending = s.testPending := rfl
@[simp] theorem State.modEmission_smp (s : State) (f : Emission → Emission) : (s.modEmission f).smp = s.smp := rfl
@[simp] theorem State.modEmission_ops (s : State) (f : Emission → Emission) : (s.modEmission f).ops = s.ops := rfl
@[simp] theorem State.modEmission_retained (s : State) (f : Emission → Emission) : (s.modEmission f).retained = s.retained := rfl
@[simp] theorem State.modEmission_nextHandle (s : State) (f : Emission → Emission) : (s.modEmission f).nextHandle = s.nextHandle := rfl
@[simp] theorem State.modEmission_doms (s : State) (f : Emission → Emission) : (s.modEmission f).doms = s.doms := rfl
@[simp] theorem State.modEmission_clocks (s : State) (f : Emission → Emission) : (s.modEmission f).clocks = s.clocks := rfl
@[simp] theorem State.modEmission_chans (s : State) (f : Emission → Emission) : (s.modEmission f).chans = s.chans := rfl
@[simp] theorem State.modEmission_out (s : State) (f : Emission → Emission) : (s.modEmission f).out = s.out := rfl
@[simp] theorem State.modEmission_dram (s : State) (f : Emission → Emission) : (s.modEmission f).dram = s.dram := rfl
@[simp] theorem State.modEmission_poisonWords (s : State) (f : Emission → Emission) : (s.modEmission f).poisonWords = s.poisonWords := rfl
@[simp] theorem State.modEmission_disc (s : State) (f : Emission → Emission) : (s.modEmission f).disc = s.disc := rfl
@[simp] theorem State.modEmission_fuses (s : State) (f : Emission → Emission) : (s.modEmission f).fuses = s.fuses := rfl
@[simp] theorem State.modEmission_fusePass (s : State) (f : Emission → Emission) : (s.modEmission f).fusePass = s.fusePass := rfl
@[simp] theorem State.modEmission_fw (s : State) (f : Emission → Emission) : (s.modEmission f).fw = s.fw := rfl
@[simp] theorem State.modEmission_loan (s : State) (f : Emission → Emission) : (s.modEmission f).loan = s.loan := rfl
@[simp] theorem State.modEmission_entropy (s : State) (f : Emission → Emission) : (s.modEmission f).entropy = s.entropy := rfl
@[simp] theorem State.modEmission_keyPresent (s : State) (f : Emission → Emission) : (s.modEmission f).keyPresent = s.keyPresent := rfl
@[simp] theorem State.modEmission_keyFenced (s : State) (f : Emission → Emission) : (s.modEmission f).keyFenced = s.keyFenced := rfl
@[simp] theorem State.modEmission_log (s : State) (f : Emission → Emission) : (s.modEmission f).log = s.log := rfl
@[simp] theorem State.modEmission_counters (s : State) (f : Emission → Emission) : (s.modEmission f).counters = s.counters := rfl
@[simp] theorem State.modEmission_formula (s : State) (f : Emission → Emission) : (s.modEmission f).formula = s.formula := rfl
@[simp] theorem State.modEmission_bounds (s : State) (f : Emission → Emission) : (s.modEmission f).bounds = s.bounds := rfl
@[simp] theorem State.modEmission_waits (s : State) (f : Emission → Emission) : (s.modEmission f).waits = s.waits := rfl
@[simp] theorem State.modEmission_latest (s : State) (f : Emission → Emission) : (s.modEmission f).latest = s.latest := rfl
@[simp] theorem State.modEmission_admitTime (s : State) (f : Emission → Emission) : (s.modEmission f).admitTime = s.admitTime := rfl
@[simp] theorem State.modEmission_anchorBlocked (s : State) (f : Emission → Emission) : (s.modEmission f).anchorBlocked = s.anchorBlocked := rfl
@[simp] theorem State.modEmission_run (s : State) (f : Emission → Emission) : (s.modEmission f).run = s.run := rfl
@[simp] theorem State.modEmission_cursors (s : State) (f : Emission → Emission) : (s.modEmission f).cursors = s.cursors := rfl
@[simp] theorem State.modEmission_digestSel (s : State) (f : Emission → Emission) : (s.modEmission f).digestSel = s.digestSel := rfl
@[simp] theorem State.modEmission_captureSel (s : State) (f : Emission → Emission) : (s.modEmission f).captureSel = s.captureSel := rfl
@[simp] theorem State.modEmission_shards (s : State) (f : Emission → Emission) : (s.modEmission f).shards = s.shards := rfl
@[simp] theorem State.modEmission_wins (s : State) (f : Emission → Emission) : (s.modEmission f).wins = s.wins := rfl
@[simp] theorem State.modEmission_envs (s : State) (f : Emission → Emission) : (s.modEmission f).envs = s.envs := rfl
@[simp] theorem State.modEmission_pagesFenced (s : State) (f : Emission → Emission) : (s.modEmission f).pagesFenced = s.pagesFenced := rfl
@[simp] theorem State.modEmission_stills (s : State) (f : Emission → Emission) : (s.modEmission f).stills = s.stills := rfl
@[simp] theorem State.modEmission_scales (s : State) (f : Emission → Emission) : (s.modEmission f).scales = s.scales := rfl
@[simp] theorem State.modEmission_atm (s : State) (f : Emission → Emission) : (s.modEmission f).atm = s.atm := rfl
@[simp] theorem State.modEmission_atmResults (s : State) (f : Emission → Emission) : (s.modEmission f).atmResults = s.atmResults := rfl
@[simp] theorem State.modEmission_fabric (s : State) (f : Emission → Emission) : (s.modEmission f).fabric = s.fabric := rfl
@[simp] theorem State.modEmission_emission (s : State) (f : Emission → Emission) : (s.modEmission f).emission = s.emission.map f := rfl
@[simp] theorem State.modEmission_near (s : State) (f : Emission → Emission) : (s.modEmission f).near = s.near := rfl
@[simp] theorem State.modEmission_restored (s : State) (f : Emission → Emission) : (s.modEmission f).restored = s.restored := rfl
@[simp] theorem State.modEmission_blotter (s : State) (f : Emission → Emission) : (s.modEmission f).blotter = s.blotter := rfl
@[simp] theorem State.modEmission_outPages (s : State) (f : Emission → Emission) : (s.modEmission f).outPages = s.outPages := rfl

/-! ### modPass -/

@[simp] theorem State.modPass_cfg (s : State) (i phase n : Nat) (f : Pass → Pass) : (s.modPass i phase n f).cfg = s.cfg := rfl
@[simp] theorem State.modPass_pending (s : State) (i phase n : Nat) (f : Pass → Pass) : (s.modPass i phase n f).pending = s.pending := rfl
@[simp] theorem State.modPass_free (s : State) (i phase n : Nat) (f : Pass → Pass) : (s.modPass i phase n f).free = s.free := rfl
@[simp] theorem State.modPass_time (s : State) (i phase n : Nat) (f : Pass → Pass) : (s.modPass i phase n f).time = s.time := rfl
@[simp] theorem State.modPass_porst (s : State) (i phase n : Nat) (f : Pass → Pass) : (s.modPass i phase n f).porst = s.porst := rfl
@[simp] theorem State.modPass_wrst (s : State) (i phase n : Nat) (f : Pass → Pass) : (s.modPass i phase n f).wrst = s.wrst := rfl
@[simp] theorem State.modPass_wir (s : State) (i phase n : Nat) (f : Pass → Pass) : (s.modPass i phase n f).wir = s.wir := rfl
@[simp] theorem State.modPass_fall (s : State) (i phase n : Nat) (f : Pass → Pass) : (s.modPass i phase n f).fall = s.fall := rfl
@[simp] theorem State.modPass_testPending (s : State) (i phase n : Nat) (f : Pass → Pass) : (s.modPass i phase n f).testPending = s.testPending := rfl
@[simp] theorem State.modPass_smp (s : State) (i phase n : Nat) (f : Pass → Pass) : (s.modPass i phase n f).smp = s.smp := rfl
@[simp] theorem State.modPass_ops (s : State) (i phase n : Nat) (f : Pass → Pass) : (s.modPass i phase n f).ops = s.ops := rfl
@[simp] theorem State.modPass_retained (s : State) (i phase n : Nat) (f : Pass → Pass) : (s.modPass i phase n f).retained = s.retained := rfl
@[simp] theorem State.modPass_nextHandle (s : State) (i phase n : Nat) (f : Pass → Pass) : (s.modPass i phase n f).nextHandle = s.nextHandle := rfl
@[simp] theorem State.modPass_doms (s : State) (i phase n : Nat) (f : Pass → Pass) : (s.modPass i phase n f).doms = s.doms := rfl
@[simp] theorem State.modPass_clocks (s : State) (i phase n : Nat) (f : Pass → Pass) : (s.modPass i phase n f).clocks = s.clocks := rfl
@[simp] theorem State.modPass_chans (s : State) (i phase n : Nat) (f : Pass → Pass) : (s.modPass i phase n f).chans = s.chans := rfl
@[simp] theorem State.modPass_out (s : State) (i phase n : Nat) (f : Pass → Pass) : (s.modPass i phase n f).out = s.out := rfl
@[simp] theorem State.modPass_dram (s : State) (i phase n : Nat) (f : Pass → Pass) : (s.modPass i phase n f).dram = s.dram := rfl
@[simp] theorem State.modPass_poisonWords (s : State) (i phase n : Nat) (f : Pass → Pass) : (s.modPass i phase n f).poisonWords = s.poisonWords := rfl
@[simp] theorem State.modPass_disc (s : State) (i phase n : Nat) (f : Pass → Pass) : (s.modPass i phase n f).disc = s.disc := rfl
@[simp] theorem State.modPass_fuses (s : State) (i phase n : Nat) (f : Pass → Pass) : (s.modPass i phase n f).fuses = s.fuses := rfl
@[simp] theorem State.modPass_fusePass (s : State) (i phase n : Nat) (f : Pass → Pass) : (s.modPass i phase n f).fusePass = s.fusePass := rfl
@[simp] theorem State.modPass_fw (s : State) (i phase n : Nat) (f : Pass → Pass) : (s.modPass i phase n f).fw = s.fw := rfl
@[simp] theorem State.modPass_loan (s : State) (i phase n : Nat) (f : Pass → Pass) : (s.modPass i phase n f).loan = s.loan := rfl
@[simp] theorem State.modPass_entropy (s : State) (i phase n : Nat) (f : Pass → Pass) : (s.modPass i phase n f).entropy = s.entropy := rfl
@[simp] theorem State.modPass_keyPresent (s : State) (i phase n : Nat) (f : Pass → Pass) : (s.modPass i phase n f).keyPresent = s.keyPresent := rfl
@[simp] theorem State.modPass_keyFenced (s : State) (i phase n : Nat) (f : Pass → Pass) : (s.modPass i phase n f).keyFenced = s.keyFenced := rfl
@[simp] theorem State.modPass_log (s : State) (i phase n : Nat) (f : Pass → Pass) : (s.modPass i phase n f).log = s.log := rfl
@[simp] theorem State.modPass_counters (s : State) (i phase n : Nat) (f : Pass → Pass) : (s.modPass i phase n f).counters = s.counters := rfl
@[simp] theorem State.modPass_formula (s : State) (i phase n : Nat) (f : Pass → Pass) : (s.modPass i phase n f).formula = s.formula := rfl
@[simp] theorem State.modPass_bounds (s : State) (i phase n : Nat) (f : Pass → Pass) : (s.modPass i phase n f).bounds = s.bounds := rfl
@[simp] theorem State.modPass_waits (s : State) (i phase n : Nat) (f : Pass → Pass) : (s.modPass i phase n f).waits = s.waits := rfl
@[simp] theorem State.modPass_latest (s : State) (i phase n : Nat) (f : Pass → Pass) : (s.modPass i phase n f).latest = s.latest := rfl
@[simp] theorem State.modPass_admitTime (s : State) (i phase n : Nat) (f : Pass → Pass) : (s.modPass i phase n f).admitTime = s.admitTime := rfl
@[simp] theorem State.modPass_anchorBlocked (s : State) (i phase n : Nat) (f : Pass → Pass) : (s.modPass i phase n f).anchorBlocked = s.anchorBlocked := rfl
@[simp] theorem State.modPass_run (s : State) (i phase n : Nat) (f : Pass → Pass) : (s.modPass i phase n f).run = s.run := rfl
@[simp] theorem State.modPass_cursors (s : State) (i phase n : Nat) (f : Pass → Pass) : (s.modPass i phase n f).cursors = s.cursors := rfl
@[simp] theorem State.modPass_digestSel (s : State) (i phase n : Nat) (f : Pass → Pass) : (s.modPass i phase n f).digestSel = s.digestSel := rfl
@[simp] theorem State.modPass_captureSel (s : State) (i phase n : Nat) (f : Pass → Pass) : (s.modPass i phase n f).captureSel = s.captureSel := rfl
@[simp] theorem State.modPass_shards (s : State) (i phase n : Nat) (f : Pass → Pass) : (s.modPass i phase n f).shards = s.shards := rfl
@[simp] theorem State.modPass_wins (s : State) (i phase n : Nat) (f : Pass → Pass) : (s.modPass i phase n f).wins = s.wins := rfl
@[simp] theorem State.modPass_envs (s : State) (i phase n : Nat) (f : Pass → Pass) : (s.modPass i phase n f).envs = s.envs := rfl
@[simp] theorem State.modPass_pagesFenced (s : State) (i phase n : Nat) (f : Pass → Pass) : (s.modPass i phase n f).pagesFenced = s.pagesFenced := rfl
@[simp] theorem State.modPass_scales (s : State) (i phase n : Nat) (f : Pass → Pass) : (s.modPass i phase n f).scales = s.scales := rfl
@[simp] theorem State.modPass_atm (s : State) (i phase n : Nat) (f : Pass → Pass) : (s.modPass i phase n f).atm = s.atm := rfl
@[simp] theorem State.modPass_atmResults (s : State) (i phase n : Nat) (f : Pass → Pass) : (s.modPass i phase n f).atmResults = s.atmResults := rfl
@[simp] theorem State.modPass_fabric (s : State) (i phase n : Nat) (f : Pass → Pass) : (s.modPass i phase n f).fabric = s.fabric := rfl
@[simp] theorem State.modPass_emission (s : State) (i phase n : Nat) (f : Pass → Pass) : (s.modPass i phase n f).emission = s.emission := rfl
@[simp] theorem State.modPass_near (s : State) (i phase n : Nat) (f : Pass → Pass) : (s.modPass i phase n f).near = s.near := rfl
@[simp] theorem State.modPass_restored (s : State) (i phase n : Nat) (f : Pass → Pass) : (s.modPass i phase n f).restored = s.restored := rfl
@[simp] theorem State.modPass_blotter (s : State) (i phase n : Nat) (f : Pass → Pass) : (s.modPass i phase n f).blotter = s.blotter := rfl
@[simp] theorem State.modPass_outPages (s : State) (i phase n : Nat) (f : Pass → Pass) : (s.modPass i phase n f).outPages = s.outPages := rfl

/-! ### modStep -/

@[simp] theorem State.modStep_cfg (s : State) (n : Nat) (f : StepSt → StepSt) : (s.modStep n f).cfg = s.cfg := rfl
@[simp] theorem State.modStep_pending (s : State) (n : Nat) (f : StepSt → StepSt) : (s.modStep n f).pending = s.pending := rfl
@[simp] theorem State.modStep_free (s : State) (n : Nat) (f : StepSt → StepSt) : (s.modStep n f).free = s.free := rfl
@[simp] theorem State.modStep_time (s : State) (n : Nat) (f : StepSt → StepSt) : (s.modStep n f).time = s.time := rfl
@[simp] theorem State.modStep_porst (s : State) (n : Nat) (f : StepSt → StepSt) : (s.modStep n f).porst = s.porst := rfl
@[simp] theorem State.modStep_wrst (s : State) (n : Nat) (f : StepSt → StepSt) : (s.modStep n f).wrst = s.wrst := rfl
@[simp] theorem State.modStep_wir (s : State) (n : Nat) (f : StepSt → StepSt) : (s.modStep n f).wir = s.wir := rfl
@[simp] theorem State.modStep_fall (s : State) (n : Nat) (f : StepSt → StepSt) : (s.modStep n f).fall = s.fall := rfl
@[simp] theorem State.modStep_testPending (s : State) (n : Nat) (f : StepSt → StepSt) : (s.modStep n f).testPending = s.testPending := rfl
@[simp] theorem State.modStep_smp (s : State) (n : Nat) (f : StepSt → StepSt) : (s.modStep n f).smp = s.smp := rfl
@[simp] theorem State.modStep_ops (s : State) (n : Nat) (f : StepSt → StepSt) : (s.modStep n f).ops = s.ops := rfl
@[simp] theorem State.modStep_retained (s : State) (n : Nat) (f : StepSt → StepSt) : (s.modStep n f).retained = s.retained := rfl
@[simp] theorem State.modStep_nextHandle (s : State) (n : Nat) (f : StepSt → StepSt) : (s.modStep n f).nextHandle = s.nextHandle := rfl
@[simp] theorem State.modStep_doms (s : State) (n : Nat) (f : StepSt → StepSt) : (s.modStep n f).doms = s.doms := rfl
@[simp] theorem State.modStep_clocks (s : State) (n : Nat) (f : StepSt → StepSt) : (s.modStep n f).clocks = s.clocks := rfl
@[simp] theorem State.modStep_chans (s : State) (n : Nat) (f : StepSt → StepSt) : (s.modStep n f).chans = s.chans := rfl
@[simp] theorem State.modStep_out (s : State) (n : Nat) (f : StepSt → StepSt) : (s.modStep n f).out = s.out := rfl
@[simp] theorem State.modStep_dram (s : State) (n : Nat) (f : StepSt → StepSt) : (s.modStep n f).dram = s.dram := rfl
@[simp] theorem State.modStep_poisonWords (s : State) (n : Nat) (f : StepSt → StepSt) : (s.modStep n f).poisonWords = s.poisonWords := rfl
@[simp] theorem State.modStep_disc (s : State) (n : Nat) (f : StepSt → StepSt) : (s.modStep n f).disc = s.disc := rfl
@[simp] theorem State.modStep_fuses (s : State) (n : Nat) (f : StepSt → StepSt) : (s.modStep n f).fuses = s.fuses := rfl
@[simp] theorem State.modStep_fusePass (s : State) (n : Nat) (f : StepSt → StepSt) : (s.modStep n f).fusePass = s.fusePass := rfl
@[simp] theorem State.modStep_fw (s : State) (n : Nat) (f : StepSt → StepSt) : (s.modStep n f).fw = s.fw := rfl
@[simp] theorem State.modStep_loan (s : State) (n : Nat) (f : StepSt → StepSt) : (s.modStep n f).loan = s.loan := rfl
@[simp] theorem State.modStep_entropy (s : State) (n : Nat) (f : StepSt → StepSt) : (s.modStep n f).entropy = s.entropy := rfl
@[simp] theorem State.modStep_keyPresent (s : State) (n : Nat) (f : StepSt → StepSt) : (s.modStep n f).keyPresent = s.keyPresent := rfl
@[simp] theorem State.modStep_keyFenced (s : State) (n : Nat) (f : StepSt → StepSt) : (s.modStep n f).keyFenced = s.keyFenced := rfl
@[simp] theorem State.modStep_log (s : State) (n : Nat) (f : StepSt → StepSt) : (s.modStep n f).log = s.log := rfl
@[simp] theorem State.modStep_counters (s : State) (n : Nat) (f : StepSt → StepSt) : (s.modStep n f).counters = s.counters := rfl
@[simp] theorem State.modStep_formula (s : State) (n : Nat) (f : StepSt → StepSt) : (s.modStep n f).formula = s.formula := rfl
@[simp] theorem State.modStep_bounds (s : State) (n : Nat) (f : StepSt → StepSt) : (s.modStep n f).bounds = s.bounds := rfl
@[simp] theorem State.modStep_waits (s : State) (n : Nat) (f : StepSt → StepSt) : (s.modStep n f).waits = s.waits := rfl
@[simp] theorem State.modStep_latest (s : State) (n : Nat) (f : StepSt → StepSt) : (s.modStep n f).latest = s.latest := rfl
@[simp] theorem State.modStep_admitTime (s : State) (n : Nat) (f : StepSt → StepSt) : (s.modStep n f).admitTime = s.admitTime := rfl
@[simp] theorem State.modStep_anchorBlocked (s : State) (n : Nat) (f : StepSt → StepSt) : (s.modStep n f).anchorBlocked = s.anchorBlocked := rfl
@[simp] theorem State.modStep_cursors (s : State) (n : Nat) (f : StepSt → StepSt) : (s.modStep n f).cursors = s.cursors := rfl
@[simp] theorem State.modStep_digestSel (s : State) (n : Nat) (f : StepSt → StepSt) : (s.modStep n f).digestSel = s.digestSel := rfl
@[simp] theorem State.modStep_captureSel (s : State) (n : Nat) (f : StepSt → StepSt) : (s.modStep n f).captureSel = s.captureSel := rfl
@[simp] theorem State.modStep_shards (s : State) (n : Nat) (f : StepSt → StepSt) : (s.modStep n f).shards = s.shards := rfl
@[simp] theorem State.modStep_wins (s : State) (n : Nat) (f : StepSt → StepSt) : (s.modStep n f).wins = s.wins := rfl
@[simp] theorem State.modStep_envs (s : State) (n : Nat) (f : StepSt → StepSt) : (s.modStep n f).envs = s.envs := rfl
@[simp] theorem State.modStep_pagesFenced (s : State) (n : Nat) (f : StepSt → StepSt) : (s.modStep n f).pagesFenced = s.pagesFenced := rfl
@[simp] theorem State.modStep_stills (s : State) (n : Nat) (f : StepSt → StepSt) : (s.modStep n f).stills = s.stills := rfl
@[simp] theorem State.modStep_scales (s : State) (n : Nat) (f : StepSt → StepSt) : (s.modStep n f).scales = s.scales := rfl
@[simp] theorem State.modStep_atm (s : State) (n : Nat) (f : StepSt → StepSt) : (s.modStep n f).atm = s.atm := rfl
@[simp] theorem State.modStep_atmResults (s : State) (n : Nat) (f : StepSt → StepSt) : (s.modStep n f).atmResults = s.atmResults := rfl
@[simp] theorem State.modStep_fabric (s : State) (n : Nat) (f : StepSt → StepSt) : (s.modStep n f).fabric = s.fabric := rfl
@[simp] theorem State.modStep_emission (s : State) (n : Nat) (f : StepSt → StepSt) : (s.modStep n f).emission = s.emission := rfl
@[simp] theorem State.modStep_near (s : State) (n : Nat) (f : StepSt → StepSt) : (s.modStep n f).near = s.near := rfl
@[simp] theorem State.modStep_restored (s : State) (n : Nat) (f : StepSt → StepSt) : (s.modStep n f).restored = s.restored := rfl
@[simp] theorem State.modStep_blotter (s : State) (n : Nat) (f : StepSt → StepSt) : (s.modStep n f).blotter = s.blotter := rfl
@[simp] theorem State.modStep_outPages (s : State) (n : Nat) (f : StepSt → StepSt) : (s.modStep n f).outPages = s.outPages := rfl

/-! ### tickFree -/

@[simp] theorem State.tickFree_cfg (s : State) : (s.tickFree).cfg = s.cfg := rfl
@[simp] theorem State.tickFree_pending (s : State) : (s.tickFree).pending = s.pending := rfl
@[simp] theorem State.tickFree_free (s : State) : (s.tickFree).free = s.free + 1 := rfl
@[simp] theorem State.tickFree_time (s : State) : (s.tickFree).time = s.time := rfl
@[simp] theorem State.tickFree_porst (s : State) : (s.tickFree).porst = s.porst := rfl
@[simp] theorem State.tickFree_wrst (s : State) : (s.tickFree).wrst = s.wrst := rfl
@[simp] theorem State.tickFree_wir (s : State) : (s.tickFree).wir = s.wir := rfl
@[simp] theorem State.tickFree_fall (s : State) : (s.tickFree).fall = s.fall := rfl
@[simp] theorem State.tickFree_testPending (s : State) : (s.tickFree).testPending = s.testPending := rfl
@[simp] theorem State.tickFree_smp (s : State) : (s.tickFree).smp = s.smp := rfl
@[simp] theorem State.tickFree_ops (s : State) : (s.tickFree).ops = s.ops := rfl
@[simp] theorem State.tickFree_retained (s : State) : (s.tickFree).retained = s.retained := rfl
@[simp] theorem State.tickFree_nextHandle (s : State) : (s.tickFree).nextHandle = s.nextHandle := rfl
@[simp] theorem State.tickFree_doms (s : State) : (s.tickFree).doms = s.doms := rfl
@[simp] theorem State.tickFree_clocks (s : State) : (s.tickFree).clocks = s.clocks := rfl
@[simp] theorem State.tickFree_chans (s : State) : (s.tickFree).chans = s.chans := rfl
@[simp] theorem State.tickFree_out (s : State) : (s.tickFree).out = s.out := rfl
@[simp] theorem State.tickFree_dram (s : State) : (s.tickFree).dram = s.dram := rfl
@[simp] theorem State.tickFree_poisonWords (s : State) : (s.tickFree).poisonWords = s.poisonWords := rfl
@[simp] theorem State.tickFree_disc (s : State) : (s.tickFree).disc = s.disc := rfl
@[simp] theorem State.tickFree_fuses (s : State) : (s.tickFree).fuses = s.fuses := rfl
@[simp] theorem State.tickFree_fusePass (s : State) : (s.tickFree).fusePass = s.fusePass := rfl
@[simp] theorem State.tickFree_fw (s : State) : (s.tickFree).fw = s.fw := rfl
@[simp] theorem State.tickFree_loan (s : State) : (s.tickFree).loan = s.loan := rfl
@[simp] theorem State.tickFree_entropy (s : State) : (s.tickFree).entropy = s.entropy := rfl
@[simp] theorem State.tickFree_keyPresent (s : State) : (s.tickFree).keyPresent = s.keyPresent := rfl
@[simp] theorem State.tickFree_keyFenced (s : State) : (s.tickFree).keyFenced = s.keyFenced := rfl
@[simp] theorem State.tickFree_log (s : State) : (s.tickFree).log = s.log := rfl
@[simp] theorem State.tickFree_counters (s : State) : (s.tickFree).counters = s.counters := rfl
@[simp] theorem State.tickFree_formula (s : State) : (s.tickFree).formula = s.formula := rfl
@[simp] theorem State.tickFree_bounds (s : State) : (s.tickFree).bounds = s.bounds := rfl
@[simp] theorem State.tickFree_waits (s : State) : (s.tickFree).waits = s.waits := rfl
@[simp] theorem State.tickFree_latest (s : State) : (s.tickFree).latest = s.latest := rfl
@[simp] theorem State.tickFree_admitTime (s : State) : (s.tickFree).admitTime = s.admitTime := rfl
@[simp] theorem State.tickFree_anchorBlocked (s : State) : (s.tickFree).anchorBlocked = s.anchorBlocked := rfl
@[simp] theorem State.tickFree_run (s : State) : (s.tickFree).run = s.run := rfl
@[simp] theorem State.tickFree_cursors (s : State) : (s.tickFree).cursors = s.cursors := rfl
@[simp] theorem State.tickFree_digestSel (s : State) : (s.tickFree).digestSel = s.digestSel := rfl
@[simp] theorem State.tickFree_captureSel (s : State) : (s.tickFree).captureSel = s.captureSel := rfl
@[simp] theorem State.tickFree_shards (s : State) : (s.tickFree).shards = s.shards := rfl
@[simp] theorem State.tickFree_wins (s : State) : (s.tickFree).wins = s.wins := rfl
@[simp] theorem State.tickFree_envs (s : State) : (s.tickFree).envs = s.envs := rfl
@[simp] theorem State.tickFree_pagesFenced (s : State) : (s.tickFree).pagesFenced = s.pagesFenced := rfl
@[simp] theorem State.tickFree_stills (s : State) : (s.tickFree).stills = s.stills := rfl
@[simp] theorem State.tickFree_scales (s : State) : (s.tickFree).scales = s.scales := rfl
@[simp] theorem State.tickFree_atm (s : State) : (s.tickFree).atm = s.atm := rfl
@[simp] theorem State.tickFree_atmResults (s : State) : (s.tickFree).atmResults = s.atmResults := rfl
@[simp] theorem State.tickFree_fabric (s : State) : (s.tickFree).fabric = s.fabric := rfl
@[simp] theorem State.tickFree_emission (s : State) : (s.tickFree).emission = s.emission := rfl
@[simp] theorem State.tickFree_near (s : State) : (s.tickFree).near = s.near := rfl
@[simp] theorem State.tickFree_restored (s : State) : (s.tickFree).restored = s.restored := rfl
@[simp] theorem State.tickFree_blotter (s : State) : (s.tickFree).blotter = s.blotter := rfl
@[simp] theorem State.tickFree_outPages (s : State) : (s.tickFree).outPages = s.outPages := rfl

/-! ### writeDram -/

@[simp] theorem State.writeDram_cfg (s : State) (a : Nat) (bs : List Byte) : (s.writeDram a bs).cfg = s.cfg := rfl
@[simp] theorem State.writeDram_pending (s : State) (a : Nat) (bs : List Byte) : (s.writeDram a bs).pending = s.pending := rfl
@[simp] theorem State.writeDram_free (s : State) (a : Nat) (bs : List Byte) : (s.writeDram a bs).free = s.free := rfl
@[simp] theorem State.writeDram_time (s : State) (a : Nat) (bs : List Byte) : (s.writeDram a bs).time = s.time := rfl
@[simp] theorem State.writeDram_porst (s : State) (a : Nat) (bs : List Byte) : (s.writeDram a bs).porst = s.porst := rfl
@[simp] theorem State.writeDram_wrst (s : State) (a : Nat) (bs : List Byte) : (s.writeDram a bs).wrst = s.wrst := rfl
@[simp] theorem State.writeDram_wir (s : State) (a : Nat) (bs : List Byte) : (s.writeDram a bs).wir = s.wir := rfl
@[simp] theorem State.writeDram_fall (s : State) (a : Nat) (bs : List Byte) : (s.writeDram a bs).fall = s.fall := rfl
@[simp] theorem State.writeDram_testPending (s : State) (a : Nat) (bs : List Byte) : (s.writeDram a bs).testPending = s.testPending := rfl
@[simp] theorem State.writeDram_smp (s : State) (a : Nat) (bs : List Byte) : (s.writeDram a bs).smp = s.smp := rfl
@[simp] theorem State.writeDram_ops (s : State) (a : Nat) (bs : List Byte) : (s.writeDram a bs).ops = s.ops := rfl
@[simp] theorem State.writeDram_retained (s : State) (a : Nat) (bs : List Byte) : (s.writeDram a bs).retained = s.retained := rfl
@[simp] theorem State.writeDram_nextHandle (s : State) (a : Nat) (bs : List Byte) : (s.writeDram a bs).nextHandle = s.nextHandle := rfl
@[simp] theorem State.writeDram_doms (s : State) (a : Nat) (bs : List Byte) : (s.writeDram a bs).doms = s.doms := rfl
@[simp] theorem State.writeDram_clocks (s : State) (a : Nat) (bs : List Byte) : (s.writeDram a bs).clocks = s.clocks := rfl
@[simp] theorem State.writeDram_chans (s : State) (a : Nat) (bs : List Byte) : (s.writeDram a bs).chans = s.chans := rfl
@[simp] theorem State.writeDram_out (s : State) (a : Nat) (bs : List Byte) : (s.writeDram a bs).out = s.out := rfl
@[simp] theorem State.writeDram_dram (s : State) (a : Nat) (bs : List Byte) : (s.writeDram a bs).dram = writeMemList s.dram a bs := rfl
@[simp] theorem State.writeDram_poisonWords (s : State) (a : Nat) (bs : List Byte) : (s.writeDram a bs).poisonWords = s.poisonWords := rfl
@[simp] theorem State.writeDram_disc (s : State) (a : Nat) (bs : List Byte) : (s.writeDram a bs).disc = s.disc := rfl
@[simp] theorem State.writeDram_fuses (s : State) (a : Nat) (bs : List Byte) : (s.writeDram a bs).fuses = s.fuses := rfl
@[simp] theorem State.writeDram_fusePass (s : State) (a : Nat) (bs : List Byte) : (s.writeDram a bs).fusePass = s.fusePass := rfl
@[simp] theorem State.writeDram_fw (s : State) (a : Nat) (bs : List Byte) : (s.writeDram a bs).fw = s.fw := rfl
@[simp] theorem State.writeDram_loan (s : State) (a : Nat) (bs : List Byte) : (s.writeDram a bs).loan = s.loan := rfl
@[simp] theorem State.writeDram_entropy (s : State) (a : Nat) (bs : List Byte) : (s.writeDram a bs).entropy = s.entropy := rfl
@[simp] theorem State.writeDram_keyPresent (s : State) (a : Nat) (bs : List Byte) : (s.writeDram a bs).keyPresent = s.keyPresent := rfl
@[simp] theorem State.writeDram_keyFenced (s : State) (a : Nat) (bs : List Byte) : (s.writeDram a bs).keyFenced = s.keyFenced := rfl
@[simp] theorem State.writeDram_log (s : State) (a : Nat) (bs : List Byte) : (s.writeDram a bs).log = s.log := rfl
@[simp] theorem State.writeDram_counters (s : State) (a : Nat) (bs : List Byte) : (s.writeDram a bs).counters = s.counters := rfl
@[simp] theorem State.writeDram_formula (s : State) (a : Nat) (bs : List Byte) : (s.writeDram a bs).formula = s.formula := rfl
@[simp] theorem State.writeDram_bounds (s : State) (a : Nat) (bs : List Byte) : (s.writeDram a bs).bounds = s.bounds := rfl
@[simp] theorem State.writeDram_waits (s : State) (a : Nat) (bs : List Byte) : (s.writeDram a bs).waits = s.waits := rfl
@[simp] theorem State.writeDram_latest (s : State) (a : Nat) (bs : List Byte) : (s.writeDram a bs).latest = s.latest := rfl
@[simp] theorem State.writeDram_admitTime (s : State) (a : Nat) (bs : List Byte) : (s.writeDram a bs).admitTime = s.admitTime := rfl
@[simp] theorem State.writeDram_anchorBlocked (s : State) (a : Nat) (bs : List Byte) : (s.writeDram a bs).anchorBlocked = s.anchorBlocked := rfl
@[simp] theorem State.writeDram_run (s : State) (a : Nat) (bs : List Byte) : (s.writeDram a bs).run = s.run := rfl
@[simp] theorem State.writeDram_cursors (s : State) (a : Nat) (bs : List Byte) : (s.writeDram a bs).cursors = s.cursors := rfl
@[simp] theorem State.writeDram_digestSel (s : State) (a : Nat) (bs : List Byte) : (s.writeDram a bs).digestSel = s.digestSel := rfl
@[simp] theorem State.writeDram_captureSel (s : State) (a : Nat) (bs : List Byte) : (s.writeDram a bs).captureSel = s.captureSel := rfl
@[simp] theorem State.writeDram_shards (s : State) (a : Nat) (bs : List Byte) : (s.writeDram a bs).shards = s.shards := rfl
@[simp] theorem State.writeDram_wins (s : State) (a : Nat) (bs : List Byte) : (s.writeDram a bs).wins = s.wins := rfl
@[simp] theorem State.writeDram_envs (s : State) (a : Nat) (bs : List Byte) : (s.writeDram a bs).envs = s.envs := rfl
@[simp] theorem State.writeDram_pagesFenced (s : State) (a : Nat) (bs : List Byte) : (s.writeDram a bs).pagesFenced = s.pagesFenced := rfl
@[simp] theorem State.writeDram_stills (s : State) (a : Nat) (bs : List Byte) : (s.writeDram a bs).stills = s.stills := rfl
@[simp] theorem State.writeDram_scales (s : State) (a : Nat) (bs : List Byte) : (s.writeDram a bs).scales = s.scales := rfl
@[simp] theorem State.writeDram_atm (s : State) (a : Nat) (bs : List Byte) : (s.writeDram a bs).atm = s.atm := rfl
@[simp] theorem State.writeDram_atmResults (s : State) (a : Nat) (bs : List Byte) : (s.writeDram a bs).atmResults = s.atmResults := rfl
@[simp] theorem State.writeDram_fabric (s : State) (a : Nat) (bs : List Byte) : (s.writeDram a bs).fabric = s.fabric := rfl
@[simp] theorem State.writeDram_emission (s : State) (a : Nat) (bs : List Byte) : (s.writeDram a bs).emission = s.emission := rfl
@[simp] theorem State.writeDram_near (s : State) (a : Nat) (bs : List Byte) : (s.writeDram a bs).near = s.near := rfl
@[simp] theorem State.writeDram_restored (s : State) (a : Nat) (bs : List Byte) : (s.writeDram a bs).restored = s.restored := rfl
@[simp] theorem State.writeDram_blotter (s : State) (a : Nat) (bs : List Byte) : (s.writeDram a bs).blotter = s.blotter := rfl
@[simp] theorem State.writeDram_outPages (s : State) (a : Nat) (bs : List Byte) : (s.writeDram a bs).outPages = s.outPages := rfl

/-! ### writePlane -/

@[simp] theorem State.writePlane_cfg (s : State) (k a : Nat) (bs : List Byte) : (s.writePlane k a bs).cfg = s.cfg := rfl
@[simp] theorem State.writePlane_pending (s : State) (k a : Nat) (bs : List Byte) : (s.writePlane k a bs).pending = s.pending := rfl
@[simp] theorem State.writePlane_free (s : State) (k a : Nat) (bs : List Byte) : (s.writePlane k a bs).free = s.free := rfl
@[simp] theorem State.writePlane_time (s : State) (k a : Nat) (bs : List Byte) : (s.writePlane k a bs).time = s.time := rfl
@[simp] theorem State.writePlane_porst (s : State) (k a : Nat) (bs : List Byte) : (s.writePlane k a bs).porst = s.porst := rfl
@[simp] theorem State.writePlane_wrst (s : State) (k a : Nat) (bs : List Byte) : (s.writePlane k a bs).wrst = s.wrst := rfl
@[simp] theorem State.writePlane_wir (s : State) (k a : Nat) (bs : List Byte) : (s.writePlane k a bs).wir = s.wir := rfl
@[simp] theorem State.writePlane_fall (s : State) (k a : Nat) (bs : List Byte) : (s.writePlane k a bs).fall = s.fall := rfl
@[simp] theorem State.writePlane_testPending (s : State) (k a : Nat) (bs : List Byte) : (s.writePlane k a bs).testPending = s.testPending := rfl
@[simp] theorem State.writePlane_smp (s : State) (k a : Nat) (bs : List Byte) : (s.writePlane k a bs).smp = s.smp := rfl
@[simp] theorem State.writePlane_ops (s : State) (k a : Nat) (bs : List Byte) : (s.writePlane k a bs).ops = s.ops := rfl
@[simp] theorem State.writePlane_retained (s : State) (k a : Nat) (bs : List Byte) : (s.writePlane k a bs).retained = s.retained := rfl
@[simp] theorem State.writePlane_nextHandle (s : State) (k a : Nat) (bs : List Byte) : (s.writePlane k a bs).nextHandle = s.nextHandle := rfl
@[simp] theorem State.writePlane_doms (s : State) (k a : Nat) (bs : List Byte) : (s.writePlane k a bs).doms = s.doms := rfl
@[simp] theorem State.writePlane_clocks (s : State) (k a : Nat) (bs : List Byte) : (s.writePlane k a bs).clocks = s.clocks := rfl
@[simp] theorem State.writePlane_chans (s : State) (k a : Nat) (bs : List Byte) : (s.writePlane k a bs).chans = s.chans := rfl
@[simp] theorem State.writePlane_out (s : State) (k a : Nat) (bs : List Byte) : (s.writePlane k a bs).out = s.out := rfl
@[simp] theorem State.writePlane_dram (s : State) (k a : Nat) (bs : List Byte) : (s.writePlane k a bs).dram = writePlaneList s.cfg k s.dram a bs := rfl
@[simp] theorem State.writePlane_poisonWords (s : State) (k a : Nat) (bs : List Byte) : (s.writePlane k a bs).poisonWords = s.poisonWords := rfl
@[simp] theorem State.writePlane_disc (s : State) (k a : Nat) (bs : List Byte) : (s.writePlane k a bs).disc = s.disc := rfl
@[simp] theorem State.writePlane_fuses (s : State) (k a : Nat) (bs : List Byte) : (s.writePlane k a bs).fuses = s.fuses := rfl
@[simp] theorem State.writePlane_fusePass (s : State) (k a : Nat) (bs : List Byte) : (s.writePlane k a bs).fusePass = s.fusePass := rfl
@[simp] theorem State.writePlane_fw (s : State) (k a : Nat) (bs : List Byte) : (s.writePlane k a bs).fw = s.fw := rfl
@[simp] theorem State.writePlane_loan (s : State) (k a : Nat) (bs : List Byte) : (s.writePlane k a bs).loan = s.loan := rfl
@[simp] theorem State.writePlane_entropy (s : State) (k a : Nat) (bs : List Byte) : (s.writePlane k a bs).entropy = s.entropy := rfl
@[simp] theorem State.writePlane_keyPresent (s : State) (k a : Nat) (bs : List Byte) : (s.writePlane k a bs).keyPresent = s.keyPresent := rfl
@[simp] theorem State.writePlane_keyFenced (s : State) (k a : Nat) (bs : List Byte) : (s.writePlane k a bs).keyFenced = s.keyFenced := rfl
@[simp] theorem State.writePlane_log (s : State) (k a : Nat) (bs : List Byte) : (s.writePlane k a bs).log = s.log := rfl
@[simp] theorem State.writePlane_counters (s : State) (k a : Nat) (bs : List Byte) : (s.writePlane k a bs).counters = s.counters := rfl
@[simp] theorem State.writePlane_formula (s : State) (k a : Nat) (bs : List Byte) : (s.writePlane k a bs).formula = s.formula := rfl
@[simp] theorem State.writePlane_bounds (s : State) (k a : Nat) (bs : List Byte) : (s.writePlane k a bs).bounds = s.bounds := rfl
@[simp] theorem State.writePlane_waits (s : State) (k a : Nat) (bs : List Byte) : (s.writePlane k a bs).waits = s.waits := rfl
@[simp] theorem State.writePlane_latest (s : State) (k a : Nat) (bs : List Byte) : (s.writePlane k a bs).latest = s.latest := rfl
@[simp] theorem State.writePlane_admitTime (s : State) (k a : Nat) (bs : List Byte) : (s.writePlane k a bs).admitTime = s.admitTime := rfl
@[simp] theorem State.writePlane_anchorBlocked (s : State) (k a : Nat) (bs : List Byte) : (s.writePlane k a bs).anchorBlocked = s.anchorBlocked := rfl
@[simp] theorem State.writePlane_run (s : State) (k a : Nat) (bs : List Byte) : (s.writePlane k a bs).run = s.run := rfl
@[simp] theorem State.writePlane_cursors (s : State) (k a : Nat) (bs : List Byte) : (s.writePlane k a bs).cursors = s.cursors := rfl
@[simp] theorem State.writePlane_digestSel (s : State) (k a : Nat) (bs : List Byte) : (s.writePlane k a bs).digestSel = s.digestSel := rfl
@[simp] theorem State.writePlane_captureSel (s : State) (k a : Nat) (bs : List Byte) : (s.writePlane k a bs).captureSel = s.captureSel := rfl
@[simp] theorem State.writePlane_shards (s : State) (k a : Nat) (bs : List Byte) : (s.writePlane k a bs).shards = s.shards := rfl
@[simp] theorem State.writePlane_wins (s : State) (k a : Nat) (bs : List Byte) : (s.writePlane k a bs).wins = s.wins := rfl
@[simp] theorem State.writePlane_envs (s : State) (k a : Nat) (bs : List Byte) : (s.writePlane k a bs).envs = s.envs := rfl
@[simp] theorem State.writePlane_pagesFenced (s : State) (k a : Nat) (bs : List Byte) : (s.writePlane k a bs).pagesFenced = s.pagesFenced := rfl
@[simp] theorem State.writePlane_stills (s : State) (k a : Nat) (bs : List Byte) : (s.writePlane k a bs).stills = s.stills := rfl
@[simp] theorem State.writePlane_scales (s : State) (k a : Nat) (bs : List Byte) : (s.writePlane k a bs).scales = s.scales := rfl
@[simp] theorem State.writePlane_atm (s : State) (k a : Nat) (bs : List Byte) : (s.writePlane k a bs).atm = s.atm := rfl
@[simp] theorem State.writePlane_atmResults (s : State) (k a : Nat) (bs : List Byte) : (s.writePlane k a bs).atmResults = s.atmResults := rfl
@[simp] theorem State.writePlane_fabric (s : State) (k a : Nat) (bs : List Byte) : (s.writePlane k a bs).fabric = s.fabric := rfl
@[simp] theorem State.writePlane_emission (s : State) (k a : Nat) (bs : List Byte) : (s.writePlane k a bs).emission = s.emission := rfl
@[simp] theorem State.writePlane_near (s : State) (k a : Nat) (bs : List Byte) : (s.writePlane k a bs).near = s.near := rfl
@[simp] theorem State.writePlane_restored (s : State) (k a : Nat) (bs : List Byte) : (s.writePlane k a bs).restored = s.restored := rfl
@[simp] theorem State.writePlane_blotter (s : State) (k a : Nat) (bs : List Byte) : (s.writePlane k a bs).blotter = s.blotter := rfl
@[simp] theorem State.writePlane_outPages (s : State) (k a : Nat) (bs : List Byte) : (s.writePlane k a bs).outPages = s.outPages := rfl

/-! ### post -/

@[simp] theorem State.post_cfg (s : State) (code cat cls a0 a1 a2 : Nat) : (s.post code cat cls a0 a1 a2).cfg = s.cfg := rfl
@[simp] theorem State.post_pending (s : State) (code cat cls a0 a1 a2 : Nat) : (s.post code cat cls a0 a1 a2).pending = s.pending := rfl
@[simp] theorem State.post_free (s : State) (code cat cls a0 a1 a2 : Nat) : (s.post code cat cls a0 a1 a2).free = s.free := rfl
@[simp] theorem State.post_time (s : State) (code cat cls a0 a1 a2 : Nat) : (s.post code cat cls a0 a1 a2).time = s.time := rfl
@[simp] theorem State.post_porst (s : State) (code cat cls a0 a1 a2 : Nat) : (s.post code cat cls a0 a1 a2).porst = s.porst := rfl
@[simp] theorem State.post_wrst (s : State) (code cat cls a0 a1 a2 : Nat) : (s.post code cat cls a0 a1 a2).wrst = s.wrst := rfl
@[simp] theorem State.post_wir (s : State) (code cat cls a0 a1 a2 : Nat) : (s.post code cat cls a0 a1 a2).wir = s.wir := rfl
@[simp] theorem State.post_fall (s : State) (code cat cls a0 a1 a2 : Nat) : (s.post code cat cls a0 a1 a2).fall = s.fall := rfl
@[simp] theorem State.post_testPending (s : State) (code cat cls a0 a1 a2 : Nat) : (s.post code cat cls a0 a1 a2).testPending = s.testPending := rfl
@[simp] theorem State.post_smp (s : State) (code cat cls a0 a1 a2 : Nat) : (s.post code cat cls a0 a1 a2).smp = s.smp.post (mkEvent code cat cls a0 a1 a2 s.time) := rfl
@[simp] theorem State.post_ops (s : State) (code cat cls a0 a1 a2 : Nat) : (s.post code cat cls a0 a1 a2).ops = s.ops := rfl
@[simp] theorem State.post_retained (s : State) (code cat cls a0 a1 a2 : Nat) : (s.post code cat cls a0 a1 a2).retained = s.retained := rfl
@[simp] theorem State.post_nextHandle (s : State) (code cat cls a0 a1 a2 : Nat) : (s.post code cat cls a0 a1 a2).nextHandle = s.nextHandle := rfl
@[simp] theorem State.post_doms (s : State) (code cat cls a0 a1 a2 : Nat) : (s.post code cat cls a0 a1 a2).doms = s.doms := rfl
@[simp] theorem State.post_clocks (s : State) (code cat cls a0 a1 a2 : Nat) : (s.post code cat cls a0 a1 a2).clocks = s.clocks := rfl
@[simp] theorem State.post_chans (s : State) (code cat cls a0 a1 a2 : Nat) : (s.post code cat cls a0 a1 a2).chans = s.chans := rfl
@[simp] theorem State.post_out (s : State) (code cat cls a0 a1 a2 : Nat) : (s.post code cat cls a0 a1 a2).out = s.out := rfl
@[simp] theorem State.post_dram (s : State) (code cat cls a0 a1 a2 : Nat) : (s.post code cat cls a0 a1 a2).dram = s.dram := rfl
@[simp] theorem State.post_poisonWords (s : State) (code cat cls a0 a1 a2 : Nat) : (s.post code cat cls a0 a1 a2).poisonWords = s.poisonWords := rfl
@[simp] theorem State.post_disc (s : State) (code cat cls a0 a1 a2 : Nat) : (s.post code cat cls a0 a1 a2).disc = s.disc := rfl
@[simp] theorem State.post_fuses (s : State) (code cat cls a0 a1 a2 : Nat) : (s.post code cat cls a0 a1 a2).fuses = s.fuses := rfl
@[simp] theorem State.post_fusePass (s : State) (code cat cls a0 a1 a2 : Nat) : (s.post code cat cls a0 a1 a2).fusePass = s.fusePass := rfl
@[simp] theorem State.post_fw (s : State) (code cat cls a0 a1 a2 : Nat) : (s.post code cat cls a0 a1 a2).fw = s.fw := rfl
@[simp] theorem State.post_loan (s : State) (code cat cls a0 a1 a2 : Nat) : (s.post code cat cls a0 a1 a2).loan = s.loan := rfl
@[simp] theorem State.post_entropy (s : State) (code cat cls a0 a1 a2 : Nat) : (s.post code cat cls a0 a1 a2).entropy = s.entropy := rfl
@[simp] theorem State.post_keyPresent (s : State) (code cat cls a0 a1 a2 : Nat) : (s.post code cat cls a0 a1 a2).keyPresent = s.keyPresent := rfl
@[simp] theorem State.post_keyFenced (s : State) (code cat cls a0 a1 a2 : Nat) : (s.post code cat cls a0 a1 a2).keyFenced = s.keyFenced := rfl
@[simp] theorem State.post_log (s : State) (code cat cls a0 a1 a2 : Nat) : (s.post code cat cls a0 a1 a2).log = s.log := rfl
@[simp] theorem State.post_counters (s : State) (code cat cls a0 a1 a2 : Nat) : (s.post code cat cls a0 a1 a2).counters = s.counters := rfl
@[simp] theorem State.post_formula (s : State) (code cat cls a0 a1 a2 : Nat) : (s.post code cat cls a0 a1 a2).formula = s.formula := rfl
@[simp] theorem State.post_bounds (s : State) (code cat cls a0 a1 a2 : Nat) : (s.post code cat cls a0 a1 a2).bounds = s.bounds := rfl
@[simp] theorem State.post_waits (s : State) (code cat cls a0 a1 a2 : Nat) : (s.post code cat cls a0 a1 a2).waits = s.waits := rfl
@[simp] theorem State.post_latest (s : State) (code cat cls a0 a1 a2 : Nat) : (s.post code cat cls a0 a1 a2).latest = s.latest := rfl
@[simp] theorem State.post_admitTime (s : State) (code cat cls a0 a1 a2 : Nat) : (s.post code cat cls a0 a1 a2).admitTime = s.admitTime := rfl
@[simp] theorem State.post_anchorBlocked (s : State) (code cat cls a0 a1 a2 : Nat) : (s.post code cat cls a0 a1 a2).anchorBlocked = s.anchorBlocked := rfl
@[simp] theorem State.post_run (s : State) (code cat cls a0 a1 a2 : Nat) : (s.post code cat cls a0 a1 a2).run = s.run := rfl
@[simp] theorem State.post_cursors (s : State) (code cat cls a0 a1 a2 : Nat) : (s.post code cat cls a0 a1 a2).cursors = s.cursors := rfl
@[simp] theorem State.post_digestSel (s : State) (code cat cls a0 a1 a2 : Nat) : (s.post code cat cls a0 a1 a2).digestSel = s.digestSel := rfl
@[simp] theorem State.post_captureSel (s : State) (code cat cls a0 a1 a2 : Nat) : (s.post code cat cls a0 a1 a2).captureSel = s.captureSel := rfl
@[simp] theorem State.post_shards (s : State) (code cat cls a0 a1 a2 : Nat) : (s.post code cat cls a0 a1 a2).shards = s.shards := rfl
@[simp] theorem State.post_wins (s : State) (code cat cls a0 a1 a2 : Nat) : (s.post code cat cls a0 a1 a2).wins = s.wins := rfl
@[simp] theorem State.post_envs (s : State) (code cat cls a0 a1 a2 : Nat) : (s.post code cat cls a0 a1 a2).envs = s.envs := rfl
@[simp] theorem State.post_pagesFenced (s : State) (code cat cls a0 a1 a2 : Nat) : (s.post code cat cls a0 a1 a2).pagesFenced = s.pagesFenced := rfl
@[simp] theorem State.post_stills (s : State) (code cat cls a0 a1 a2 : Nat) : (s.post code cat cls a0 a1 a2).stills = s.stills := rfl
@[simp] theorem State.post_scales (s : State) (code cat cls a0 a1 a2 : Nat) : (s.post code cat cls a0 a1 a2).scales = s.scales := rfl
@[simp] theorem State.post_atm (s : State) (code cat cls a0 a1 a2 : Nat) : (s.post code cat cls a0 a1 a2).atm = s.atm := rfl
@[simp] theorem State.post_atmResults (s : State) (code cat cls a0 a1 a2 : Nat) : (s.post code cat cls a0 a1 a2).atmResults = s.atmResults := rfl
@[simp] theorem State.post_fabric (s : State) (code cat cls a0 a1 a2 : Nat) : (s.post code cat cls a0 a1 a2).fabric = s.fabric := rfl
@[simp] theorem State.post_emission (s : State) (code cat cls a0 a1 a2 : Nat) : (s.post code cat cls a0 a1 a2).emission = s.emission := rfl
@[simp] theorem State.post_near (s : State) (code cat cls a0 a1 a2 : Nat) : (s.post code cat cls a0 a1 a2).near = s.near := rfl
@[simp] theorem State.post_restored (s : State) (code cat cls a0 a1 a2 : Nat) : (s.post code cat cls a0 a1 a2).restored = s.restored := rfl
@[simp] theorem State.post_blotter (s : State) (code cat cls a0 a1 a2 : Nat) : (s.post code cat cls a0 a1 a2).blotter = s.blotter := rfl
@[simp] theorem State.post_outPages (s : State) (code cat cls a0 a1 a2 : Nat) : (s.post code cat cls a0 a1 a2).outPages = s.outPages := rfl

/-! ### answer -/

@[simp] theorem State.answer_cfg (s : State) (rdata : Nat) (err : Bool) : (s.answer rdata err).cfg = s.cfg := rfl
@[simp] theorem State.answer_pending (s : State) (rdata : Nat) (err : Bool) : (s.answer rdata err).pending = s.pending := rfl
@[simp] theorem State.answer_free (s : State) (rdata : Nat) (err : Bool) : (s.answer rdata err).free = s.free := rfl
@[simp] theorem State.answer_time (s : State) (rdata : Nat) (err : Bool) : (s.answer rdata err).time = s.time := rfl
@[simp] theorem State.answer_porst (s : State) (rdata : Nat) (err : Bool) : (s.answer rdata err).porst = s.porst := rfl
@[simp] theorem State.answer_wrst (s : State) (rdata : Nat) (err : Bool) : (s.answer rdata err).wrst = s.wrst := rfl
@[simp] theorem State.answer_wir (s : State) (rdata : Nat) (err : Bool) : (s.answer rdata err).wir = s.wir := rfl
@[simp] theorem State.answer_fall (s : State) (rdata : Nat) (err : Bool) : (s.answer rdata err).fall = s.fall := rfl
@[simp] theorem State.answer_testPending (s : State) (rdata : Nat) (err : Bool) : (s.answer rdata err).testPending = s.testPending := rfl
@[simp] theorem State.answer_ops (s : State) (rdata : Nat) (err : Bool) : (s.answer rdata err).ops = s.ops := rfl
@[simp] theorem State.answer_retained (s : State) (rdata : Nat) (err : Bool) : (s.answer rdata err).retained = s.retained := rfl
@[simp] theorem State.answer_nextHandle (s : State) (rdata : Nat) (err : Bool) : (s.answer rdata err).nextHandle = s.nextHandle := rfl
@[simp] theorem State.answer_doms (s : State) (rdata : Nat) (err : Bool) : (s.answer rdata err).doms = s.doms := rfl
@[simp] theorem State.answer_clocks (s : State) (rdata : Nat) (err : Bool) : (s.answer rdata err).clocks = s.clocks := rfl
@[simp] theorem State.answer_chans (s : State) (rdata : Nat) (err : Bool) : (s.answer rdata err).chans = s.chans := rfl
@[simp] theorem State.answer_out (s : State) (rdata : Nat) (err : Bool) : (s.answer rdata err).out = s.out := rfl
@[simp] theorem State.answer_dram (s : State) (rdata : Nat) (err : Bool) : (s.answer rdata err).dram = s.dram := rfl
@[simp] theorem State.answer_poisonWords (s : State) (rdata : Nat) (err : Bool) : (s.answer rdata err).poisonWords = s.poisonWords := rfl
@[simp] theorem State.answer_disc (s : State) (rdata : Nat) (err : Bool) : (s.answer rdata err).disc = s.disc := rfl
@[simp] theorem State.answer_fuses (s : State) (rdata : Nat) (err : Bool) : (s.answer rdata err).fuses = s.fuses := rfl
@[simp] theorem State.answer_fusePass (s : State) (rdata : Nat) (err : Bool) : (s.answer rdata err).fusePass = s.fusePass := rfl
@[simp] theorem State.answer_fw (s : State) (rdata : Nat) (err : Bool) : (s.answer rdata err).fw = s.fw := rfl
@[simp] theorem State.answer_loan (s : State) (rdata : Nat) (err : Bool) : (s.answer rdata err).loan = s.loan := rfl
@[simp] theorem State.answer_entropy (s : State) (rdata : Nat) (err : Bool) : (s.answer rdata err).entropy = s.entropy := rfl
@[simp] theorem State.answer_keyPresent (s : State) (rdata : Nat) (err : Bool) : (s.answer rdata err).keyPresent = s.keyPresent := rfl
@[simp] theorem State.answer_keyFenced (s : State) (rdata : Nat) (err : Bool) : (s.answer rdata err).keyFenced = s.keyFenced := rfl
@[simp] theorem State.answer_log (s : State) (rdata : Nat) (err : Bool) : (s.answer rdata err).log = s.log := rfl
@[simp] theorem State.answer_counters (s : State) (rdata : Nat) (err : Bool) : (s.answer rdata err).counters = s.counters := rfl
@[simp] theorem State.answer_formula (s : State) (rdata : Nat) (err : Bool) : (s.answer rdata err).formula = s.formula := rfl
@[simp] theorem State.answer_bounds (s : State) (rdata : Nat) (err : Bool) : (s.answer rdata err).bounds = s.bounds := rfl
@[simp] theorem State.answer_waits (s : State) (rdata : Nat) (err : Bool) : (s.answer rdata err).waits = s.waits := rfl
@[simp] theorem State.answer_latest (s : State) (rdata : Nat) (err : Bool) : (s.answer rdata err).latest = s.latest := rfl
@[simp] theorem State.answer_admitTime (s : State) (rdata : Nat) (err : Bool) : (s.answer rdata err).admitTime = s.admitTime := rfl
@[simp] theorem State.answer_anchorBlocked (s : State) (rdata : Nat) (err : Bool) : (s.answer rdata err).anchorBlocked = s.anchorBlocked := rfl
@[simp] theorem State.answer_run (s : State) (rdata : Nat) (err : Bool) : (s.answer rdata err).run = s.run := rfl
@[simp] theorem State.answer_cursors (s : State) (rdata : Nat) (err : Bool) : (s.answer rdata err).cursors = s.cursors := rfl
@[simp] theorem State.answer_digestSel (s : State) (rdata : Nat) (err : Bool) : (s.answer rdata err).digestSel = s.digestSel := rfl
@[simp] theorem State.answer_captureSel (s : State) (rdata : Nat) (err : Bool) : (s.answer rdata err).captureSel = s.captureSel := rfl
@[simp] theorem State.answer_shards (s : State) (rdata : Nat) (err : Bool) : (s.answer rdata err).shards = s.shards := rfl
@[simp] theorem State.answer_wins (s : State) (rdata : Nat) (err : Bool) : (s.answer rdata err).wins = s.wins := rfl
@[simp] theorem State.answer_envs (s : State) (rdata : Nat) (err : Bool) : (s.answer rdata err).envs = s.envs := rfl
@[simp] theorem State.answer_pagesFenced (s : State) (rdata : Nat) (err : Bool) : (s.answer rdata err).pagesFenced = s.pagesFenced := rfl
@[simp] theorem State.answer_stills (s : State) (rdata : Nat) (err : Bool) : (s.answer rdata err).stills = s.stills := rfl
@[simp] theorem State.answer_scales (s : State) (rdata : Nat) (err : Bool) : (s.answer rdata err).scales = s.scales := rfl
@[simp] theorem State.answer_atm (s : State) (rdata : Nat) (err : Bool) : (s.answer rdata err).atm = s.atm := rfl
@[simp] theorem State.answer_atmResults (s : State) (rdata : Nat) (err : Bool) : (s.answer rdata err).atmResults = s.atmResults := rfl
@[simp] theorem State.answer_fabric (s : State) (rdata : Nat) (err : Bool) : (s.answer rdata err).fabric = s.fabric := rfl
@[simp] theorem State.answer_emission (s : State) (rdata : Nat) (err : Bool) : (s.answer rdata err).emission = s.emission := rfl
@[simp] theorem State.answer_near (s : State) (rdata : Nat) (err : Bool) : (s.answer rdata err).near = s.near := rfl
@[simp] theorem State.answer_restored (s : State) (rdata : Nat) (err : Bool) : (s.answer rdata err).restored = s.restored := rfl
@[simp] theorem State.answer_blotter (s : State) (rdata : Nat) (err : Bool) : (s.answer rdata err).blotter = s.blotter := rfl
@[simp] theorem State.answer_outPages (s : State) (rdata : Nat) (err : Bool) : (s.answer rdata err).outPages = s.outPages := rfl

/-! ### count -/

@[simp] theorem State.count_cfg (s : State) (set index num n : Nat) : (s.count set index num n).cfg = s.cfg := rfl
@[simp] theorem State.count_pending (s : State) (set index num n : Nat) : (s.count set index num n).pending = s.pending := rfl
@[simp] theorem State.count_free (s : State) (set index num n : Nat) : (s.count set index num n).free = s.free := rfl
@[simp] theorem State.count_time (s : State) (set index num n : Nat) : (s.count set index num n).time = s.time := rfl
@[simp] theorem State.count_porst (s : State) (set index num n : Nat) : (s.count set index num n).porst = s.porst := rfl
@[simp] theorem State.count_wrst (s : State) (set index num n : Nat) : (s.count set index num n).wrst = s.wrst := rfl
@[simp] theorem State.count_wir (s : State) (set index num n : Nat) : (s.count set index num n).wir = s.wir := rfl
@[simp] theorem State.count_fall (s : State) (set index num n : Nat) : (s.count set index num n).fall = s.fall := rfl
@[simp] theorem State.count_testPending (s : State) (set index num n : Nat) : (s.count set index num n).testPending = s.testPending := rfl
@[simp] theorem State.count_smp (s : State) (set index num n : Nat) : (s.count set index num n).smp = s.smp := rfl
@[simp] theorem State.count_ops (s : State) (set index num n : Nat) : (s.count set index num n).ops = s.ops := rfl
@[simp] theorem State.count_retained (s : State) (set index num n : Nat) : (s.count set index num n).retained = s.retained := rfl
@[simp] theorem State.count_nextHandle (s : State) (set index num n : Nat) : (s.count set index num n).nextHandle = s.nextHandle := rfl
@[simp] theorem State.count_doms (s : State) (set index num n : Nat) : (s.count set index num n).doms = s.doms := rfl
@[simp] theorem State.count_clocks (s : State) (set index num n : Nat) : (s.count set index num n).clocks = s.clocks := rfl
@[simp] theorem State.count_chans (s : State) (set index num n : Nat) : (s.count set index num n).chans = s.chans := rfl
@[simp] theorem State.count_out (s : State) (set index num n : Nat) : (s.count set index num n).out = s.out := rfl
@[simp] theorem State.count_dram (s : State) (set index num n : Nat) : (s.count set index num n).dram = s.dram := rfl
@[simp] theorem State.count_poisonWords (s : State) (set index num n : Nat) : (s.count set index num n).poisonWords = s.poisonWords := rfl
@[simp] theorem State.count_disc (s : State) (set index num n : Nat) : (s.count set index num n).disc = s.disc := rfl
@[simp] theorem State.count_fuses (s : State) (set index num n : Nat) : (s.count set index num n).fuses = s.fuses := rfl
@[simp] theorem State.count_fusePass (s : State) (set index num n : Nat) : (s.count set index num n).fusePass = s.fusePass := rfl
@[simp] theorem State.count_fw (s : State) (set index num n : Nat) : (s.count set index num n).fw = s.fw := rfl
@[simp] theorem State.count_loan (s : State) (set index num n : Nat) : (s.count set index num n).loan = s.loan := rfl
@[simp] theorem State.count_entropy (s : State) (set index num n : Nat) : (s.count set index num n).entropy = s.entropy := rfl
@[simp] theorem State.count_keyPresent (s : State) (set index num n : Nat) : (s.count set index num n).keyPresent = s.keyPresent := rfl
@[simp] theorem State.count_keyFenced (s : State) (set index num n : Nat) : (s.count set index num n).keyFenced = s.keyFenced := rfl
@[simp] theorem State.count_log (s : State) (set index num n : Nat) : (s.count set index num n).log = s.log := rfl
@[simp] theorem State.count_formula (s : State) (set index num n : Nat) : (s.count set index num n).formula = s.formula := rfl
@[simp] theorem State.count_bounds (s : State) (set index num n : Nat) : (s.count set index num n).bounds = s.bounds := rfl
@[simp] theorem State.count_waits (s : State) (set index num n : Nat) : (s.count set index num n).waits = s.waits := rfl
@[simp] theorem State.count_latest (s : State) (set index num n : Nat) : (s.count set index num n).latest = s.latest := rfl
@[simp] theorem State.count_admitTime (s : State) (set index num n : Nat) : (s.count set index num n).admitTime = s.admitTime := rfl
@[simp] theorem State.count_anchorBlocked (s : State) (set index num n : Nat) : (s.count set index num n).anchorBlocked = s.anchorBlocked := rfl
@[simp] theorem State.count_run (s : State) (set index num n : Nat) : (s.count set index num n).run = s.run := rfl
@[simp] theorem State.count_cursors (s : State) (set index num n : Nat) : (s.count set index num n).cursors = s.cursors := rfl
@[simp] theorem State.count_digestSel (s : State) (set index num n : Nat) : (s.count set index num n).digestSel = s.digestSel := rfl
@[simp] theorem State.count_captureSel (s : State) (set index num n : Nat) : (s.count set index num n).captureSel = s.captureSel := rfl
@[simp] theorem State.count_shards (s : State) (set index num n : Nat) : (s.count set index num n).shards = s.shards := rfl
@[simp] theorem State.count_wins (s : State) (set index num n : Nat) : (s.count set index num n).wins = s.wins := rfl
@[simp] theorem State.count_envs (s : State) (set index num n : Nat) : (s.count set index num n).envs = s.envs := rfl
@[simp] theorem State.count_pagesFenced (s : State) (set index num n : Nat) : (s.count set index num n).pagesFenced = s.pagesFenced := rfl
@[simp] theorem State.count_stills (s : State) (set index num n : Nat) : (s.count set index num n).stills = s.stills := rfl
@[simp] theorem State.count_scales (s : State) (set index num n : Nat) : (s.count set index num n).scales = s.scales := rfl
@[simp] theorem State.count_atm (s : State) (set index num n : Nat) : (s.count set index num n).atm = s.atm := rfl
@[simp] theorem State.count_atmResults (s : State) (set index num n : Nat) : (s.count set index num n).atmResults = s.atmResults := rfl
@[simp] theorem State.count_fabric (s : State) (set index num n : Nat) : (s.count set index num n).fabric = s.fabric := rfl
@[simp] theorem State.count_emission (s : State) (set index num n : Nat) : (s.count set index num n).emission = s.emission := rfl
@[simp] theorem State.count_near (s : State) (set index num n : Nat) : (s.count set index num n).near = s.near := rfl
@[simp] theorem State.count_restored (s : State) (set index num n : Nat) : (s.count set index num n).restored = s.restored := rfl
@[simp] theorem State.count_blotter (s : State) (set index num n : Nat) : (s.count set index num n).blotter = s.blotter := rfl
@[simp] theorem State.count_outPages (s : State) (set index num n : Nat) : (s.count set index num n).outPages = s.outPages := rfl

/-! ### setCounter -/

@[simp] theorem State.setCounter_cfg (s : State) (set index num v : Nat) : (s.setCounter set index num v).cfg = s.cfg := rfl
@[simp] theorem State.setCounter_pending (s : State) (set index num v : Nat) : (s.setCounter set index num v).pending = s.pending := rfl
@[simp] theorem State.setCounter_free (s : State) (set index num v : Nat) : (s.setCounter set index num v).free = s.free := rfl
@[simp] theorem State.setCounter_time (s : State) (set index num v : Nat) : (s.setCounter set index num v).time = s.time := rfl
@[simp] theorem State.setCounter_porst (s : State) (set index num v : Nat) : (s.setCounter set index num v).porst = s.porst := rfl
@[simp] theorem State.setCounter_wrst (s : State) (set index num v : Nat) : (s.setCounter set index num v).wrst = s.wrst := rfl
@[simp] theorem State.setCounter_wir (s : State) (set index num v : Nat) : (s.setCounter set index num v).wir = s.wir := rfl
@[simp] theorem State.setCounter_fall (s : State) (set index num v : Nat) : (s.setCounter set index num v).fall = s.fall := rfl
@[simp] theorem State.setCounter_testPending (s : State) (set index num v : Nat) : (s.setCounter set index num v).testPending = s.testPending := rfl
@[simp] theorem State.setCounter_smp (s : State) (set index num v : Nat) : (s.setCounter set index num v).smp = s.smp := rfl
@[simp] theorem State.setCounter_ops (s : State) (set index num v : Nat) : (s.setCounter set index num v).ops = s.ops := rfl
@[simp] theorem State.setCounter_retained (s : State) (set index num v : Nat) : (s.setCounter set index num v).retained = s.retained := rfl
@[simp] theorem State.setCounter_nextHandle (s : State) (set index num v : Nat) : (s.setCounter set index num v).nextHandle = s.nextHandle := rfl
@[simp] theorem State.setCounter_doms (s : State) (set index num v : Nat) : (s.setCounter set index num v).doms = s.doms := rfl
@[simp] theorem State.setCounter_clocks (s : State) (set index num v : Nat) : (s.setCounter set index num v).clocks = s.clocks := rfl
@[simp] theorem State.setCounter_chans (s : State) (set index num v : Nat) : (s.setCounter set index num v).chans = s.chans := rfl
@[simp] theorem State.setCounter_out (s : State) (set index num v : Nat) : (s.setCounter set index num v).out = s.out := rfl
@[simp] theorem State.setCounter_dram (s : State) (set index num v : Nat) : (s.setCounter set index num v).dram = s.dram := rfl
@[simp] theorem State.setCounter_poisonWords (s : State) (set index num v : Nat) : (s.setCounter set index num v).poisonWords = s.poisonWords := rfl
@[simp] theorem State.setCounter_disc (s : State) (set index num v : Nat) : (s.setCounter set index num v).disc = s.disc := rfl
@[simp] theorem State.setCounter_fuses (s : State) (set index num v : Nat) : (s.setCounter set index num v).fuses = s.fuses := rfl
@[simp] theorem State.setCounter_fusePass (s : State) (set index num v : Nat) : (s.setCounter set index num v).fusePass = s.fusePass := rfl
@[simp] theorem State.setCounter_fw (s : State) (set index num v : Nat) : (s.setCounter set index num v).fw = s.fw := rfl
@[simp] theorem State.setCounter_loan (s : State) (set index num v : Nat) : (s.setCounter set index num v).loan = s.loan := rfl
@[simp] theorem State.setCounter_entropy (s : State) (set index num v : Nat) : (s.setCounter set index num v).entropy = s.entropy := rfl
@[simp] theorem State.setCounter_keyPresent (s : State) (set index num v : Nat) : (s.setCounter set index num v).keyPresent = s.keyPresent := rfl
@[simp] theorem State.setCounter_keyFenced (s : State) (set index num v : Nat) : (s.setCounter set index num v).keyFenced = s.keyFenced := rfl
@[simp] theorem State.setCounter_log (s : State) (set index num v : Nat) : (s.setCounter set index num v).log = s.log := rfl
@[simp] theorem State.setCounter_formula (s : State) (set index num v : Nat) : (s.setCounter set index num v).formula = s.formula := rfl
@[simp] theorem State.setCounter_bounds (s : State) (set index num v : Nat) : (s.setCounter set index num v).bounds = s.bounds := rfl
@[simp] theorem State.setCounter_waits (s : State) (set index num v : Nat) : (s.setCounter set index num v).waits = s.waits := rfl
@[simp] theorem State.setCounter_latest (s : State) (set index num v : Nat) : (s.setCounter set index num v).latest = s.latest := rfl
@[simp] theorem State.setCounter_admitTime (s : State) (set index num v : Nat) : (s.setCounter set index num v).admitTime = s.admitTime := rfl
@[simp] theorem State.setCounter_anchorBlocked (s : State) (set index num v : Nat) : (s.setCounter set index num v).anchorBlocked = s.anchorBlocked := rfl
@[simp] theorem State.setCounter_run (s : State) (set index num v : Nat) : (s.setCounter set index num v).run = s.run := rfl
@[simp] theorem State.setCounter_cursors (s : State) (set index num v : Nat) : (s.setCounter set index num v).cursors = s.cursors := rfl
@[simp] theorem State.setCounter_digestSel (s : State) (set index num v : Nat) : (s.setCounter set index num v).digestSel = s.digestSel := rfl
@[simp] theorem State.setCounter_captureSel (s : State) (set index num v : Nat) : (s.setCounter set index num v).captureSel = s.captureSel := rfl
@[simp] theorem State.setCounter_shards (s : State) (set index num v : Nat) : (s.setCounter set index num v).shards = s.shards := rfl
@[simp] theorem State.setCounter_wins (s : State) (set index num v : Nat) : (s.setCounter set index num v).wins = s.wins := rfl
@[simp] theorem State.setCounter_envs (s : State) (set index num v : Nat) : (s.setCounter set index num v).envs = s.envs := rfl
@[simp] theorem State.setCounter_pagesFenced (s : State) (set index num v : Nat) : (s.setCounter set index num v).pagesFenced = s.pagesFenced := rfl
@[simp] theorem State.setCounter_stills (s : State) (set index num v : Nat) : (s.setCounter set index num v).stills = s.stills := rfl
@[simp] theorem State.setCounter_scales (s : State) (set index num v : Nat) : (s.setCounter set index num v).scales = s.scales := rfl
@[simp] theorem State.setCounter_atm (s : State) (set index num v : Nat) : (s.setCounter set index num v).atm = s.atm := rfl
@[simp] theorem State.setCounter_atmResults (s : State) (set index num v : Nat) : (s.setCounter set index num v).atmResults = s.atmResults := rfl
@[simp] theorem State.setCounter_fabric (s : State) (set index num v : Nat) : (s.setCounter set index num v).fabric = s.fabric := rfl
@[simp] theorem State.setCounter_emission (s : State) (set index num v : Nat) : (s.setCounter set index num v).emission = s.emission := rfl
@[simp] theorem State.setCounter_near (s : State) (set index num v : Nat) : (s.setCounter set index num v).near = s.near := rfl
@[simp] theorem State.setCounter_restored (s : State) (set index num v : Nat) : (s.setCounter set index num v).restored = s.restored := rfl
@[simp] theorem State.setCounter_blotter (s : State) (set index num v : Nat) : (s.setCounter set index num v).blotter = s.blotter := rfl
@[simp] theorem State.setCounter_outPages (s : State) (set index num v : Nat) : (s.setCounter set index num v).outPages = s.outPages := rfl

/-! ### keep -/

@[simp] theorem State.keep_cfg (s : State) (m : Nat) (w : BitVec 512) : (s.keep m w).cfg = s.cfg := rfl
@[simp] theorem State.keep_pending (s : State) (m : Nat) (w : BitVec 512) : (s.keep m w).pending = s.pending := rfl
@[simp] theorem State.keep_free (s : State) (m : Nat) (w : BitVec 512) : (s.keep m w).free = s.free := rfl
@[simp] theorem State.keep_time (s : State) (m : Nat) (w : BitVec 512) : (s.keep m w).time = s.time := rfl
@[simp] theorem State.keep_porst (s : State) (m : Nat) (w : BitVec 512) : (s.keep m w).porst = s.porst := rfl
@[simp] theorem State.keep_wrst (s : State) (m : Nat) (w : BitVec 512) : (s.keep m w).wrst = s.wrst := rfl
@[simp] theorem State.keep_wir (s : State) (m : Nat) (w : BitVec 512) : (s.keep m w).wir = s.wir := rfl
@[simp] theorem State.keep_fall (s : State) (m : Nat) (w : BitVec 512) : (s.keep m w).fall = s.fall := rfl
@[simp] theorem State.keep_testPending (s : State) (m : Nat) (w : BitVec 512) : (s.keep m w).testPending = s.testPending := rfl
@[simp] theorem State.keep_ops (s : State) (m : Nat) (w : BitVec 512) : (s.keep m w).ops = s.ops := rfl
@[simp] theorem State.keep_retained (s : State) (m : Nat) (w : BitVec 512) : (s.keep m w).retained = s.retained := rfl
@[simp] theorem State.keep_nextHandle (s : State) (m : Nat) (w : BitVec 512) : (s.keep m w).nextHandle = s.nextHandle := rfl
@[simp] theorem State.keep_doms (s : State) (m : Nat) (w : BitVec 512) : (s.keep m w).doms = s.doms := rfl
@[simp] theorem State.keep_clocks (s : State) (m : Nat) (w : BitVec 512) : (s.keep m w).clocks = s.clocks := rfl
@[simp] theorem State.keep_chans (s : State) (m : Nat) (w : BitVec 512) : (s.keep m w).chans = s.chans := rfl
@[simp] theorem State.keep_out (s : State) (m : Nat) (w : BitVec 512) : (s.keep m w).out = s.out := rfl
@[simp] theorem State.keep_dram (s : State) (m : Nat) (w : BitVec 512) : (s.keep m w).dram = s.dram := rfl
@[simp] theorem State.keep_poisonWords (s : State) (m : Nat) (w : BitVec 512) : (s.keep m w).poisonWords = s.poisonWords := rfl
@[simp] theorem State.keep_disc (s : State) (m : Nat) (w : BitVec 512) : (s.keep m w).disc = s.disc := rfl
@[simp] theorem State.keep_fuses (s : State) (m : Nat) (w : BitVec 512) : (s.keep m w).fuses = s.fuses := rfl
@[simp] theorem State.keep_fusePass (s : State) (m : Nat) (w : BitVec 512) : (s.keep m w).fusePass = s.fusePass := rfl
@[simp] theorem State.keep_fw (s : State) (m : Nat) (w : BitVec 512) : (s.keep m w).fw = s.fw := rfl
@[simp] theorem State.keep_loan (s : State) (m : Nat) (w : BitVec 512) : (s.keep m w).loan = s.loan := rfl
@[simp] theorem State.keep_entropy (s : State) (m : Nat) (w : BitVec 512) : (s.keep m w).entropy = s.entropy := rfl
@[simp] theorem State.keep_keyPresent (s : State) (m : Nat) (w : BitVec 512) : (s.keep m w).keyPresent = s.keyPresent := rfl
@[simp] theorem State.keep_keyFenced (s : State) (m : Nat) (w : BitVec 512) : (s.keep m w).keyFenced = s.keyFenced := rfl
@[simp] theorem State.keep_log (s : State) (m : Nat) (w : BitVec 512) : (s.keep m w).log = s.log := rfl
@[simp] theorem State.keep_counters (s : State) (m : Nat) (w : BitVec 512) : (s.keep m w).counters = s.counters := rfl
@[simp] theorem State.keep_formula (s : State) (m : Nat) (w : BitVec 512) : (s.keep m w).formula = s.formula := rfl
@[simp] theorem State.keep_bounds (s : State) (m : Nat) (w : BitVec 512) : (s.keep m w).bounds = s.bounds := rfl
@[simp] theorem State.keep_waits (s : State) (m : Nat) (w : BitVec 512) : (s.keep m w).waits = s.waits := rfl
@[simp] theorem State.keep_latest (s : State) (m : Nat) (w : BitVec 512) : (s.keep m w).latest = s.latest := rfl
@[simp] theorem State.keep_admitTime (s : State) (m : Nat) (w : BitVec 512) : (s.keep m w).admitTime = s.admitTime := rfl
@[simp] theorem State.keep_anchorBlocked (s : State) (m : Nat) (w : BitVec 512) : (s.keep m w).anchorBlocked = s.anchorBlocked := rfl
@[simp] theorem State.keep_run (s : State) (m : Nat) (w : BitVec 512) : (s.keep m w).run = s.run := rfl
@[simp] theorem State.keep_cursors (s : State) (m : Nat) (w : BitVec 512) : (s.keep m w).cursors = s.cursors := rfl
@[simp] theorem State.keep_digestSel (s : State) (m : Nat) (w : BitVec 512) : (s.keep m w).digestSel = s.digestSel := rfl
@[simp] theorem State.keep_captureSel (s : State) (m : Nat) (w : BitVec 512) : (s.keep m w).captureSel = s.captureSel := rfl
@[simp] theorem State.keep_shards (s : State) (m : Nat) (w : BitVec 512) : (s.keep m w).shards = s.shards := rfl
@[simp] theorem State.keep_wins (s : State) (m : Nat) (w : BitVec 512) : (s.keep m w).wins = s.wins := rfl
@[simp] theorem State.keep_envs (s : State) (m : Nat) (w : BitVec 512) : (s.keep m w).envs = s.envs := rfl
@[simp] theorem State.keep_pagesFenced (s : State) (m : Nat) (w : BitVec 512) : (s.keep m w).pagesFenced = s.pagesFenced := rfl
@[simp] theorem State.keep_stills (s : State) (m : Nat) (w : BitVec 512) : (s.keep m w).stills = s.stills := rfl
@[simp] theorem State.keep_scales (s : State) (m : Nat) (w : BitVec 512) : (s.keep m w).scales = s.scales := rfl
@[simp] theorem State.keep_atm (s : State) (m : Nat) (w : BitVec 512) : (s.keep m w).atm = s.atm := rfl
@[simp] theorem State.keep_atmResults (s : State) (m : Nat) (w : BitVec 512) : (s.keep m w).atmResults = s.atmResults := rfl
@[simp] theorem State.keep_fabric (s : State) (m : Nat) (w : BitVec 512) : (s.keep m w).fabric = s.fabric := rfl
@[simp] theorem State.keep_emission (s : State) (m : Nat) (w : BitVec 512) : (s.keep m w).emission = s.emission := rfl
@[simp] theorem State.keep_near (s : State) (m : Nat) (w : BitVec 512) : (s.keep m w).near = s.near := rfl
@[simp] theorem State.keep_restored (s : State) (m : Nat) (w : BitVec 512) : (s.keep m w).restored = s.restored := rfl
@[simp] theorem State.keep_blotter (s : State) (m : Nat) (w : BitVec 512) : (s.keep m w).blotter = s.blotter := rfl
@[simp] theorem State.keep_outPages (s : State) (m : Nat) (w : BitVec 512) : (s.keep m w).outPages = s.outPages := rfl

/-! ### deliver -/

@[simp] theorem State.deliver_cfg (s : State) (m : Nat) (w : BitVec 512) : (s.deliver m w).cfg = s.cfg := rfl
@[simp] theorem State.deliver_pending (s : State) (m : Nat) (w : BitVec 512) : (s.deliver m w).pending = s.pending := rfl
@[simp] theorem State.deliver_free (s : State) (m : Nat) (w : BitVec 512) : (s.deliver m w).free = s.free := rfl
@[simp] theorem State.deliver_time (s : State) (m : Nat) (w : BitVec 512) : (s.deliver m w).time = s.time := rfl
@[simp] theorem State.deliver_porst (s : State) (m : Nat) (w : BitVec 512) : (s.deliver m w).porst = s.porst := rfl
@[simp] theorem State.deliver_wrst (s : State) (m : Nat) (w : BitVec 512) : (s.deliver m w).wrst = s.wrst := rfl
@[simp] theorem State.deliver_wir (s : State) (m : Nat) (w : BitVec 512) : (s.deliver m w).wir = s.wir := rfl
@[simp] theorem State.deliver_fall (s : State) (m : Nat) (w : BitVec 512) : (s.deliver m w).fall = s.fall := rfl
@[simp] theorem State.deliver_testPending (s : State) (m : Nat) (w : BitVec 512) : (s.deliver m w).testPending = s.testPending := rfl
@[simp] theorem State.deliver_ops (s : State) (m : Nat) (w : BitVec 512) : (s.deliver m w).ops = s.ops := rfl
@[simp] theorem State.deliver_retained (s : State) (m : Nat) (w : BitVec 512) : (s.deliver m w).retained = s.retained := rfl
@[simp] theorem State.deliver_nextHandle (s : State) (m : Nat) (w : BitVec 512) : (s.deliver m w).nextHandle = s.nextHandle := rfl
@[simp] theorem State.deliver_doms (s : State) (m : Nat) (w : BitVec 512) : (s.deliver m w).doms = s.doms := rfl
@[simp] theorem State.deliver_clocks (s : State) (m : Nat) (w : BitVec 512) : (s.deliver m w).clocks = s.clocks := rfl
@[simp] theorem State.deliver_chans (s : State) (m : Nat) (w : BitVec 512) : (s.deliver m w).chans = s.chans := rfl
@[simp] theorem State.deliver_out (s : State) (m : Nat) (w : BitVec 512) : (s.deliver m w).out = s.out := rfl
@[simp] theorem State.deliver_dram (s : State) (m : Nat) (w : BitVec 512) : (s.deliver m w).dram = s.dram := rfl
@[simp] theorem State.deliver_poisonWords (s : State) (m : Nat) (w : BitVec 512) : (s.deliver m w).poisonWords = s.poisonWords := rfl
@[simp] theorem State.deliver_disc (s : State) (m : Nat) (w : BitVec 512) : (s.deliver m w).disc = s.disc := rfl
@[simp] theorem State.deliver_fuses (s : State) (m : Nat) (w : BitVec 512) : (s.deliver m w).fuses = s.fuses := rfl
@[simp] theorem State.deliver_fusePass (s : State) (m : Nat) (w : BitVec 512) : (s.deliver m w).fusePass = s.fusePass := rfl
@[simp] theorem State.deliver_fw (s : State) (m : Nat) (w : BitVec 512) : (s.deliver m w).fw = s.fw := rfl
@[simp] theorem State.deliver_loan (s : State) (m : Nat) (w : BitVec 512) : (s.deliver m w).loan = s.loan := rfl
@[simp] theorem State.deliver_entropy (s : State) (m : Nat) (w : BitVec 512) : (s.deliver m w).entropy = s.entropy := rfl
@[simp] theorem State.deliver_keyPresent (s : State) (m : Nat) (w : BitVec 512) : (s.deliver m w).keyPresent = s.keyPresent := rfl
@[simp] theorem State.deliver_keyFenced (s : State) (m : Nat) (w : BitVec 512) : (s.deliver m w).keyFenced = s.keyFenced := rfl
@[simp] theorem State.deliver_log (s : State) (m : Nat) (w : BitVec 512) : (s.deliver m w).log = s.log := rfl
@[simp] theorem State.deliver_counters (s : State) (m : Nat) (w : BitVec 512) : (s.deliver m w).counters = s.counters := rfl
@[simp] theorem State.deliver_formula (s : State) (m : Nat) (w : BitVec 512) : (s.deliver m w).formula = s.formula := rfl
@[simp] theorem State.deliver_bounds (s : State) (m : Nat) (w : BitVec 512) : (s.deliver m w).bounds = s.bounds := rfl
@[simp] theorem State.deliver_waits (s : State) (m : Nat) (w : BitVec 512) : (s.deliver m w).waits = s.waits := rfl
@[simp] theorem State.deliver_latest (s : State) (m : Nat) (w : BitVec 512) : (s.deliver m w).latest = s.latest := rfl
@[simp] theorem State.deliver_admitTime (s : State) (m : Nat) (w : BitVec 512) : (s.deliver m w).admitTime = s.admitTime := rfl
@[simp] theorem State.deliver_anchorBlocked (s : State) (m : Nat) (w : BitVec 512) : (s.deliver m w).anchorBlocked = s.anchorBlocked := rfl
@[simp] theorem State.deliver_run (s : State) (m : Nat) (w : BitVec 512) : (s.deliver m w).run = s.run := rfl
@[simp] theorem State.deliver_cursors (s : State) (m : Nat) (w : BitVec 512) : (s.deliver m w).cursors = s.cursors := rfl
@[simp] theorem State.deliver_digestSel (s : State) (m : Nat) (w : BitVec 512) : (s.deliver m w).digestSel = s.digestSel := rfl
@[simp] theorem State.deliver_captureSel (s : State) (m : Nat) (w : BitVec 512) : (s.deliver m w).captureSel = s.captureSel := rfl
@[simp] theorem State.deliver_shards (s : State) (m : Nat) (w : BitVec 512) : (s.deliver m w).shards = s.shards := rfl
@[simp] theorem State.deliver_wins (s : State) (m : Nat) (w : BitVec 512) : (s.deliver m w).wins = s.wins := rfl
@[simp] theorem State.deliver_envs (s : State) (m : Nat) (w : BitVec 512) : (s.deliver m w).envs = s.envs := rfl
@[simp] theorem State.deliver_pagesFenced (s : State) (m : Nat) (w : BitVec 512) : (s.deliver m w).pagesFenced = s.pagesFenced := rfl
@[simp] theorem State.deliver_stills (s : State) (m : Nat) (w : BitVec 512) : (s.deliver m w).stills = s.stills := rfl
@[simp] theorem State.deliver_scales (s : State) (m : Nat) (w : BitVec 512) : (s.deliver m w).scales = s.scales := rfl
@[simp] theorem State.deliver_atm (s : State) (m : Nat) (w : BitVec 512) : (s.deliver m w).atm = s.atm := rfl
@[simp] theorem State.deliver_atmResults (s : State) (m : Nat) (w : BitVec 512) : (s.deliver m w).atmResults = s.atmResults := rfl
@[simp] theorem State.deliver_fabric (s : State) (m : Nat) (w : BitVec 512) : (s.deliver m w).fabric = s.fabric := rfl
@[simp] theorem State.deliver_emission (s : State) (m : Nat) (w : BitVec 512) : (s.deliver m w).emission = s.emission := rfl
@[simp] theorem State.deliver_near (s : State) (m : Nat) (w : BitVec 512) : (s.deliver m w).near = s.near := rfl
@[simp] theorem State.deliver_restored (s : State) (m : Nat) (w : BitVec 512) : (s.deliver m w).restored = s.restored := rfl
@[simp] theorem State.deliver_blotter (s : State) (m : Nat) (w : BitVec 512) : (s.deliver m w).blotter = s.blotter := rfl
@[simp] theorem State.deliver_outPages (s : State) (m : Nat) (w : BitVec 512) : (s.deliver m w).outPages = s.outPages := rfl

/-! ### hold -/

@[simp] theorem State.hold_cfg (s t : State) : (s.hold t).cfg = s.cfg := rfl
@[simp] theorem State.hold_pending (s t : State) : (s.hold t).pending = s.pending := rfl
@[simp] theorem State.hold_free (s t : State) : (s.hold t).free = t.free := rfl
@[simp] theorem State.hold_time (s t : State) : (s.hold t).time = t.time := rfl
@[simp] theorem State.hold_porst (s t : State) : (s.hold t).porst = s.porst := rfl
@[simp] theorem State.hold_wrst (s t : State) : (s.hold t).wrst = t.wrst := rfl
@[simp] theorem State.hold_wir (s t : State) : (s.hold t).wir = t.wir := rfl
@[simp] theorem State.hold_fall (s t : State) : (s.hold t).fall = t.fall := rfl
@[simp] theorem State.hold_testPending (s t : State) : (s.hold t).testPending = t.testPending := rfl
@[simp] theorem State.hold_smp (s t : State) : (s.hold t).smp = t.smp := rfl
@[simp] theorem State.hold_ops (s t : State) : (s.hold t).ops = t.ops := rfl
@[simp] theorem State.hold_retained (s t : State) : (s.hold t).retained = t.retained := rfl
@[simp] theorem State.hold_nextHandle (s t : State) : (s.hold t).nextHandle = t.nextHandle := rfl
@[simp] theorem State.hold_doms (s t : State) : (s.hold t).doms = t.doms := rfl
@[simp] theorem State.hold_clocks (s t : State) : (s.hold t).clocks = t.clocks := rfl
@[simp] theorem State.hold_chans (s t : State) : (s.hold t).chans = t.chans := rfl
@[simp] theorem State.hold_out (s t : State) : (s.hold t).out = t.out := rfl
@[simp] theorem State.hold_dram (s t : State) : (s.hold t).dram = t.dram := rfl
@[simp] theorem State.hold_poisonWords (s t : State) : (s.hold t).poisonWords = t.poisonWords := rfl
@[simp] theorem State.hold_disc (s t : State) : (s.hold t).disc = t.disc := rfl
@[simp] theorem State.hold_fuses (s t : State) : (s.hold t).fuses = t.fuses := rfl
@[simp] theorem State.hold_fusePass (s t : State) : (s.hold t).fusePass = t.fusePass := rfl
@[simp] theorem State.hold_fw (s t : State) : (s.hold t).fw = t.fw := rfl
@[simp] theorem State.hold_loan (s t : State) : (s.hold t).loan = t.loan := rfl
@[simp] theorem State.hold_entropy (s t : State) : (s.hold t).entropy = t.entropy := rfl
@[simp] theorem State.hold_keyPresent (s t : State) : (s.hold t).keyPresent = t.keyPresent := rfl
@[simp] theorem State.hold_keyFenced (s t : State) : (s.hold t).keyFenced = t.keyFenced := rfl
@[simp] theorem State.hold_log (s t : State) : (s.hold t).log = t.log := rfl
@[simp] theorem State.hold_counters (s t : State) : (s.hold t).counters = t.counters := rfl
@[simp] theorem State.hold_formula (s t : State) : (s.hold t).formula = t.formula := rfl
@[simp] theorem State.hold_bounds (s t : State) : (s.hold t).bounds = t.bounds := rfl
@[simp] theorem State.hold_waits (s t : State) : (s.hold t).waits = t.waits := rfl
@[simp] theorem State.hold_latest (s t : State) : (s.hold t).latest = t.latest := rfl
@[simp] theorem State.hold_admitTime (s t : State) : (s.hold t).admitTime = t.admitTime := rfl
@[simp] theorem State.hold_anchorBlocked (s t : State) : (s.hold t).anchorBlocked = t.anchorBlocked := rfl
@[simp] theorem State.hold_run (s t : State) : (s.hold t).run = t.run := rfl
@[simp] theorem State.hold_cursors (s t : State) : (s.hold t).cursors = t.cursors := rfl
@[simp] theorem State.hold_digestSel (s t : State) : (s.hold t).digestSel = t.digestSel := rfl
@[simp] theorem State.hold_captureSel (s t : State) : (s.hold t).captureSel = t.captureSel := rfl
@[simp] theorem State.hold_shards (s t : State) : (s.hold t).shards = t.shards := rfl
@[simp] theorem State.hold_wins (s t : State) : (s.hold t).wins = t.wins := rfl
@[simp] theorem State.hold_envs (s t : State) : (s.hold t).envs = t.envs := rfl
@[simp] theorem State.hold_pagesFenced (s t : State) : (s.hold t).pagesFenced = t.pagesFenced := rfl
@[simp] theorem State.hold_stills (s t : State) : (s.hold t).stills = t.stills := rfl
@[simp] theorem State.hold_scales (s t : State) : (s.hold t).scales = t.scales := rfl
@[simp] theorem State.hold_atm (s t : State) : (s.hold t).atm = t.atm := rfl
@[simp] theorem State.hold_atmResults (s t : State) : (s.hold t).atmResults = t.atmResults := rfl
@[simp] theorem State.hold_fabric (s t : State) : (s.hold t).fabric = t.fabric := rfl
@[simp] theorem State.hold_emission (s t : State) : (s.hold t).emission = t.emission := rfl
@[simp] theorem State.hold_near (s t : State) : (s.hold t).near = t.near := rfl
@[simp] theorem State.hold_restored (s t : State) : (s.hold t).restored = t.restored := rfl
@[simp] theorem State.hold_blotter (s t : State) : (s.hold t).blotter = t.blotter := rfl
@[simp] theorem State.hold_outPages (s t : State) : (s.hold t).outPages = t.outPages := rfl

end Sys2Proof.Machine
end

