-- ==== Sys2Proof/Tests/Slice0.lean ====
section
/-! SUPPORT. Tests: the checks of WellFormed, single steps whose expected results come from the manual, and for each statement with
hypotheses a state and operands that meet them. -/

namespace Sys2Proof.Tests

set_option Elab.async false

open Sys2Proof Sys2Proof.Machine Sys2Proof.Bits Sys2Proof.Convert

/-! ### Small states -/

/-- An engine at S3 with every domain present, a committed image, and a session with token 5 on each mailbox. -/
def up : State := { State.reset with
  porst := false
  time := 200000000000000
  doms := Vector.replicate 13 { req := true, ack := true, present := true }
  smp := { level := 3, req := 3, stageMib := 64, mbx := Vector.replicate 4 { session := some 5 } }
  fw := { running := some 0, slots := Vector.replicate 2 { st := .active } }
  disc := { valid := true, rowbits := 15, rows := 32768, nPost := 8, aStack := true, isMatch := true, atmMask := 0xFFFFFFFF,
            atmCount := 64, pairs := 4, eccWord := 8, tRfcAb := 350, tRefi := 3900, rl := some 20, wl := some 10 }
  fabric := { assigned := true, tray := 0, chip := 0, members := [0, 1] }
  fuses := { read := true } }

/-- A request that is next in the sequence of those sessions. -/
def rq (p : Nat) : Req := { seq := 1, token := 5, par := BitVec.ofNat 448 p }

/-- A Formula with a contribution window at 2 MiB and an EGRESS window at 4 MiB of its aperture. -/
def form : Formula := {
  hdr := { aptBase := 2 ^ 30, aptSize := 2 ^ 27, stageMib := 64 }
  windows := [{ kind := 0, enable := true, issued := 16, base := 2 ^ 21, firstShard := 0, lastShard := 0, localRanks := 1 },
              { kind := 2, enable := true, issued := 16, base := 2 ^ 22, firstShard := 0, lastShard := 0, localRanks := 1 }] }

/-- The same engine with that Formula admitted. -/
def admitted : State := { up with formula := some form, wins := [{}, {}] }

/-- An engine whose channels all stand in PROC, their catch-up paid. -/
def inProc (s : State) : State := { s with chans := Vector.replicate 32 { mode := .proc } }

/-- The same engine without a Formula while the host lends its channels to the MC. -/
def lent : State := { inProc up with loan := { isOpen := true } }

/-- An engine with one live operation. -/
def withOp (s : State) (o : LongOp) : State := { s with ops := [o] }


/-- The packet that the peer of EA 1 on link 0 sends. -/
def peerPacket (type : Nat) (payload : List Byte) : Packet :=
  stampPacket (({ up with smp := { up.smp with pos := 1 } } : State).packet type 0 false payload) 0 [0, 0, 0]

/-- A command answers a next state that passes a check. -/
def answers (o : Host.Outcome State Fault Refusal) (p : State → Bool) : Bool :=
  match o with
  | .next t => p t
  | _ => false

/-! ### Witnesses: the step, reset, mailboxes -/

theorem wit_EmptyQueueIsATick : up.pending = [] ∧ up.porst = false ∧ State.reset.pending = [] ∧ State.reset.porst = true := by decide

theorem wit_CommandsKeepQueueAndConfiguration : ∃ t, exec .smTimeLoRead up = .next t := ⟨_, rfl⟩

theorem wit_StepKeepsUnitsInReset : HeldInReset State.reset ∧ ∃ t, step State.reset = .next t := ⟨fun _ => by decide +kernel, _, rfl⟩

theorem wit_PowerOnReset : up.testing = false ∧ up.porst = false ∧ State.reset.testing = false ∧ State.reset.porst = true ∧
    State.reset.dom 0 = {} := by
  and_intros <;> decide +kernel

theorem wit_MailboxWords : (0x0604 : Nat) < 2 ^ 16 ∧ (65535 : Nat) < 2 ^ 16 ∧ (Rsp.badField 63).status < 2 ^ 16 ∧
    (Rsp.badField 63).detail < 2 ^ 16 ∧ (Rsp.badField 63).body < 2 ^ 448 := by
  and_intros <;> decide +kernel

theorem wit_MailboxChecks : rowCmd (.recoveryLoad 3 (rq 0)) = some (cmdRecoveryLoad, 3, rq 0) ∧
    (let rom : State := { up with fw := { romMode := true } }
     rom.romRefuses 0x0506 = true ∧ up.romRefuses 0x0101 = false ∧ 2 ∉ cmdRunSetup.boxes ∧ 0 ∈ cmdAdmit.boxes ∧
     up.level < cmdAdmit.level + 2 ∧ State.reset.level < cmdAdmit.level ∧ cmdAdmit.level ≤ up.level) ∧
    reservedSet cmdSessionOpen.fields 2 = some 8 ∧ reservedSet cmdCursorSet.fields 1 = none ∧
    cmdCursorSet.bad { up with cursors := [(1, [])] } 1 = some 8 ∧ cmdCursorSet.bad up 1 = none ∧
    (cmdCursorSet.ptrs (BitVec.ofNat 448 (2 ^ 64))).any (fun p => !up.pointerOk p.1 p.2) = true ∧
    (cmdCursorSet.ptrs 0).any (fun p => !up.pointerOk p.1 p.2) = false :=
  ⟨rfl, by and_intros <;> decide +kernel⟩

theorem wit_Doorbells : rowCmd (.keepalive 3 (rq 0)) = some (cmdKeepalive, 3, rq 0) ∧
    (Awake { up with smp := {} } ∧ ({ up with smp := {} } : State).level = 0) ∧ (Awake up ∧ 1 ≤ up.level) ∧
    ((up.modMbx 3 (fun b => { b with busy := true })).mbx 3).busy = true ∧
    (let held := up.modFw (fun w => { w with handover := .held 1 })
     Awake held ∧ (held.mbx 3).busy = false ∧ held.holding = true) ∧
    (up.modFw (fun w => { w with commit := some { bits := [(1, 31)], mbx := 0, since := 0 } })).fw.commit.isSome = true ∧
    Staged cmdCursorSet up 0 (rq (res 8 6 1)) ∧ Staged cmdErrlogRead admitted 2 (rq 0) := ⟨rfl, by and_intros <;> decide +kernel⟩

theorem wit_ReplaysAndRefusals : Rings up 0 ∧ up.fw.romMode = false ∧ (up.mbx 0).session = some 5 ∧ (up.mbx 0).last = 0 ∧
    ((2 - (up.mbx 0).last).toNat = 2 ∧ (0xFFFF - (up.mbx 0).last).toNat = 65535) ∧
    InSequence up 0 (rq (2 ^ 400)) ∧ cmdKeepalive.judge up 0 (rq (2 ^ 400)).par false = some (Rsp.badField 58) ∧
    (let rom : State := up.modFw (fun w => { w with romMode := true, running := none })
     Rings rom 0 ∧ rom.fw.romMode = true ∧ cmdKeepalive.code ≠ 1 ∧ cmdKeepalive.code ≠ 5 ∧ (rom.mbx 0).session = some (rq 0).token ∧
     ((rq 0).seq - (rom.mbx 0).last).toNat = 1 ∧ (2 - (rom.mbx 0).last).toNat ≠ 1) := by
  and_intros <;> decide +kernel

theorem wit_Sessions : Accepted cmdKeepalive up 0 (rq 0) ∧ Accepted cmdSessionClose up 3 (rq 0) ∧
    (Rings up 0 ∧ (up.mbx 0).session.isSome = true ∧ cmdSessionOpen.judge up 0 (rq 0).par false = none ∧
     cmdSessionOpen.judge up 0 (rq 1).par false = none ∧ bit (par (rq 0).par 8 1) 0 = false ∧ bit (par (rq 1).par 8 1) 0 = true) ∧
    (let shut := up.modMbx 0 (fun b => { b with session := none })
     Rings shut 0 ∧ (shut.mbx 0).session.isSome = false) ∧
    (up.present 0 = true ∧ (up.mbx 0).timer + 1000000000 ≤ up.time ∧ (up.mbx 0).busy = false) ∧
    (let late := up.modMbx 0 (fun b => { b with timer := up.time - 999999999 })
     Awake late ∧ late.time < (late.mbx 0).timer + 1000000000) ∧
    up.relayWaits = false ∧
    (up.modFabric (fun f => { f with held := [{ pkt := peerPacket 0x0A (leBytes 80 (5 * 2 ^ 160)), via := .link 0, since := 0 }] })).relayWaits = true := by
  and_intros <;> decide +kernel

theorem wit_IdentifyAndRunStatus : Accepted cmdIdentify up 2 (rq 0) ∧ Accepted cmdRunStatus up 3 (rq 0) ∧ Rings up 1 ∧
    cmdIdentify.judge up 1 0 false = none ∧ cmdRunStatus.judge up 1 0 false = none := by
  and_intros <;> decide +kernel

/-! ### Witnesses: run commands -/

theorem wit_RunSetupSeedCursorsSelections : Accepted cmdRunSetup up 0 (rq (res 8 16 (2 ^ 128 - 1))) ∧ up.formula = none ∧
    Accepted cmdRunSetup admitted 0 (rq 0) ∧ admitted.formula.isSome = true ∧
    Accepted cmdFreshSeed up 0 (rq 0) ∧ up.present 3 = true ∧ up.entropy.fenced = false ∧ up.entropy.ready = false ∧
    (let s : State := { up with entropy := { ready := true } }
     Accepted cmdFreshSeed s 0 (rq 0) ∧ s.present 3 = true ∧ s.entropy.ready = true) ∧
    (let s : State := { up with entropy := { fenced := true } }
     Accepted cmdFreshSeed s 0 (rq 0) ∧ s.entropy.fenced = true) ∧
    (let s := up.modDom 3 (fun _ => {})
     Accepted cmdFreshSeed s 0 (rq 0) ∧ s.present 3 = false) ∧
    Accepted cmdCursorSet lent 0 (rq (res 8 6 1)) ∧ Accepted cmdDigestSelect up 0 (rq 0) ∧ Accepted cmdGradCapture up 0 (rq (res 24 4 1)) := by
  and_intros <;> decide +kernel

theorem wit_RunAndEvalCommands :
    (let s := admitted.modRun (fun r => { r with nextStep := 1 })
     Accepted cmdStepBegin s 0 (rq (res 8 6 1)) ∧ par (rq (res 8 6 1)).par 8 6 = s.run.nextStep ∧
     Accepted cmdStepBegin s 0 (rq (res 8 6 2)) ∧ par (rq (res 8 6 2)).par 8 6 ≠ s.run.nextStep ∧ s.run.anchored = false ∧
     Accepted cmdRunStop s 1 (rq 0) ∧ Accepted cmdEvalOpen s 0 (rq 1) ∧ s.run.eval = .closed) ∧
    (let s := admitted.modRun (fun r => { r with eval := .opened })
     Accepted cmdEvalOpen s 0 (rq 0) ∧ s.run.eval ≠ .closed ∧ Accepted cmdEvalClose s 0 (rq 0) ∧ s.run.eval = .opened ∧
     ¬ ∀ ch, ch < channels s.cfg → (s.chan ch).fenced = true ∨ ((s.chan ch).mode = .proc ∧ (s.chan ch).catchup = 0)) ∧
    (let s : State := { admitted.modRun (fun r => { r with eval := .opened }) with chans := Vector.replicate 32 { fenced := true } }
     Accepted cmdEvalClose s 0 (rq 0) ∧ s.run.eval = .opened ∧ ∀ ch, ch < channels s.cfg → (s.chan ch).fenced = true) ∧
    (let s := admitted.modRun (fun r => { r with eval := .decanting })
     Accepted cmdEvalClose s 0 (rq 0) ∧ s.run.eval = .decanting) := by
  and_intros <;> decide +kernel

theorem wit_MembershipRoutesTopology :
    (let s : State := lent.writeDram 0 [0, 0, 0, 0, 0x40, 0, 0, 0x02, 0, 0, 0, 0, 0, 0, 0, 0]
     let q := rq (res 16 1 0)
     let es := (s.dramWords (par q.par 8 8) 8 (par q.par 16 1)).map (BitVec.ofNat 64)
     Accepted cmdRouteSet s 1 q ∧ es = [] ∧ firstRouteFault s.cfg es 0 = none) ∧
    (let s : State := lent.writeDram 0 [1, 0, 0, 0x02]
     let q := rq (res 16 1 1)
     let es := (s.dramWords (par q.par 8 8) 8 (par q.par 16 1)).map (BitVec.ofNat 64)
     Accepted cmdRouteSet s 1 q ∧ es.any (fun e => decide (routeFld e 28 4 ≠ 0) || decide (routeFld e 52 12 ≠ 0)) = false ∧
     firstRouteFault s.cfg es 0 = some (0, 2)) ∧
    Accepted cmdTopology up 2 (rq 0) ∧ (Accepted cmdTopology up 1 (rq (res 8 1 2)) ∧ (up.link 1).topo = none ∧ 2 ≤ links up.cfg) ∧
    (let s := up.modLink 1 (fun l => { l with topo := some (List.replicate 32 0) })
     Accepted cmdTopology s 1 (rq (res 8 1 2)) ∧ (s.link 1).topo = some (List.replicate 32 0)) ∧
    (let q := rq (res 8 4 1 + res 16 4 1)
     let eas := lent.dramWords (par q.par 24 8) 4 (par q.par 16 4)
     Accepted cmdMembership lent 1 q ∧ eas = [0] ∧ lent.epochFault 1 0 0 eas = 0 ∧ lent.fabric.held = []) ∧
    (let q := rq (res 8 4 0 + res 16 4 1)
     Accepted cmdMembership lent 1 q ∧ par q.par 8 4 ≤ lent.fabric.epoch ∧ lent.epochFault 0 0 0 [0] = 1) := by
  and_intros <;> decide +kernel

/-! ### Witnesses: long operations -/

theorem wit_HandlesAndLimits : ([65535, 1] : List Nat).length ≤ 24 ∧ 65535 < 2 ^ 16 ∧
    (let o := fun (code : Nat) => ({ handle := 1, code := code, st := .running } : LongOp)
     let one := fun (code : Nat) => ({ up with ops := [o code] } : State)
     let full : State := { up with ops := List.replicate 8 (o cAdmit) }
     let dump := rq (res 24 4 4096)
     let scrub := rq (res 8 4 (2 ^ 32 - 1))
     (Accepted cmdBlotterDump (one cBlotterDump) 0 dump ∧
      (one cBlotterDump).opConflict { handle := 0, code := cBlotterDump, st := .running, par := dump.par.toNat } = true) ∧
     (Accepted cmdBlotterDump full 0 dump ∧ 8 ≤ full.ops.length ∧
      full.opConflict { handle := 0, code := cBlotterDump, st := .running, par := dump.par.toNat } = false) ∧
     (Accepted cmdScrubPass (one cScrubPass) 2 scrub ∧
      (one cScrubPass).opConflict { handle := 0, code := cScrubPass, st := .running, par := scrub.par.toNat } = true) ∧
     (Accepted cmdScrubPass full 2 scrub ∧
      full.opConflict { handle := 0, code := cScrubPass, st := .running, par := scrub.par.toNat } = false)) := by
  and_intros <;> decide +kernel

theorem wit_LongOperationsStart :
    (let q := rq (res 16 4 4096 + res 24 8 8192 + res 32 4 4096)
     Accepted cmdAdmit up 0 q ∧ CanStart up cAdmit q ∧ up.mayAdmit (bit (par q.par 20 1) 0) = true ∧
     admissionMap up.cfg up.stills ≠ none) ∧
    (let q := rq (res 8 4 1 + res 12 1 1)
     Accepted cmdRestore admitted 1 q ∧ CanStart admitted cRestore q ∧ admitted.formula.isSome = true) ∧
    (let s : State := { admitted with near := { ward := 3, gen := 7, done := true } }
     let q := rq (res 8 4 3 + res 12 4 7)
     Accepted cmdAdopt s 1 q ∧ CanStart s cAdopt q ∧ s.form.hdr.epoch = s.fabric.epoch) ∧
    (Accepted cmdDecantFull admitted 0 (rq (res 12 4 0xFFFFFFFF)) ∧ CanStart admitted cDecantFull (rq (res 12 4 0xFFFFFFFF))) ∧
    (Accepted cmdSelfTest up 2 (rq (res 8 4 0x7FF)) ∧ CanStart up cSelfTest (rq (res 8 4 0x7FF)) ∧ up.formula = none) ∧
    (let q := rq (res 8 8 0 + res 16 8 8192)
     Accepted cmdInitRegion up 0 q ∧ CanStart up cInitRegion q ∧ up.rangeInUse (par q.par 8 8) (par q.par 16 8) = false) ∧
    (Accepted cmdBlotterDump up 0 (rq (res 24 4 64)) ∧ CanStart up cBlotterDump (rq (res 24 4 64))) ∧
    (Accepted cmdScrubPass up 0 (rq (res 8 4 1)) ∧ CanStart up cScrubPass (rq (res 8 4 1))) ∧
    (let q := rq (res 16 4 8192)
     Accepted cmdFwLoad up 0 q ∧ CanStart up cFwLoad q ∧ up.handingOver = false ∧ up.slotRefused = false) ∧
    (let q := rq (res 16 4 8192 + res 20 1 1)
     Accepted cmdFwLoad up 0 q ∧ CanStart up cFwLoad q ∧ up.fuses.locked 5 = false) ∧
    (let s : State := { up with fw := { romMode := true } }
     let q := rq (res 16 4 8192)
     Accepted cmdRecoveryLoad s 3 q ∧ CanStart s cRecoveryLoad q ∧ (s.codeSlot s.recoverySlot).fenced = false) ∧
    (let s := admitted.modRun (fun r => { r with eval := .opened })
     Accepted cmdFlaconWrite s 0 (rq 0) ∧ CanStart s cFlaconWrite (rq 0) ∧ s.emission = none ∧ s.run.gen < 2 ^ 32 - 1) ∧
    (Accepted cmdFlaconWrite admitted 1 (rq 0) ∧ CanStart admitted cFlaconWrite (rq 0) ∧ admitted.run.eval ≠ .opened) := by
  and_intros <;> decide +kernel

theorem wit_LongOperationControl :
    (let at' := fun (o : LongOp) => ({ up with ops := [o] } : State)
     let o : LongOp := { handle := 65535, code := cInitRegion, st := .running, total := 2 ^ 20 + 4096, done := 4096 }
     let q := rq (res 8 2 65535)
     let withSt := fun (st : OpSt) => ({ o with st := st } : LongOp)
     (Accepted cmdOpStatus (at' o) 2 q ∧ (at' o).anyOp 65535 = some o) ∧ (Accepted cmdOpStatus up 2 q ∧ up.anyOp 65535 = none) ∧
     (Accepted cmdOpSuspend up 0 q ∧ up.anyOp 65535 = none) ∧ (Accepted cmdOpSuspend (at' o) 0 q ∧ (at' o).findOp 65535 = some o) ∧
     actsOn 0 o = true ∧ Accepted cmdOpSuspend (at' (withSt .waiting)) 0 q ∧ Accepted cmdOpSuspend (at' (withSt .waitInput)) 0 q ∧
     Accepted cmdOpResume (at' (withSt .suspended)) 1 q ∧ Accepted cmdOpCancel (at' (withSt .suspended)) 1 q ∧ o.pastCancel = false ∧
     Accepted cmdOpCancel (at' { o with code := cAdmit, done := o.total }) 1 q ∧
     ({ o with code := cAdmit, done := o.total } : LongOp).pastCancel = true) ∧
    (let o : LongOp := { handle := 65535, code := cInitRegion, st := .running, total := 2 ^ 20 + 4096, done := 4096 }
     let r : Reservation := { kind := 4, chmask := 1, start := 0, length := 0, budget := 0 }
     let open' : State := { admitted with formula := some { form with reservations := [r] }, run := { anchored := true } }
     o.done ≤ o.total ∧ o.total ≤ o.done + 2 ^ 20 ∧ open'.longopOpen o = true ∧ open'.longopOpen { o with code := cScrubPass, par := res 8 4 2 } = false ∧
     inReservation o.code = true ∧ admitted.longopOpen o = false ∧ admitted.formula.isSome = true ∧
     ({ admitted with ops := [o] } : State).findOp (65535 : BitVec 16).toNat = some o ∧
     ({ open' with ops := [{ o with st := .waiting }] } : State).findOp (65535 : BitVec 16).toNat = some { o with st := .waiting }) := by
  and_intros <;> decide +kernel

/-- An image of a design without shards: its header alone. -/
def image (kind : Nat) : List Byte :=
  let h := admitted.imageHeader kind { gen := 1, step := 7, skipped := false, u := 7, l := 0, good := 0 } 0
  sealMeta 0 (patch (patch h 176 (leBytes 8 256)) 184 (leBytes 8 256)) []

/-- The cells of bytes that stand from address 0. -/
def cells (bs : List Byte) : List Host.Cell := (bs.zipIdx.filter (fun p => decide (p.1 ≠ 0))).map (fun p => (p.2, p.1))

theorem wit_RestoresAndCopies :
    (let o : LongOp := { handle := 9, code := cRestore, st := .waitInput, par := res 12 1 1 }
     let s : State := { withOp (inProc admitted) o with dram := cells (image 0) }
     (let q := rq (res 8 2 9 + res 32 4 256)
      Accepted cmdRestorePiece s 0 q ∧ s.anyOp (par q.par 8 2) = some o ∧ par q.par 16 8 = o.input.length ∧
      inputLen (s.dramBytes 0 256) = 256) ∧
     (let q := rq (res 8 2 9 + res 32 4 255)
      Accepted cmdRestorePiece s 0 q ∧ inputLen (s.dramBytes 0 255) = 0) ∧
     (let q := rq (res 8 2 9 + res 32 4 320)
      Accepted cmdRestorePiece s 0 q ∧ inputLen (s.dramBytes 0 320) = 256) ∧
     (let q := rq (res 8 2 9 + res 16 8 1 + res 32 4 256)
      Accepted cmdRestorePiece s 0 q ∧ par q.par 16 8 ≠ o.input.length)) ∧
    (let o : LongOp := { handle := 9, code := cRestore, st := .running, par := res 8 4 1 + res 12 1 1, input := image 0, total := 256 }
     (withOp admitted o).findOp (9 : BitVec 16).toNat = some o ∧ admitted.formula.isSome = true ∧ o.p 12 1 = 1 ∧
     admitted.acceptImage (image 0) (o.p 8 4) admitted.ea 0 (o.p 16 16) (admitted.farStripes (image 0)) = 0 ∧
     admitted.acceptImage (image 0) 2 admitted.ea 0 (o.p 16 16) (admitted.farStripes (image 0)) = stMismatch ∧
     (let near : LongOp := { o with par := res 8 4 1 }
      near.p 12 1 = 0 ∧ near.committedPoint = false ∧ (withOp admitted near).findOp (9 : BitVec 16).toNat = some near) ∧
     (let near : LongOp := { o with par := res 8 4 1, committedPoint := true, near := [(8, 0, image 1)] }
      let m := nearInput near.near
      near.p 12 1 ≠ 1 ∧ near.committedPoint = true ∧ admitted.acceptImage m (near.p 8 4) admitted.ea 1 (near.p 16 16)
        (admitted.nearStripes near.near ((dirEntries m (leVal (m.take 256))).map dShard)) = 0)) ∧
    (let o : LongOp := { handle := 9, code := cAdopt, st := .running }
     (withOp admitted o).findOp (9 : BitVec 16).toNat = some o ∧
     admitted.acceptImage admitted.nearMetadata (o.p 12 4) (o.p 8 4) 1 0 admitted.planeStripes ≠ 0) ∧
    (let o : LongOp := { handle := 9, code := cAdopt, st := .running, par := res 12 4 1 }
     let m := image 1
     let s : State := { withOp admitted o with dram := cells m }
     s.findOp (9 : BitVec 16).toNat = some o ∧ s.acceptImage m (o.p 12 4) (o.p 8 4) 1 0 s.planeStripes = 0) := by
  and_intros <;> first | decide +kernel | rfl

theorem wit_LongOperationsEnd :
    (let ready := fun (s : State) (o : LongOp) => ((withOp s o).findOp (65535 : BitVec 16).toNat = some o ∧ o.st = .running ∧
       o.cancelling = false ∧ (withOp s o).opReady o = true)
     let write : LongOp := { handle := 65535, code := cFlaconWrite, st := .running, result := 1 }
     let lets : State := { admitted with formula := some { form with reservations := [{ kind := 4, chmask := 0xFFFFFFFF, start := 0, length := 0, budget := 0 }] } }
     ready (inProc up) { handle := 65535, code := cInitRegion, st := .running, par := res 16 8 8192 } ∧ Memory.wf up.dram ∧
     ready lets { handle := 65535, code := cInitRegion, st := .running, par := res 16 8 8192 } ∧ lets.formula.isSome = true ∧
     ready admitted write ∧ (∀ p ∈ admitted.outPages, ¬ (p.kind = 1 ∧ p.gen = write.result)) ∧
     (∃ p ∈ ({ admitted with outPages := [{ kind := 1, gen := 1, step := 0, off := 0, shard := 0, payload := [] }] } : State).outPages, p.kind = 1 ∧ p.gen = write.result) ∧
     ready (inProc up) { handle := 65535, code := cBlotterDump, st := .running } ∧
     ready up { handle := 65535, code := cSelfTest, st := .running, par := res 8 4 0x600 } ∧
     ready (inProc up) { handle := 65535, code := cScrubPass, st := .running, par := res 8 4 (2 ^ 32 - 1) }) := by
  and_intros <;> decide +kernel

/-! ### Witnesses: containment and firmware commands -/

theorem wit_FenceClear :
    (Accepted cmdFenceClear up 0 (rq (res 8 2 1)) ∧ up.unitFenced 1 0 = false) ∧
    (let q := rq (res 8 2 2 + res 10 2 31)
     let s := admitted.modChan 31 (fun c => { c with fenced := true })
     Accepted cmdFenceClear s 0 q ∧ s.unitFenced 2 31 = true ∧ s.clearable 2 31 = false) ∧
    (let f := fun (s : State) (unit idx : Nat) => (Accepted cmdFenceClear s 1 (rq (res 8 2 unit + res 10 2 idx)) ∧ s.unitFenced unit idx = true ∧
       s.clearable unit idx = true)
     f (up.modStills (fun t => { t with fenced := [8] })) 1 8 ∧
     f (up.modChan 31 (fun c => { c with fenced := true })) 2 31 ∧
     f (up.modAtm 31 (fun a => { a with fenced := [(1, 31)] })) 3 2047 ∧
     f (up.modLink 1 (fun l => { l with st := .fenced })) 4 1 ∧
     f ({ up with wins := [{ fenced := true }] }) 5 0 ∧
     f (up.modFw (fun w => { w with coreFenced := setV w.coreFenced 1 true })) 6 1 ∧
     f ({ up with keyFenced := true }) 7 0 ∧ f ({ up with pagesFenced := [767] }) 11 767) := by
  and_intros <;> decide +kernel

theorem wit_LogsCountersAttest : Accepted cmdErrlogRead lent 2 (rq (res 8 2 0 + res 10 2 128)) ∧
    Accepted cmdCounterRead lent 1 (rq (res 8 2 3 + res 24 4 4096)) ∧ Accepted cmdCounterClear up 0 (rq (res 8 2 8)) ∧
    Accepted cmdCounterClear up 0 (rq (res 8 2 1)) ∧
    (Accepted cmdAttest lent 0 (rq 0) ∧ lent.fuses.secret = none) ∧
    (let s : State := { lent with fuses := { secret := some 1 } }
     Accepted cmdAttest s 0 (rq 0) ∧ s.fuses.secret = some 1) := by
  and_intros <;> decide +kernel

theorem wit_FirmwareActivateAndCommit :
    (let s := (up.modCode 1 (fun c => { c with st := .loaded, bundle := leBytes 4096 (2 * 2 ^ 80) }))
     Accepted cmdFwActivate s 0 (rq 0) ∧ s.loadedSlot = some 1 ∧ (s.codeSlot 0).st ≠ .probation ∧ (s.codeSlot 1).st ≠ .probation ∧
     mHandoverFmt (s.codeSlot 1).manifest = 2 ∧ s.handingOver = false ∧ s.fw.coreOut (1 - s.fw.core.toNat) = false) ∧
    (Accepted cmdFwActivate up 0 (rq 0) ∧ up.loadedSlot = none) ∧
    (let s := (up.modCode 0 (fun c => { c with bundle := leBytes 4096 (2 ^ 256 - 1) }))
     Accepted cmdFwCommit s 0 (rq 0) ∧ s.fw.running = some 0 ∧ (s.codeSlot 0).st = .active ∧
     commitBits s.fuses (s.codeSlot 0).manifest ≠ []) ∧
    (let s := (up.modCode 0 (fun c => { c with st := .probation }))
     Accepted cmdFwCommit s 0 (rq 0) ∧ s.fw.running = some 0 ∧ (s.codeSlot 0).st = .probation) := by
  and_intros <;> decide +kernel

/-! ### Witnesses: the host port -/

/-- An engine with one channel in a given state. -/
def withChan (s : State) (ch : Nat) (f : Channel → Channel) : State := s.modChan ch f

theorem wit_Bypass : Ported State.reset 31 ∧ (State.reset.chan 31).mode = .mem ∧ State.reset.claims 31 1 31 65535 = false ∧
    ((State.reset.chan 31).marked 1 31 = false ∧ State.reset.porst = true ∧ up.porst = false ∧ Ported up 0) ∧
    (let s := withChan State.reset 31 (fun c => { c with rows := [(1, 31, 65535)] })
     Ported s 31 ∧ (s.chan 31).marked 1 31 = false ∧ bankRow (s.chan 31).rows 1 31 = some 65535 ∧ Memory.wf s.dram) := by
  and_intros <;> decide +kernel

theorem wit_ApertureClaims : Ported admitted 0 ∧ 2 ≤ admitted.level ∧ admitted.latencyKnown 0 0 = true ∧ admitted.latencyKnown 0 1 = true ∧
    (admitted.form.hdr.aptBase ≤ columnAddr .izL 0 0 0 512 0 ∧
     columnAddr .izL 31 1 31 575 0 < admitted.form.hdr.aptBase + admitted.form.hdr.aptSize) ∧
    (let s := withChan admitted 0 (fun c => { c with marks := [(0, 0, 512)] })
     bankRow (s.chan 0).marks 0 0 = some 512 ∧ (s.chan 0).marked 0 0 = true ∧
     (s.apertureRead (columnAddr s.cfg 0 0 0 512 31 - s.form.hdr.aptBase)).isSome = true) := by
  and_intros <;> decide +kernel

theorem wit_ApertureWrites :
    (let s := fun (row : Nat) => withChan admitted 0 (fun c => { c with marks := [(0, 0, row)] })
     let off := fun (row col : Nat) => columnAddr .izL 0 0 0 row col - admitted.form.hdr.aptBase
     Ported (s 512) 0 ∧ bankRow ((s 512).chan 0).marks 0 0 = some 512 ∧ off 512 31 < 2 ^ 20 ∧
     bankRow ((s 575).chan 0).marks 0 0 = some 575 ∧ windowsAt admitted.form (off 575 0) = [] ∧
     (∃ e, windowsAt admitted.form (off 514 0) = [(e, 1)] ∧ e.kind = 2) ∧
     (2 ^ 20 ≤ off 513 0 ∧ ∃ e, windowsAt admitted.form (off 513 0) = [(e, 0)] ∧ e.kind = 0)) := by
  and_intros
  all_goals first | decide +kernel | exact ⟨_, rfl, rfl⟩

theorem wit_OwnedChannelsAndEndedClaims :
    (let s := withChan up 31 (fun c => { c with mode := .toMem })
     Ported s 31 ∧ (s.chan 31).mode ≠ .mem ∧ (s.chan 31).marked 1 31 = false ∧ s.claims 31 1 31 65535 = false) ∧
    (let s := withChan up 31 (fun c => { c with stale := [(1, 31, 7)] })
     Ported s 31 ∧ bankRow (s.chan 31).marks 1 31 = none ∧ (s.chan 31).marked 1 31 = true) := by
  and_intros <;> decide +kernel

theorem wit_AddressMap : (31 : Nat) < channels .izL ∧ (15 : Nat) < channels .izS ∧ (1 : Nat) < 2 ∧ (31 : Nat) < 32 := by decide

/-! ### Witnesses: registers and levels -/

theorem wit_RegisterWrites : Awake up ∧ smpReg (0x0FFC : BitVec 16).toNat = none ∧ smpReg (0x0000 : BitVec 16).toNat = some .ident ∧
    (0x133C : BitVec 16).toNat = 0x1000 + 0x100 * (3 : Fin 4).toNat + 4 * (15 : Fin 16).toNat ∧
    (0x1384 : BitVec 16).toNat = 0x1084 + 0x100 * (3 : Fin 4).toNat := by
  and_intros <;> decide +kernel

theorem wit_TimeEventsInterrupts : Awake up ∧ up.smp.dropped = 0 ∧ smpReg 0x0FFC = none ∧ smpReg 0x90 = some .egrAck ∧
    (up.modDom 1 (fun _ => {})).present 1 = false ∧ smpReg 0x10 = some .timeLo ∧
    (let s := up.modSmp (fun m => { m with events := List.replicate 256 0, dropped := 65535 })
     Awake s ∧ s.smp.dropped ≠ 0 ∧ s.smp.events.length ≤ 256 ∧ s.smp.events ≠ [] ∧ 256 ≤ s.smp.events.length) ∧
    (1 : Word32).toNat.testBit 0 = true ∧ (2 : Word32).toNat.testBit 0 = false := by
  and_intros <;> decide +kernel

theorem wit_StagingAndEgress : (Awake up ∧ up.formula = none) ∧ admitted.formula.isSome = true ∧
    (let s := admitted.modWin 1 (fun x => { x with returned := 2 ^ 24 + 3, consumed := 2 ^ 24 - 2 })
     let ahead := fun (v : Nat) => (v + 2 ^ 24 - (s.win 1).consumed % 2 ^ 24) % 2 ^ 24
     let lead := ((s.win 1).returned % 2 ^ 24 + 2 ^ 24 - (s.win 1).consumed % 2 ^ 24) % 2 ^ 24
     s.present 1 = true ∧ s.egressOpen 1 = true ∧ s.egressOpen 0 = false ∧ s.emission = none ∧ s.fabric.egrHeld = [] ∧ ahead 3 ≤ lead ∧ lead < ahead 4) ∧
    (up.modDom 1 (fun _ => {})).present 1 = false := by
  and_intros <;> decide +kernel

theorem wit_LevelRequest :
    (Awake up ∧ up.smp.fuseDisabled = false ∧ up.fall = false ∧ field (0x30 : Word32).toNat 4 2 ≤ up.smp.level) ∧
    (let s := up.modSmp (fun m => { m with fuseDisabled := true })
     Awake s ∧ s.smp.fuseDisabled = true ∧ 0 < field (0x10 : Word32).toNat 4 2) ∧
    (let s := (up.modSmp (fun m => { m with level := 2, req := 2 }))
     Awake s ∧ 1 ≤ s.smp.level ∧ s.smp.level < field (0x30 : Word32).toNat 4 2 ∧ s.raiseFault 3 = none ∧ s.fw.romMode = false ∧
     (withChan s 31 (fun c => { c with fenced := true })).raiseFault 3 = some 4 ∧
     (let r := (s.modSmp (fun m => { m with level := 1 })).modFw (fun w => { w with romMode := true })
      Awake r ∧ r.raiseFault 3 = none ∧ r.fw.romMode = true ∧ r.smp.stageMib ≠ 0 ∧ r.fw.fetching = false)) := by
  and_intros <;> decide +kernel

theorem wit_LevelChanges :
    (let s := up.modSmp (fun m => { m with level := 2, pendingLevel := true })
     Awake s ∧ s.smp.level < s.smp.req ∧ s.fall = false ∧ s.wrst = false ∧ 1 ≤ s.smp.level ∧ s.fw.romMode = false ∧
     s.levelPresent s.smp.req = true ∧ s.raiseFault s.smp.req = none ∧ (∀ c, c < channels s.cfg → clockOk (s.clocks.getD c 0) = true) ∧
     ¬ (∀ c, c < channels s.cfg → clockOk ((List.replicate 32 1599199).getD c 0) = true)) ∧
    (let s := admitted.modSmp (fun m => { m with req := 2, pendingLevel := true })
     Awake s ∧ s.smp.req < s.smp.level ∧ s.fw.levelHold = 0 ∧ s.atBoundary = true ∧ s.ops = []) ∧
    (let s := admitted.modSmp (fun m => { m with req := 1, pendingLevel := true })
     Awake s ∧ s.smp.req < 2 ∧ s.atBoundary = true ∧ s.allMem = true ∧ (withChan s 31 (fun c => { c with mode := .proc })).allMem = false) := by
  and_intros <;> decide +kernel

theorem wit_Fall : (Awake admitted ∧ admitted.fall = false) ∧
    (let s : State := { up with fall := true }
     Awake s ∧ s.fall = true ∧ s.allMem = true ∧ s.smp.level ≠ 0 ∧ s.testPending = 0 ∧ ({ s with testPending := 5 } : State).testPending = 5) := by
  and_intros <;> decide +kernel

theorem wit_EveryCommandCompletes : unitExists .izS (.laneError 8) = false ∧ unitExists .izL (.laneError 8) = true ∧ up.testing = false ∧
    ({ up with wir := 5 } : State).testing = true ∧ Instr.smTimeLoRead ≠ .wrstnAssert := by
  and_intros <;> decide +kernel

theorem wit_WrapperInstructions : up.fuses.locked 1 = false ∧ up.porst = false ∧ up.testing = false ∧ up.fall = false ∧
    ({ up with fuses := { lock := 2 } } : State).fuses.locked 1 = true ∧ State.reset.porst = true := by
  and_intros <;> decide +kernel

theorem wit_PowerHandshakes :
    (let s := fun (d : Dom) => up.modDom 12 (fun _ => d)
     OnDomain (s {}) (.still 8) ∧ (s {}).dom 12 = {} ∧ OnDomain (s { req := true }) (.still 8) ∧
     (s { req := true, ack := true }).dom 12 = { req := true, ack := true } ∧ (s { ack := true }).dom 12 = { ack := true }) ∧
    (({ up with smp := { level := 1, req := 1 } } : State).modDom 2 (fun _ => { ack := true })).domainNeeded 2 = false ∧
    (let s := up.modDom 1 (fun _ => { ack := true })
     OnDomain s .intake ∧ (s.dom 1).ack = true ∧ (s.dom 1).req = false ∧ s.domainNeeded 1 = true ∧ s.domainFenced 1 = false) ∧
    (let s : State := { up with smp := { level := 1, req := 1 } }
     OnDomain s .peer ∧ s.domainNeeded 2 = false ∧ s.domainIdle 2 = true ∧ (s.dom 2).req = true ∧ (s.dom 2).ack = true ∧
     s.domainNeeded 0 = true) ∧
    (let s := up.modDom 3 (fun _ => { req := true, since := 199999999000000 })
     OnDomain s .key ∧ (s.dom 3).req ≠ (s.dom 3).ack ∧ (s.dom 3).slow = false ∧ (s.dom 3).since + 1000000 ≤ s.time) ∧
    ((up.dom 0).present = true ∧ (up.dom 0).ack = true ∧ (up.dom 0).req = true) := by
  and_intros <;> decide +kernel

theorem wit_ClocksAndTemperature : Awake up ∧ (List.replicate 32 (1600800 : Word32)).length = channels up.cfg ∧
    ((List.replicate 32 (1600800 : Word32)).map BitVec.toNat).all clockOk = true ∧ 2 ≤ up.level ∧ clockOk 1600801 = false ∧
    State.reset.level = 0 ∧ up.fuses.read = true ∧ up.fuses.firstTemp = false ∧ up.fusePass = none ∧ up.fw.commit = none := by
  and_intros <;> decide +kernel

theorem wit_StartFromRom :
    (let s : State := { State.reset with porst := false, doms := up.doms }
     Awake s ∧ s.present 0 = true ∧ s.fuses.read = false ∧ s.wrst = false ∧ s.fall = false ∧ s.formula = none ∧ s.fw.running = none ∧
     (∀ i < 2, (s.codeSlot i).st = .empty) ∧ s.fw.coreOut 0 = false ∧ s.fw.coreOut 1 = false) ∧
    (let blank : FuseReads := { normal := some 0, low := some 0, high := some 0 }
     let r := List.replicate 128 blank
     (latchFuses r {}).disabled = true) := by
  and_intros <;> decide +kernel

theorem wit_WarmReset : (Awake up ∧ up.wrst = false ∧ up.fall = false ∧ (up.dom 12).req = true ∧ (up.dom 12).ack = true) ∧
    (let s : State := { up with wrst := true }
     Awake s ∧ s.wrst = true ∧ s.fall = false ∧ s.present 0 = true ∧ s.formula = none ∧ s.fw.coreOut 0 = false ∧ s.fw.coreOut 1 = false) ∧
    (let s := up.modFw (fun w => { w with pendingStage := some (0, 8192) })
     s.fw.pendingStage = some (0, 8192) ∧ 0 < ((0, 8192) : Nat × Nat).2) ∧
    ({ up with wrst := true, fall := true } : State).fall = true := by
  and_intros <;> decide +kernel

/-! ### A run: one shard of one element that an Accord copies from P to D, its slot, one Atomizer program -/

/-- The shard: fmt of P and D is binary32. -/
def shard0 : ShardEntry := { gei := 0, n := 1, owner := 0, accord := 8, clip := false, wx := false, wtrack := false, pfmtBf16s := false, spill := false, fanin := 1, wexp := 0, envGroup := 0, normGroup := 0, descFirst := 0, descCount := 2, readyOff := 0, pfx := 0, pfxLen := 0 }

/-- A descriptor of binary32 planes. -/
def desc (stream base : Nat) : Desc := { stream := stream, fmt := 2, sat := false, rd := true, wr := true, dbuf := true, scaleGroup := 0, ebase0 := base, sbase0 := 0, ebase1 := base + 2048, sbase1 := 0 }

/-- A command that copies a latch to a latch. -/
def cmdW : AtmCmd := { cmd := 3, dst := 0, srcA := 1, srcB := 0, srcC := 0, bscal := false, sat := false, func := 0, sub := 0, fmtR := 2, fmtA := 2, fmtB := 2, scal := 0, opnd := 0, param := 0 }

/-- A program of one command on channel 0. -/
def prog : AtmProgram := { prog := 7, runOnSkip := false, sillage := false, chmask := 1, start := 0, after := 0xFFFFFFFF, niter := 1, segiter := 1, streamBase := 0, operands := [], body := [cmdW] }

def design : Formula := { form with
  timeline := [{ chmask := 2 ^ 32 - 1, start := 0, length := 100, proc := true }]
  shards := [shard0]
  descs := [desc 0 0, desc 6 4096]
  slotLists := [[{ shard := 0, prefetch := 0xFFFF, phase := 0, publish := true }]]
  plan := [{ shard := 0, openTick := 0, pages := 1 }]
  programs := [prog]
  reservations := [{ kind := 3, chmask := 1, start := 0, length := 0, budget := 0 }] }

/-- An engine in step 1 of that run, every channel in PROC. -/
def running : State := { admitted with
  formula := some design
  admitTime := 199999999900000
  chans := Vector.replicate 32 { mode := .proc, since := 199999999900000 }
  shards := [{}]
  run := { setUp := true, nextStep := 2, lastStep := 1, anchorTime := 199999999990000, anchored := true,
           steps := [{ step := 1, u := 1, decided := true }] }
  stills := { pos := List.replicate 8 (0, 1), current := some { step := 1, updates := 1, regs := [], s7w := 0, s24w := 0 } } }

/-- That engine with its pass in a given state. -/
def inPass (p : Pass) : State := running.modStills (fun t => { t with passes := [p] })

/-- That engine with every refresh of its period issued. -/
def calm : State := { running with chans := running.chans.map (fun c => { c with
  refreshed := (List.range 64).map (fun i => (i / 32, i % 32, running.refreshPeriod)) }) }

/-! ### Witnesses: channels, steps, intake -/

theorem wit_Transits : (({ mode := .mem } : Channel).fenced = false ∧ ({ mode := .mem, fenced := true } : Channel).fenced = true ∧
      ({ mode := .proc } : Channel).mode = .proc) ∧
    (let s := withChan running 31 (fun c => { c with mode := .mem })
     OnChannel s 31 ∧ (∃ x, (segmentsOf s.form 31)[(s.chan 31).segIdx]? = some x ∧ s.tickTime x.start ≤ s.time) ∧ s.run.anchored = true ∧
     s.run.eval = .closed) ∧
    (let s := running.modRun (fun r => { r with anchorTime := running.time + 1 })
     ∃ x, (segmentsOf s.form 31)[(s.chan 31).segIdx]? = some x ∧ s.time < s.tickTime x.start) ∧
    (let s := fun (m : Mode) (t : Nat) => withChan running 31 (fun c => { c with mode := m, since := running.time - t })
     OnChannel (s .toProc 120) 31 ∧ ((s .toProc 120).chan 31).since + 120 ≤ running.time ∧ ((s .toProc 120).chan 31).mode = .toProc ∧
     ((s .toMem 120).chan 31).mode = .toMem ∧ ((s .toMem 120).chan 31).since + 120 ≤ running.time ∧
     running.time < ((s .toProc 119).chan 31).since + 120) := by
  and_intros
  all_goals decide +kernel

theorem wit_RefreshAndChannelFence : OnChannel running 31 ∧ (running.chan 31).mode ≠ .mem ∧ (running.chan 31).fenced = false ∧
    (running.chan 31).catchup = 0 ∧ running.refreshDue 31 0 0 = true ∧
    (withChan running 31 (fun c => { c with refreshed := [(0, 0, running.refreshPeriod)] })).refreshDue 31 0 0 = false ∧
    (let s := withChan running 31 (fun c => { c with catchup := 8 })
     (s.chan 31).mode = .proc ∧ 0 < (s.chan 31).catchup ∧ (s.chan 31).since + (s.chan 31).catchup * s.disc.tRfcAb ≤ s.time ∧
     s.run.eval ≠ .closing) ∧
    (let s := (withChan running 31 (fun c => { c with catchup := 8 })).modRun (fun r => { r with eval := .closing })
     ∀ j, j < channels s.cfg → j ≠ 31 → (s.chan j).fenced = true ∨ ((s.chan j).mode = .proc ∧ (s.chan j).catchup = 0)) ∧
    (up.formula = none ∧ (up.chan 31).fenced = false) := by
  and_intros <;> decide +kernel

theorem wit_StepAnchorAndRecord : Awake running ∧ running.anchorAllowed = true ∧
    running.run.boundedAt ≤ running.time ∧
    (running.modRun (fun r => { r with arrived := true })).run.arrived = true ∧ running.run.arrived = false ∧ running.run.stepBegin = false ∧
    up.anchorAllowed = false ∧
    running.time < (running.modRun (fun r => { r with boundedAt := running.time + 1 })).run.boundedAt ∧
    (running.formula.isSome = true ∧ running.present 0 = true ∧ running.recordRoom = true ∧
     running.run.steps.find? (fun t => decide (t.step + 1 = running.nextRecordStep)) = some { step := 1, u := 1, decided := true }) ∧
    (let s := running.modRun (fun r => { r with steps := [{ step := 1, u := 1 }] })
     s.run.steps.find? (fun t => decide (t.step + 1 = s.nextRecordStep)) = some { step := 1, u := 1 }) ∧
    (let s := running.modRun (fun r => { r with steps := [] })
     s.recordRoom = true ∧ s.nextRecordStep = s.run.nextStep ∧ s.run.steps.find? (fun t => decide (t.step + 1 = s.nextRecordStep)) = none) := by
  and_intros <;> decide +kernel

/-- A slot of the shard with a chunk that waits. -/
def slot0 : Slot := { step := 1, pages := 1, h := 2, k := 2, next := [1], held := [{ rank := 1, chunk := 0, fmt := 2, scale := 0, codes := [0x3F800000] }], acc := [0x80000000] }

theorem wit_SlotsAndFolds : slot0.due = some { rank := 1, chunk := 0, fmt := 2, scale := 0, codes := [0x3F800000] } ∧
    planOf running.form 0 = some { shard := 0, openTick := 0, pages := 1 } ∧ (running.shard 0).slot = none ∧
    running.openPoint 0 { shard := 0, openTick := 0, pages := 1 } = true ∧ running.slotRoom { shard := 0, openTick := 0, pages := 1 } = true ∧
    running.shardBad 0 = false ∧ (running.modShard 0 (fun h => { h with ready := { poison := true } })).shardBad 0 = true ∧
    ((running.modShard 0 (fun h => { h with slot := some slot0 })).shard 0).slot = some slot0 ∧ shardEntry running.form 0 = some shard0 ∧
    (let t : Slot := { slot0 with k := 3, h := 3 }
     let h : Held := { rank := 1, chunk := 0, fmt := 2, scale := 0, codes := [0x3F800000] }
     (({ t with held := t.held.erase h } : Slot).foldTurn h).complete false = false) ∧
    ({ slot0 with next := [0] } : Slot).due = none := by
  and_intros <;> decide +kernel

theorem wit_DecantFullEnds :
    (let o : LongOp := { handle := 9, code := cDecantFull, st := .running, par := res 12 4 7 }
     let r : Reservation := { kind := 4, chmask := 0xFFFFFFFF, start := 0, length := 0, budget := 0 }
     let s := withOp { running with formula := some { design with reservations := [r] } } o
     s.findOp (9 : BitVec 16).toNat = some o ∧ s.opReady o = true ∧ s.run.eval ≠ .decanting ∧ (s.decantWork o).map (·.1) = [0] ∧
     (s.shard 0).ready.version = 0) := by
  and_intros <;> decide +kernel

/-! ### Witnesses: passes -/

theorem wit_PrefetchesAndStillFaults :
    (Awake running ∧ shardEntry running.form 0 = some shard0 ∧
     running.prefetchTarget 0 = some ((0, 1), { shard := 0, prefetch := 0xFFFF, phase := 0, publish := true }) ∧ running.stillReady 0 = true ∧
     running.prefetchTick { shard := 0, prefetch := 0xFFFF, phase := 0, publish := true } 1 = true ∧
     running.readsCommitted 0 0 (0, 1) = true ∧ running.badAt 0 1 = false ∧ running.evalIdle = true ∧ running.groupFree 0 = true ∧
     running.progsClear shard0 (passProg running.form shard0 0) (listPlace running.form 0 0) 1 = true ∧ up.prefetchTarget 0 = none ∧
     stripeFits running.form shard0 (passProg running.form shard0 0) (stripeCount .izL shard0.n 0) = true ∧
     stripeFits running.form shard0 (passProg running.form shard0 0) (stripeCount .izL (8 * 256 * 128 + 1) 0) = false) ∧
    (let s := inPass { shard := 0, phase := 0, step := 1, stripes := [{ still := 0, pre := .reading }] }
     s.readingPass 0 0 = some { shard := 0, phase := 0, step := 1, stripes := [{ still := 0, pre := .reading }] } ∧
     (inputDescs s.form shard0 (passProg s.form shard0 0)).all (fun d => s.blockOpen d 0 0 0 (stripeCount s.cfg shard0.n 0)) = true ∧
     s.operandPoison shard0 (passProg s.form shard0 0) 0 0 (stripeCount s.cfg shard0.n 0) = false ∧
     ({ s with poisonWords := [stackAddr .izL 0 0] } : State).operandPoison shard0 (passProg s.form shard0 0) 0 0
       (stripeCount s.cfg shard0.n 0) = true) ∧
    running.stills.fenced.contains 8 = false ∧
    (let s := running.modStills (fun t => { t with takeover := [(7, 8, 0)] })
     s.stills.takeover.find? (fun x => decide (x.1 = 7)) = some (7, 8, 0) ∧ s.present 12 = true ∧
     (s.modDom 12 (fun _ => {})).present 12 = false) := by
  and_intros <;> decide +kernel

theorem wit_Passes :
    (let x : SlotEntry := { shard := 0, prefetch := 0xFFFF, phase := 0, publish := true }
     let p := passProg running.form shard0 0
     let clean := inPass { shard := 0, phase := 0, step := 1, stripes := [{ still := 0, pre := .clean }] }
     running.passAt 0 shard0 = some (x, 1) ∧ running.owns shard0 = true ∧ running.stepAllows 1 shard0 p = true ∧
     running.progsClear shard0 p (running.stills.pos.getD 0 (0, 0)).1 1 = true ∧ running.overwriteRead 0 shard0 p = true ∧
     running.findPass 0 0 1 = none ∧ running.badAt 0 1 = false ∧ p.draws = false ∧ running.operandsReady 0 0 1 shard0 = false ∧
     (clean.modShard 0 (fun h => { h with slot := some { step := 1, pages := 1, h := 1, k := 1, result := some [0] } })).operandsReady 0 0 1 shard0 = true ∧
     clean.operandsReady 0 0 1 shard0 = false ∧
     (running.modShard 0 (fun h => { h with badUntil := 1 })).badAt 0 1 = true) ∧
    (let e : ShardEntry := { shard0 with accord := 0x40 }
     let c : Accord.Custom := { hdr := { code := 0x40, nops := 1, nopsA := 0, inMask := 1, outMask := 0x40, sillage := true, w64 := false }, opsA := [], ops := [{ opc := 0x13, omask := 0x40, last := true }] }
     let s : State := { running with formula := some { design with shards := [e], accords := [c] } }
     s.passAt 0 e = some ({ shard := 0, prefetch := 0xFFFF, phase := 0, publish := true }, 1) ∧ s.owns e = true ∧
     s.stepAllows 1 e (passProg s.form e 0) = true ∧ (passProg s.form e 0).draws = true ∧ s.keyOk = false) ∧
    (let q : Pass := { shard := 0, phase := 0, step := 1, started := true, stripes := [{ still := 0, pre := .streams }] }
     let s := inPass q
     s.runningPass 0 = some q ∧ q.stripe 0 = some { still := 0, pre := .streams } ∧ (s.passAt 0 shard0).isSome = true ∧
     s.stillReady 0 = true ∧ s.stills.noCarrier = false ∧ 0 < stripeBlocks s.cfg shard0.n 0 ∧
     s.commitOpen q { still := 0, pre := .streams } shard0 (passProg s.form shard0 0) = true ∧
     s.operandPoison shard0 (passProg s.form shard0 0) 0 0 (min 256 (stripeCount s.cfg shard0.n 0)) = false ∧
     ({ s with poisonWords := [stackAddr .izL 0 0] } : State).operandPoison shard0 (passProg s.form shard0 0) 0 0
       (min 256 (stripeCount s.cfg shard0.n 0)) = true) ∧
    (let x : Stripe := { still := 0, pre := .clean, buffer := [(0, [0, 0, 128, 63], [])] }
     let q : Pass := { shard := 0, phase := 0, step := 1, started := true, stripes := [x] }
     let u := (inPass q).commitBlock q x shard0
     (∃ q', u.runningPass 0 = some q' ∧ u.passComplete q' shard0 = true) ∧
     u.dramBytes (stackAddr .izL 0 6144) 4 = [0, 0, 128, 63]) ∧
    (let x : Stripe := { still := 0, pre := .clean, blocks := 0 }
     let e : ShardEntry := { shard0 with n := 4096 }
     let q : Pass := { shard := 0, phase := 0, step := 1, started := true, stripes := [x] }
     (inPass q).passComplete q e = false) := by
  and_intros
  all_goals decide +kernel

/-! ### Witnesses: Atomizers -/

/-- The engine with a segment of the program running on channel 0. -/
def inSegment (g : AtmSegment) : State := running.modAtm 0 (fun a => { a with seg := some g })

theorem wit_AtmSegmentsAndPacing :
    (OnChannel running 0 ∧ running.progAt 0 = some (prog, 1) ∧ running.formula.isSome = true ∧ (running.atmCh 0).seg = none ∧
     running.progAllowed prog 1 = true ∧ (running.stepSt 1).skipped = false ∧ prog.sillage = false ∧ running.atmFenced prog = false ∧
     running.atmResult 7 1 = none ∧
     (running.onTick = true ∧ running.level = 3 ∧ running.disc.aStack = true ∧ running.disc.isMatch = true ∧ bit running.disc.atmMask 0 = true ∧
      running.chanReady 0 = true ∧ running.stillBusy 0 = false ∧ running.stretchOk 0 (segWorst running prog 0) = true)) ∧
    (let s := running.modRun (fun r => { r with steps := [{ step := 1, decided := true, skipped := true }] })
     s.progAt 0 = some (prog, 1) ∧ s.progAllowed prog 1 = true ∧ (s.stepSt 1).skipped = true) ∧
    (let s := running.modAtm 0 (fun a => { a with fenced := [(0, 0)] })
     s.progAt 0 = some (prog, 1) ∧ s.progAllowed prog 1 = true ∧ s.atmFenced prog = true) ∧
    (let drawn : AtmProgram := { prog with sillage := true }
     let s : State := { running with formula := some { design with programs := [drawn] } }
     s.progAt 0 = some (drawn, 1) ∧ s.progAllowed drawn 1 = true ∧ s.keyOk = false) ∧
    (let s := running.refuseProgram { prog with chmask := 2 } 1 0x0402 1
     s.progAt 0 = some (prog, 1) ∧ s.progAllowed prog 1 = true ∧ ((s.atmResult 7 1).map AtmResult.refused).getD false = true) ∧
    ({ running with time := running.time + 1 } : State).onTick = false ∧
    20 * ((running.atmCh 0).refills + 1) ≤ running.time - running.admitTime ∧
    ({ running with admitTime := running.time - 19 } : State).time - ({ running with admitTime := running.time - 19 } : State).admitTime <
      20 * ((running.atmCh 0).refills + 1) ∧
    (let g : AtmSegment := { prog := 7, step := 1, seg := 0 }
     let s := inSegment g
     (s.atmCh 0).seg = some g ∧ progOf s.form 7 = some prog ∧ cmdAt prog 0 0 = some (cmdW, 0) ∧ bothHalves cmdW = false ∧
     0 < segLength prog 0 ∧ g.nominal ≤ s.time ∧ s.chanReady 0 = true ∧ s.level = 3 ∧ atmCycles prog cmdW 0 ≤ (s.atmCh 0).bucket ∧
     roomToQueue g 0 cmdW = true ∧ roomToQueue { g with goes := [8, 0] } 0 cmdW = false ∧
     cmdAt prog 0 (({ g with goes := [8, 0] } : AtmSegment).goes.getD 1 0) = some (cmdW, 0) ∧
     (let t := s.modAtm 0 (fun a => { a with bucket := 0 })
      (t.atmCh 0).bucket < atmCycles prog cmdW 0)) ∧
    (running.atmCh 31).seg = none := by
  and_intros <;> decide +kernel

theorem wit_AtmReportsAndFaults :
    (let g : AtmSegment := { prog := 7, step := 1, seg := 0, goes := [1, 1] }
     let s := inSegment g
     let ninth : AtmSegment := { g with rpts := [0, 0x1FE] }
     let count : Word64 := 0x1000020100000000
     let none' : Word64 := 0x9000020000000000
     OnChannel s 0 ∧ (s.atmCh 0).seg = some g ∧ progOf s.form 7 = some prog ∧ s.mayComplete g 0 = false ∧
     s.mayComplete { g with rpts := [0x3FE, 0] } 0 = true ∧ segEnded prog g = false ∧
     segEnded prog { g with dones := [1, 1], rpts := [0x3FE, 0x3FE] } = true ∧
     field count.toNat 40 2 = 2 ∧ s.reportNext 0 1 prog g count.toNat = true ∧ field count.toNat 60 4 = 1 ∧
     s.reportNext 0 1 prog g none'.toNat = false ∧ s.reportNext 0 1 prog ninth none'.toNat = true ∧ field none'.toNat 60 4 = 9 ∧
     bit none'.toNat 32 = false ∧
     (let m : Word64 := 0x900002013F800000
      let t := s.modAtm 0 (fun a => { a with units := [{ ch := 0, pc := 0, pair := 1, amax := some 0x3F800000 }] })
      t.reportNext 0 1 prog ninth m.toNat = true ∧ bit m.toNat 32 = true)) ∧
    ((running.atmCh 0).fenced.contains (1, 31) = false ∧ (running.atmCh 0).seg = none ∧
     ((running.modAtm 0 (fun a => { a with fenced := [(1, 31)] })).atmCh 0).fenced.contains
       (field (0x3F : Word32).toNat 5 1, field (0x3F : Word32).toNat 0 5) = true) := by
  and_intros <;> decide +kernel

/-! ### Witnesses: links -/

/-- An engine with link 0 in a given state. -/
def linked (l : Link) : State := running.modLink 0 (fun _ => l)

def upLink : Link := { st := .up, pinUp := true, granted := true }

theorem wit_PacketArrival :
    (let l := fun (l : Link) (k : Packet) => (OnLink (linked l) 0 ∧ (linked l).present 2 = true ∧
       field (packetCrc k.head.toNat k.payload) 0 32 = k.fld 224 32)
     let k := peerPacket 0x04 (List.replicate 32 0)
     l upLink k ∧ (linked upLink).link 0 = upLink ∧ laneOf k.type = 1 ∧ k.seq = 0 ∧
     ((peerPacket 0x01 []).type = 0x01 ∧ (peerPacket 0x02 []).type = 0x02 ∧ (peerPacket 0x03 []).type = 0x03) ∧
     ¬ field (packetCrc (k.head ^^^ 1).toNat k.payload) 0 32 = ({ k with head := k.head ^^^ 1 } : Packet).fld 224 32 ∧
     2048 ≤ (k.seq + 4096 - 1) % 4096 ∧ (k.seq + 4096 - 2048) % 4096 = 2048 ∧
     (1 ≤ (k.seq + 4096 - 2049) % 4096 ∧ (k.seq + 4096 - 2049) % 4096 < 2048) ∧
     (¬ (k.type = 0x01 ∨ k.type = 0x02) ∧ 0 < ({ upLink with granted := false } : Link).inBuf.getD 1 0 + 0 + k.cost)) := by
  and_intros <;> decide +kernel

theorem wit_LinkLocalArrival :
    (let hello := fun (kind minor : Nat) => peerPacket 0x01 (patch (helloPayload up kind 0 false) 6 [BitVec.ofNat 8 minor])
     let v := fun (k : Packet) => leVal k.payload
     let raise : Link := { st := .bringup, pinUp := true }
     Arrives (linked upLink) 0 (hello 0 3) ∧ restarts (hello 0 3) = true ∧
     Arrives (linked upLink) 0 (hello 1 3) ∧ field (v (hello 1 3)) 0 8 ≠ 0 ∧
     Arrives (linked raise) 0 (hello 0 3) ∧ raise.queue.length = 3 ∧ field (v (hello 0 3)) 0 8 = 0 ∧ majorOk (v (hello 0 3)) = true ∧
     Arrives (linked raise) 0 (hello 0 4) ∧ majorOk (v (hello 0 4)) = false) ∧
    (let ack := peerPacket 0x02 (helloPayload up 0 0 true)
     let raise : Link := { st := .bringup, pinUp := true, granted := true }
     Arrives (linked raise) 0 ack ∧ raise.ackRcvd = false ∧ majorOk (leVal ack.payload) = true ∧
     Arrives (linked { raise with ackRcvd := true }) 0 ack ∧ Arrives (linked upLink) 0 ack) ∧
    Arrives (linked upLink) 0 (peerPacket 0x03 (List.replicate 32 0)) := by
  and_intros <;> decide +kernel

theorem wit_DeliveryEffects :
    (let k := peerPacket 0x06 (leBytes 16 (2 ^ 32 + partialFmt shard0 * 2 ^ 96 + 2 ^ 112) ++ [0, 0, 128, 63])
     let v := leVal (k.payload.take 16)
     let t : Slot := { step := 1, pages := 1, h := 1, k := 2, next := [0], acc := [0x80000000] }
     let s := running.modShard 0 (fun h => { h with slot := some t })
     (s.childrenOf 0).findIdx? (fun x => decide (x = k.src)) = some 0 ∧ field v 32 48 = t.step ∧ field v 96 8 = partialFmt shard0 ∧
     bit v 92 = false ∧ (s.shard 0).rcvdPast.contains (1, hostRanks s.form 0 + 0, 0) = false ∧ t.empties.contains (t.h + 0) = false ∧
     t.rcvd.contains (t.h + 0, 0) = false ∧ 0 < chunkCount 1 ∧ field v 112 10 = chunkLen 1 0 ∧
     ({ t with rcvd := [(1, 0)] } : Slot).rcvd.contains (t.h + 0, 0) = true) ∧
    ((running.scalarChildren.contains 1) = true ∧ (running.round 1 1 0).own = none ∧
     (let leaf : State := { running with smp := { running.smp with pos := 1 } }
      leaf.scalarParent = some 0 ∧ (leaf.round 1 1 0).total = none)) ∧
    (let far : State := up.modFabric (fun f => { f with tray := 1 })
     let s := running.modFabric (fun f => { f with members := [0, far.ea] })
     let data := fun (flags : Nat) => far.packet 0x07 0 false (leBytes 32 (7 + flags * 2 ^ 37) ++ List.replicate 32 0)
     let restore : LongOp := { handle := 9, code := cRestore, st := .running, par := res 8 4 7 }
     let em : Emission := { gen := 7, step := 1, header := [], nearHeader := [], toCapture := [], data := [], near := true }
     s.ward = some (data 0).src ∧ s.live cAdopt = false ∧ s.live cRestore = false ∧ (withOp s restore).live cRestore = true ∧
     bit (leVal ((data 0).payload.take 32)) 37 = false ∧ bit (leVal ((data 1).payload.take 32)) 37 = true ∧
     s.near.ward ≠ (data 0).src ∧
     (let held : State := { s with near := { ward := far.ea, gen := 8 } }
      held.near.ward = (data 0).src ∧ 7 < held.near.gen) ∧
     (({ s with emission := some em } : State).emission.map Emission.gen = some 7 ∧ s.keeper = some (data 0).src) ∧
     (withOp s restore).ops.find? (fun o => decide (o.code = cRestore)) = some restore ∧ restore.p 12 1 = 0 ∧ restore.p 8 4 = 7) ∧
    running.fabric.notices.contains (1, running.fabric.epoch) = false ∧
    (let v := leBytes 16 0 ++ leBytes 64 (rq (res 8 2 0)).par.toNat
     let w : BitVec 512 := BitVec.ofNat 512 (leVal (slice v 16 64))
     bit (leVal (v.take 16)) 36 = false ∧ 1 ≤ running.level ∧ running.mcTaken = false ∧ (running.request 1 w true (commandIn w)).2.isSome = true ∧
     (running.modFw (fun f => { f with handover := .held 1 })).mcTaken = true) := by
  and_intros <;> decide +kernel

theorem wit_PacketDelivery :
    (let p := fun (type : Nat) (payload : List Byte) => Deliverable (linked upLink) 0 (peerPacket type payload)
     p 0x04 (List.replicate 32 0) ∧ p 0x05 (List.replicate 32 0) ∧ p 0x08 (List.replicate 32 0) ∧ p 0x0B (List.replicate 32 0) ∧
     p 0x07 (List.replicate 32 0) ∧ p 0x09 (List.replicate 32 0) ∧ p 0x0A (List.replicate 80 0) ∧
     p 0x06 [0, 0, 0, 0, 0, 0, 0, 0, 0, 0, 0, 16, 2, 0, 0, 0] ∧
     (linked upLink).contribEarly (peerPacket 0x06 [0, 0, 0, 0, 0, 0, 0, 0, 0, 0, 0, 16, 2, 0, 0, 0]) = false) ∧
    (let s := linked upLink
     (5 ∉ s.scalarChildren) ∧ s.scalarParent ≠ some 5 ∧ s.ward ≠ some 5 ∧ s.emission = none ∧ (∀ o ∈ s.ops, o.code ≠ cRestore) ∧
     s.fabric.fences.contains 1 = false) ∧
    (let r : Round := { kind := 1, step := 1, group := 0, kids := [(1, 0, 0)] }
     let s := running.modFabric (fun f => { f with rounds := [r] })
     (s.round 1 1 0).kids.any (fun x => decide (x.1 = 1)) = true) ∧
    (let em : Emission := { gen := 1, step := 1, header := [], nearHeader := [], toCapture := [], data := [], near := true }
     let s : State := { running with emission := some em }
     s.emission = some em ∧ s.keeper = some 0) ∧
    (let s := running.modFabric (fun f => { f with fences := [1], notices := [(1, 0)] })
     s.fabric.fences.contains 1 = true ∧ s.fabric.notices.contains (1, s.fabric.epoch) = true) ∧
    bit (leVal [0, 0, 0, 0, 16]) 36 = true := by
  and_intros <;> decide +kernel

theorem wit_LinkLife :
    (OnLink (linked {}) 0 ∧ ((linked {}).link 0).pinUp = false ∧ ((linked {}).link 0).st ≠ .fenced ∧ (linked {}).present 2 = true) ∧
    ((linked { st := .fenced }).link 0).st = .fenced ∧ (((linked {}).modDom 2 (fun _ => {})).present 2 = false) ∧
    ((linked upLink).link 0).pinUp = true ∧
    (let l : Link := { st := .bringup, pinUp := true, discoverAt := running.time - 100000 }
     ((linked l).link 0).discoverAt + 100000 ≤ running.time ∧ l.discovers ≠ 8 ∧ ({ l with discovers := 8 } : Link).silent = false) ∧
    (((linked upLink).link 0).st = .up ∧ upLink.lastTx + 100000 ≤ running.time ∧ upLink.checkAt / 100000 < running.time / 100000) ∧
    running.time < ({ upLink with lastTx := running.time - 99999 } : Link).lastTx + 100000 ∧
    (¬ (8 ≤ upLink.misses + 1) ∧ 8 ≤ ({ upLink with misses := 7 } : Link).misses + 1) ∧
    (let l : Link := { upLink with owed := [0, 0, 1], owedAt := running.time - 200 }
     (∃ x ∈ l.owed, 0 < x) ∧ (∀ q ∈ l.queue, q = []) ∧ l.owedAt + 200 ≤ running.time) ∧
    (let k := peerPacket 0x04 (List.replicate 32 0)
     let l : Link := { upLink with queue := [[], [k], []], credits := [0, 1, 0] }
     l.nextTx running.time = some (1, k, 0) ∧ creditFree k = false ∧ upLink.nextTx running.time = none) := by
  and_intros <;> decide +kernel

/-! ### Witnesses: batches, pages, the Blotter, loans -/

theorem wit_BatchesPagesEpochs :
    (let b : Batch := { dst := 1, win := 1, since := running.time - 500, pkts := [] }
     let s := running.modFabric (fun f => { f with batches := [b] })
     (Awake s ∧ ∃ b ∈ s.fabric.batches, b.dst = (1 : Ea).toNat ∧ b.closed = false ∧ b.since + 500 ≤ s.time) ∧
     (∀ b ∈ s.fabric.batches, b.dst = (2 : Ea).toNat → b.closed = true ∨ s.time < b.since + 500)) ∧
    ((∃ e, running.form.windows[(1 : Byte).toNat]? = some e ∧ e.enable = true ∧ e.kind = 2 ∧ e.issued ≤ 16 - 0 ∧ 15 - 0 < e.issued) ∧
     running.formula.isSome = true ∧ running.present 1 = true ∧ running.egressWindow = 1 ∧ 1 < running.wins.length) ∧
    (let b : Batch := { dst := 1, win := 1, since := 0, pkts := [], closed := true }
     let s := running.modFabric (fun f => { f with batches := [b] })
     s.fabric.batches.find? (fun b => b.closed && decide (b.win = 1)) = some b) ∧
    (let p := fun (k : Nat) => ({ kind := k, gen := 1, step := 1, off := 0, shard := 0, payload := [] } : OutPage)
     let s : State := { running with outPages := [p 1, p 2] }
     s.outPages.find? (fun p => decide (p.kind = 2)) = some (p 2) ∧
     ({ s with outPages := [p 1] } : State).outPages.find? (fun p => decide (p.kind = 1)) = some (p 1)) ∧
    ({ running with blotter := { mib := 1, inRing := 1 } } : State).blotterPage.isSome = true := by
  and_intros
  all_goals decide +kernel

theorem wit_BlotterDrain : up.formula = none ∧ running.formula.isSome = true ∧
    (let s : State := { withChan running 0 (fun c => { c with mode := .mem }) with blotter := { mib := 1, buffer := [(0, [])] } }
     s.blotter.buffer = (0, []) :: [] ∧ s.backgroundOpen (s.ringChannel 0) = false) ∧
    (let s : State := { calm with blotter := { mib := 1, buffer := [(0, [])] } }
     s.blotter.buffer = [(0, [])] ∧ s.backgroundOpen (s.ringChannel 0) = true ∧ s.blotter.lost = [] ∧
     0 < s.blotter.front + ringSlots s.blotter ∧ Memory.wf s.dram) ∧
    running.blotter.buffer = [] ∧
    (let b : Blotter := { buffer := List.replicate 4096 (0, []) }
     4096 ≤ b.buffer.length ∧ running.blotter.buffer.length < 4096) := by
  and_intros <;> decide +kernel

theorem wit_LoansAndBootFetch :
    (let o : LongOp := { handle := 1, code := cFwLoad, st := .running, par := res 16 4 2 }
     let s := withOp up o
     o.st = .running ∧ (s.bring 1 [o]).map LongOp.input = [[0]] ∧
     Awake s ∧ s.formula = none ∧ s.present 0 = true ∧ 1 ≤ s.level ∧ s.loan.isOpen = false ∧ s.allMem = true ∧ s.loanWanted = true ∧ s.latenciesKnown = true ∧
     s.loan.lastEnd = 0 ∧ ({ s with loan := { lastEnd := s.time - 20000 } } : State).loan.lastEnd + 20000 ≤ s.time) ∧
    up.loanWanted = false ∧ ({ up with disc := { up.disc with rl := none } } : State).latenciesKnown = false ∧
    (let s : State := { up with loan := { isOpen := true }, chans := Vector.replicate 32 { mode := .proc } }
     s.loan.isOpen = true ∧ s.loan.transferred = false ∧ s.fw.stage = [] ∧ s.fw.warmWait = false ∧
     (let w := fun (len : Nat) => s.modFw (fun w => { w with warmWait := true, pendingStage := some (0, len) })
      (w 2).fw.warmWait = true ∧ (w 2).fw.pendingStage = some (0, 2) ∧ 2 ≤ ((w 2).dramBytes 0 (min 2 (2 ^ 20))).length ∧
      (min (2 ^ 21) (2 ^ 20) : Nat) < 2 ^ 21) ∧
     ∀ ch, ch < channels s.cfg → (s.chan ch).fenced = true ∨ ((s.chan ch).mode = .proc ∧ (s.chan ch).catchup = 0)) ∧
    (let s := up.modFw (fun w => { w with fetching := true, fetchFail := some fwFormat })
     s.fw.fetching = true ∧ s.loan.isOpen = false ∧ s.fw.fetchFail = some fwFormat) ∧
    (let taken := fun (s : State) => (s.modMbx 0 (fun b => { b with taken := (rq 0).word 0x0506, busy := true })).modFw
       (fun w => { w with stage := [(0, [31])] })
     (taken lent).fw.stage = [(0, [31])] ∧ (commandIn ((taken lent).mbx 0).taken).map Cmd.code = some 0x0506 ∧
     (cmdErrlogRead.run lent 0 (reqOf ((taken lent).mbx 0).taken).par).2.isSome = true ∧
     (let s := fun (m : Mode) => taken (withChan running 31 (fun c => { c with mode := m, since := running.time - 120 }))
      ((s .toProc).transitEnds 31 false).formula.isSome = true ∧ ((s .toProc).transitEnds 31 false).chanReached 31 = true ∧
      ((s .toMem).transitEnds 31 false).fw.stage = [(0, [31])] ∧ ((s .toMem).transitEnds 31 false).chanReached 31 = false)) := by
  and_intros <;> decide +kernel

/-! ### Witnesses: firmware, fuses, entropy, the ends of operations -/

theorem wit_HandoverAndTakeover :
    (let s := up.modFw (fun w => { w with standbyBoot := some 1, handover := .booting 1 })
     Awake s ∧ s.fw.standbyBoot = some 1 ∧ s.fw.handover = .booting 1) ∧ up.fw.standbyBoot = none ∧
    (let s := running.modFw (fun w => { w with handover := .ready 1 })
     s.fw.handover = .ready 1 ∧ s.run.anchored = true ∧ s.recordFor (s.run.lastStep + 1) = none ∧
     ((s.modStills (fun t => { t with nextRec := some { step := 2, updates := 2, regs := [], s7w := 0, s24w := 0 } })).recordFor 2).isSome = true ∧
     (up.run.anchored = false ∧ up.fw.commit = none ∧ up.fw.stage = []) ∧
     (up.modFw (fun w => { w with commit := some { bits := [(1, 31)], mbx := 0, since := 0 } })).fw.commit.isSome = true ∧
     (up.modFw (fun w => { w with stage := [(0, [])] })).fw.stage ≠ []) ∧
    (let s := (up.modCode 0 (fun c => { c with st := .probation })).modFw (fun w => { w with probationEnd := up.time })
     s.fw.running = some 0 ∧ (s.codeSlot 0).st = .probation ∧ s.fw.probationEnd ≤ s.time ∧
     s.time < (s.modFw (fun w => { w with probationEnd := up.time + 1 })).fw.probationEnd) ∧
    (let s := fun (m : Mode) => (withChan up 31 (fun c => { c with bankPending := true, mode := m })).modFw (fun w => { w with bankArmed := true })
     (s .mem).fw.bankArmed = true ∧ ((s .mem).chan 31).bankPending = true ∧ ((s .mem).atmCh 31).seg = none ∧ ((s .mem).chan 31).mode = .mem ∧
     ((s .toMem).chan 31).mode = .toMem) ∧
    (let s := up.modFw (fun w => { w with handover := .held 1 })
     Awake s ∧ s.fw.handover = .held 1 ∧ s.fw.running = some 0 ∧ s.fw.heldQueue = [] ∧ s.fabric.held = []) := by
  and_intros <;> decide +kernel

theorem wit_CoreFaults : (Awake up ∧ up.wrst = false ∧ up.present 0 = true ∧ up.fw.core = 0 ∧ up.fw.handover = .none) ∧
    (let out := fun (s : State) (c : Fin 2) => s.modFw (fun w => { w with coreFenced := setV w.coreFenced c true })
     (out up 1).fw.coreOut 1 = true ∧ up.fw.coreOut 1 = false ∧ up.fw.coreOut 0 = false ∧ up.fw.fallback = none ∧
     (out up 1).fw.coreOut (otherCore 0) = true ∧ up.fw.coreOut (otherCore 0) = false ∧ up.fw.heldQueue = [] ∧ up.fabric.held = []) ∧
    (let s := (up.modCode 0 (fun c => { c with st := .probation })).modFw (fun w => { w with fallback := some 1 })
     s.fw.running = some 0 ∧ s.fw.fallback = some 1 ∧ (s.codeSlot 0).st = .probation ∧ s.fw.coreOut (otherCore 0) = false) ∧
    ((up.modDom 0 (fun _ => {})).present 0 = false ∧ up.present 3 = true ∧ (up.modDom 3 (fun _ => {})).present 3 = false) := by
  and_intros <;> decide +kernel

theorem wit_FusePort : Awake up ∧ up.fusePass = none ∧ up.fw.commit = none ∧
    (let p : FusePass := { word := 126, margin := 2, got := [some 0, none] }
     p.got.length = 2 ∧ p.verify = none ∧ p.word < 127 ∧ p.tries = 0 ∧ ({ p with tries := 1 } : FusePass).tries ≠ 0 ∧
     ({ up with fusePass := some p } : State).fusePass = some p) ∧
    (let c : Commit := { bits := [(1, 31)], mbx := 0, since := up.time - 10000000 }
     let p : FusePass := { word := 1, margin := 2, got := [some 0x80000000, some 0x80000000], verify := some 31 }
     let s : State := { up.modFw (fun w => { w with commit := some c }) with fusePass := some p }
     s.fusePass = some p ∧ p.verify = some 31 ∧ s.fw.commit = some c ∧ p.got.length = 2 ∧ c.burning = false ∧
     c.since + 10000000 ≤ s.time ∧ s.time < ({ c with since := up.time - 9999999 } : Commit).since + 10000000 ∧
     (({ c with burning := true } : Commit).burning = true ∧ s.fusePass.isSome = true) ∧
     p.got ++ [some 0x80000000] = List.replicate 3 (some (0x80000000 : Word32)) ∧ bit (0x80000000 : Word32).toNat 31 = true ∧
     c.bits = [(1, 31)] ∧ s.fw.running = some 0 ∧ s.fw.heldQueue = [] ∧ s.fabric.held = [] ∧
     ({ c with bits := [(1, 30), (1, 31)] } : Commit).bits = (1, 30) :: (1, 31) :: []) := by
  and_intros <;> decide +kernel

theorem wit_EntropyAndScrub : Awake up ∧ up.present 3 = true ∧ up.entropy.fenced = false ∧ up.entropy.failures = 0 ∧
    ({ up with entropy := { fenced := true } } : State).entropy.fenced = true ∧
    ({ up with entropy := { failures := 1 } } : State).entropy.failures ≠ 0 ∧
    (OnChannel running 31 ∧ 2 ≤ running.level ∧ (running.chan 31).mode ≠ .mem ∧ (running.chan 31).fenced = false ∧
     running.backgroundOpen 31 = false ∧ OnChannel calm 31 ∧ 2 ≤ calm.level ∧ calm.backgroundOpen 31 = true) ∧
    (let s := withChan running 31 (fun c => { c with scrubStart := 1 })
     86400 * ((s.chan 31).scrubPosts + 1) ≤ s.scrubDebt 31 ∧ running.scrubDebt 31 < 86400 * ((running.chan 31).scrubPosts + 1)) := by
  and_intros <;> decide +kernel

theorem wit_AdmissionsAndBundlesEnd :
    (let o : LongOp := { handle := 3, code := cAdmit, st := .running, par := res 16 4 256, input := List.replicate 256 0 }
     let s := withOp up o
     s.opReady o = true ∧ s.opReady { o with input := [] } = false ∧
     Awake s ∧ s.findOp (3 : BitVec 16).toNat = some o ∧ o.cancelling = false ∧ s.latenciesKnown = true ∧
     ({ s with disc := { s.disc with rl := none } } : State).latenciesKnown = false ∧ (admissionMap s.cfg s.stills).isSome = true ∧
     s.mayAdmit (bit (o.p 20 1) 0) = true ∧ badImage (s.staged o) = true ∧
     admissionMap s.cfg { s.stills with fenced := [0, 1, 2, 3, 4, 5] } = none) ∧
    (let o : LongOp := { handle := 3, code := cFwLoad, st := .running }
     let s := withOp up o
     s.findOp (3 : BitVec 16).toNat = some o ∧ s.opReady o = true ∧ (bundleFault s.cfg s.fuses (s.staged o) (s.staged o).length s.activeImages).isSome = true) ∧
    (let o : LongOp := { handle := 3, code := cRecoveryLoad, st := .running }
     let s := (withOp up o).modFw (fun w => { w with romMode := true })
     s.findOp (3 : BitVec 16).toNat = some o ∧ s.latenciesKnown = true ∧ s.opReady o = true ∧
     (bundleFault s.cfg s.fuses (s.staged o) (s.staged o).length []).isSome = true) := by
  and_intros <;> decide +kernel

theorem wit_EvalWindowAndRunStop : (Awake admitted ∧ admitted.formula.isSome = true ∧ admitted.atBoundary = true) ∧
    (let s := admitted.modRun (fun r => { r with eval := .requested true, stopping := true })
     s.run.eval = .requested true ∧ s.opConflict { handle := 0, code := cEvalOpen, st := .running } = false ∧ s.ops.length < 8 ∧
     s.run.stopping = true ∧ s.atBoundary = true) ∧
    ((admitted.modRun (fun r => { r with eval := .requested false })).run.eval = .requested false ∧ admitted.run.eval = .closed ∧
     admitted.run.stopping = false) ∧
    (let s := (withChan up 31 (fun c => { c with mode := .toMem, since := up.time - 120 })).modRun (fun r => { r with stopHold := some 7 })
     OnChannel s 31 ∧ s.run.stopHold = some 7 ∧ s.loan.isOpen = false ∧ s.fw.levelHold ≠ 1 ∧ s.fw.stage = [] ∧ (s.chan 31).mode = .toMem ∧
     (s.chan 31).since + 120 ≤ s.time ∧ (∀ j, j < channels s.cfg → j ≠ 31 → (s.chan j).mode = .mem) ∧
     (let two := withChan s 0 (fun c => { c with mode := .toMem })
      ∃ j, j < channels two.cfg ∧ j ≠ (31 : Fin 32).toNat ∧ (two.chan j).mode ≠ .mem)) := by
  and_intros <;> decide +kernel

/-! ### WellFormed: an ill-formed term for each check -/

theorem wf_fuse_reads : (Instr.romBoot { fuses := [], core0 := true, core1 := true }).wellFormed = false ∧
    (Instr.wrstNRelease { fuses := List.replicate 127 ⟨none, none, none⟩, core0 := true, core1 := true }).wellFormed = false := by decide +kernel

theorem wf_severity : (Instr.hostRead 0 0 0 0 3).wellFormed = false ∧ (Instr.hostRead 0 0 0 0 2).wellFormed = true := by decide

theorem wf_row_kind : (Instr.hostOtherRowCmd 0 6 0).wellFormed = false ∧ (Instr.hostOtherRowCmd 0 7 0).wellFormed = true := by decide

theorem wf_clock_check : (Instr.clockCheck (List.replicate 31 0)).wellFormed = false ∧
    (Instr.clockCheck (List.replicate 16 0)).wellFormed = true := by decide

theorem wf_word_address : (Instr.prefetchDone 0 0 (.corrected (2 ^ 34))).wellFormed = false ∧
    (Instr.blockCommit 0 0 (.uncorrectable (2 ^ 34))).wellFormed = false ∧ (Instr.patrolScrub 0 (.corrected (2 ^ 34)) true).wellFormed = false ∧
    (Instr.patrolScrub 0 (.corrected (2 ^ 34 - 1)) true).wellFormed = true := by decide

/-- A payload of 65,536 bytes, twice the longest half of it. -/
theorem wf_packet_length (l : List Byte) (h : l.length = 2 ^ 16) (p : Fin 2) :
    ∀ i ∈ [Instr.hello p ⟨0, l⟩, .helloAck p ⟨0, l⟩, .topo p ⟨0, l⟩, .scalarUp p ⟨0, l⟩, .scalarDown p ⟨0, l⟩, .contrib p ⟨0, l⟩,
      .flaconData p ⟨0, l⟩, .flaconAck p ⟨0, l⟩, .restoreData p ⟨0, l⟩, .mbxRelay p ⟨0, l⟩, .fenceNotice p ⟨0, l⟩], i.wellFormed = false := by
  simp [Instr.wellFormed, Packet.wellFormed, h]

/-! ### The manual's worked examples: numbers -/

/-- Table 2-4: 464, 465, 61,440 and 0.0009 as E4M3 and E5M2. -/
theorem test_e4m3_e5m2 :
    encodeVal Fp.e4m3 true (Fp.decode Fp.binary32 0x43E80000) = (0x7E, .none) ∧
    encodeVal Fp.e4m3 false (Fp.decode Fp.binary32 0x43E88000) = (0x7F, .overflow) ∧
    encodeVal Fp.e4m3 true (Fp.decode Fp.binary32 0x43E88000) = (0x7E, .saturated) ∧
    encodeVal Fp.e5m2 true (Fp.decode Fp.binary32 0x47700000) = (0x7B, .saturated) ∧
    encodeVal Fp.e5m2 false (Fp.decode Fp.binary32 0xFF800000) = (0xFC, .none) ∧
    encodeVal Fp.e4m3 true (Fp.decode Fp.binary32 0x3A6BEDFA) = (0x00, .flushed) ∧
    encodeVal Fp.e5m2 true (Fp.decode Fp.binary32 0x3A6BEDFA) = (0x13, .none) := by decide +kernel

/-- The LM8X-S block of 02_number_formats.md: 0.75, -0.5, 0.3125 and the outlier 96.0 at index 5. -/
theorem test_lm8x_block :
    (match blockFmt 0x20 with
     | some bf => let b := encodeBlock bf true (List.replicate 64 .nearest) ([0x3F400000, 0xBF000000, 0x3EA00000, 0, 0, 0x42C00000] ++ List.replicate 58 0)
                  (b.scale, b.codes.take 6)
     | none => (0, [])) = (0x42C04576, [0x7C, 0xF8, 0x72, 0, 0, 0]) := by decide +kernel

/-- The wide accumulator of 02_number_formats.md at W = 0: saturated, flushed, and the result 1.4375. -/
theorem test_wide_sum :
    wxTerm 0 (Fp.decode Fp.binary32 0x3FC00000) = (2 ^ 64 - 1, .saturated) ∧ wxTerm 0 (.fin false 1 (-70)) = (0, .flushed) ∧
    wxResult 0 (0x16FFFFFFFFFFFFFFF : Int) = (0x3FB80000, .none) ∧
    wxBytes 0x16FFFFFFFFFFFFFFF = [255, 255, 255, 255, 255, 255, 255, 0x6F, 1, 0, 0, 0] := by decide +kernel

/-- Stochastic rounding of 0x3F80_C000 to BF16 by Still words and by Atomizer bits (03_arithmetic.md). -/
theorem test_stochastic :
    encodeStoch Fp.bf16 true 24 32 0x50001234 (Fp.decode Fp.binary32 0x3F80C000) = (0x3F81, .none) ∧
    encodeStoch Fp.bf16 true 24 32 0x2FFFFFFF (Fp.decode Fp.binary32 0x3F80C000) = (0x3F80, .none) ∧
    encodeStoch Fp.binary32 true 24 32 0x80000000 (Fp.decode Fp.binary64 0x3FF0000010000001) = (0x3F800001, .none) ∧
    encodeStoch Fp.binary32 true 24 32 0x7FFFFFFF (Fp.decode Fp.binary64 0x3FF0000010000001) = (0x3F800000, .none) ∧
    encodeStoch Fp.bf16 true 8 8 0x40 (Fp.decode Fp.binary32 0x3F80C000) = (0x3F81, .none) ∧
    encodeStoch Fp.bf16 true 8 8 0x3F (Fp.decode Fp.binary32 0x3F80C000) = (0x3F80, .none) := by decide +kernel

/-- pow_fixed: 0.75 to the power 5, published as binary32 (03_arithmetic.md). -/
theorem test_pow_fixed : narrow (powFixed 0x3FE8000000000000 5) = 0x3E730000 ∧
    narrow (sub64 one64 (powFixed 0x3FE8000000000000 5)) = 0x3F434000 := by decide +kernel

/-- The scale exponent after maxima 3.1, 5.7, 0.02 and 4.4 with a margin of 1 is -5 (03_arithmetic.md). -/
theorem test_tensor_scale : nextScale { h := 4, margin := 1, kInit := 0, e5m2 := false }
    [Fp.widen Fp.binary32 Fp.binary64 0x408CCCCD, Fp.widen Fp.binary32 Fp.binary64 0x3CA3D70A, Fp.widen Fp.binary32 Fp.binary64 0x40B66666,
     Fp.widen Fp.binary32 Fp.binary64 0x40466666] 0 = -5 := by decide +kernel

/-- LAMB trust of norms 16 and 0.25, and the clip factor of 4 and 1 (04_stills_and_accords.md). -/
theorem test_phase_b_factors : lambTrust 0x4030000000000000 0x3FD0000000000000 = 0x4020000000000000 ∧
    clipFactor 0x4010000000000000 0 0x3FF0000000000000 = 0x3FE0000000000000 := by decide +kernel

/-- OA folds in rank order: 1.0, then twice 2^-24, each lost to a tie (05_intake_and_reduction.md). -/
theorem test_fold_in_rank_order :
    (let h := fun (r c : Nat) => ({ rank := r, chunk := 0, fmt := 0x30, scale := 0x3F800000, codes := [c] } : Held)
     let t : Slot := { step := 1, pages := 1, h := 3, k := 3, next := [0], acc := [0x80000000] }
     let u := ((t.give false (h 2 0x3380)).give false (h 1 0x3380)).give false (h 0 0x3F80)
     (u.next, u.held.length, u.acc)) = ([1], 2, [0x3F800000]) := by decide +kernel

/-! ### The manual's worked examples: layout, trees, words -/

/-- The stripes of a shard of 5,000 elements (04_stills_and_accords.md). -/
theorem test_stripes : stripeLen .izL 5000 = 768 ∧ stripeCount .izL 5000 6 = 392 ∧ stripeCount .izL 5000 7 = 0 ∧
    stripeLen .izS 5000 = 1280 ∧ stripeCount .izS 5000 3 = 1160 := by decide

/-- Table 5-7: the bulk tree of ten engines with owner 0x0102 and fan-in 4. -/
theorem test_bulk_tree :
    (let o := treeOrder [0xC0, 0xC1, 0xC2, 0xC3, 0x100, 0x101, 0x102, 0x103, 0x148, 0x149] 0x102
     treeChildren o 4 0x102 = [0x103, 0x148, 0x149, 0xC0] ∧ treeChildren o 4 0x103 = [0xC1, 0xC2, 0xC3, 0x100] ∧
     treeParent o 4 0x101 = some 0x148 ∧ treeParent o 4 0x102 = none) := by decide

/-- Table 5-9: the step status words of the skipped step 4,096. -/
theorem test_status_words : statusWord0 4096 15 true true = 0x030F000000001000 ∧ statusWord1 4096 2 true = 0x1000000000000002 := by
  decide +kernel

/-- Tables 7-6 and 6-2: element 20,000 of plane A stands in row 32, bank 4, column 28 of channel 1. -/
theorem test_element_address : columnAddr .izL 1 0 4 32 28 = stackAddr .izL 0 0x809C40 := by decide +kernel

/-- Table 8-4: the counter of GEI 1,003,000 at step 20,000 on stream 0x0100. -/
theorem test_sillage_counter : Sillage.counter 20000 0x0100 (1003000 / 4) = ⟨0x3D37E, 0, 0x4E200100, 0⟩ ∧
    Sillage.uni 0x80000000 = 0x3F000000 ∧ Sillage.uni 0xFFFFFF00 = 0x3F7FFFFF ∧ Sillage.uni 0xFF = 0 := by decide +kernel

/-- The LFSR from the seed 1 gives r = 0x80, then 0x00 (08_sillage.md). -/
theorem test_lfsr : Sillage.lfsrByte 1 = 0x80 ∧ Sillage.lfsrByte (Sillage.lfsrSteps 8 1) = 0 := by decide +kernel

/-! ### Single steps -/

/-- A doorbell after reset, before PD-MC is there, is an error (R333). -/
theorem test_doorbell_at_s0 : answers (exec (.keepalive 0 (rq 0)) { up with smp := {} }) (fun t => t.smp.err) = true := by decide +kernel

/-- A KEEPALIVE answers OK with its CODE and SEQ and becomes the last of its sequence (Table 12-8). -/
theorem test_keepalive : answers (exec (.keepalive 0 (rq 0)) up) (fun t =>
      decide (field (t.mbx 0).rsp.toNat 0 48 = 0x0004 + 1 * 2 ^ 16 ∧ (t.mbx 0).last = 1 ∧ (t.mbx 0).rspValid = true)) = true := by decide +kernel

/-- A masked write of the host stores the bytes that the mask selects (R299). -/
theorem test_masked_write : answers (exec (.hostWrite 0 0 0 0 (BitVec.ofNat 256 0x0403020100) 0x12 false)
      (State.reset.modChan 0 (fun c => { c with rows := [(0, 0, 0)] }))) (fun t =>
      decide (t.dramBytes 0 6 = [0, 1, 0, 0, 4, 0])) = true := by decide +kernel

/-- A channel that leaves TRANSIT for PROC owes the catch-up refreshes of the stack (Table 1-5). -/
theorem test_transit_end : answers (exec (.transitEnd 5 false) (withChan running 5 (fun c => { c with mode := .toProc, since := running.time - 120 }))) (fun t =>
      decide ((t.chan 5).mode = .proc ∧ (t.chan 5).catchup = 8)) = true := by decide +kernel

/-- A block commit copies P to D and the pass flips the readiness word (Table 4-18, R115). -/
theorem test_decant_pass : answers (exec (.blockCommit 0 0 .clean)
      (inPass { shard := 0, phase := 0, step := 1, started := true, stripes := [{ still := 0, pre := .clean, buffer := [(0, [0, 0, 128, 63], [])] }] })) (fun t =>
      decide (t.dramBytes (stackAddr .izL 0 6144) 4 = [0, 0, 128, 63] ∧ (t.shard 0).ready.version = 1 ∧ t.stills.pos.getD 0 (0, 0) = (0, 2))) = true := by decide +kernel

/-- A gap in SEQ fences the link (R256). -/
theorem test_sequence_gap : answers (exec (.scalarUp 0 (stampPacket (peerPacket 0x04 (List.replicate 32 0)) 1 [0, 0, 0])) (linked upLink)) (fun t =>
      decide ((t.link 0).st = .fenced)) = true := by decide +kernel

/-- The second health failure of a power cycle fences the entropy source (R239). -/
theorem test_entropy_second_failure : answers (exec (.entropyFail true) { up with entropy := { ready := true, failures := 1 } }) (fun t =>
      decide (t.entropy.fenced = true ∧ t.entropy.ready = false)) = true := by decide +kernel

/-- A pop of an empty queue, and a command on a channel that IZ-S does not have. -/
theorem test_no_such_unit : exec (.scrubDebt 16) { up with cfg := .izS } = .fault .noSuchUnit := by
  rw [show exec (.scrubDebt 16) { up with cfg := .izS } = _ from rfl]; rfl

end Sys2Proof.Tests
end

section
/-! Proof of O27: host commands to a channel whose CH_OWN is 1 (R20, R304), and to banks whose claim has ended (R302). -/

namespace Sys2Proof.Machine

open Sys2Proof.Bits

/-! ### Error records -/

/-- Placing a record writes the Blotter at most. -/
theorem State.blot_writes (s : State) (r : List Byte) : ∃ b, s.blot r = { s with blotter := b } := by
  unfold State.blot
  split
  · exact ⟨_, rfl⟩
  · exact ⟨s.blotter, rfl⟩

/-- An error writes the error log, the event queue of the management port and the Blotter at most (R379). -/
theorem State.error_writes (s : State) (e : ErrSpec) : ∃ l m b, s.error e = { s with log := l, smp := m, blotter := b } := by
  simp only [State.error]
  split_ifs
  · exact ⟨_, s.smp, s.blotter, rfl⟩
  · obtain ⟨b, hb⟩ := State.blot_writes _ _
    exact ⟨_, _, b, hb⟩
  · exact ⟨_, _, s.blotter, rfl⟩

/-! ### Commands to an owned channel -/

theorem chOwn_of_mode_ne_mem {c : Channel} (h : c.mode ≠ .mem) : chOwn c = true := by simpa [chOwn] using h

/-- Neither the configuration, the queue nor PORST_N changes when a command to an owned channel is booked. -/
@[simp] theorem hold_owned (s : State) (ch num arg : Nat) : s.hold (s.owned ch num arg) = s.owned ch num arg := by
  obtain ⟨l, m, b, h⟩ : ∃ l m b, s.owned ch num arg = _ := State.error_writes _ _
  rw [h]
  rfl

@[simp] theorem hold_ownedRead (s : State) (ch : Nat) : s.hold (s.ownedRead ch) = s.ownedRead ch :=
  congrArg (fun t : State => { t with out := { ch := ch, rdata := BitVec.allOnes 256, rvalid := true, rsev := 2 } }) (hold_owned s ch 1 0)

/-! ### Marks -/

theorem bankRow_append (l m : List (Nat × Nat × Nat)) (pc bank : Nat) :
    bankRow (l ++ m) pc bank = (bankRow l pc bank).or (bankRow m pc bank) := by
  simp [bankRow, Option.map_or]

theorem bankRow_marks_of_not_marked {c : Channel} {pc bank : Nat} (h : c.marked pc bank = false) : bankRow c.marks pc bank = none := by
  simp only [Channel.marked, Bool.or_eq_false_iff, Option.isSome_eq_false_iff, Option.isNone_iff_eq_none] at h
  exact h.1

/-- A mark whose claim ends stays a mark (R302). -/
@[simp] theorem Channel.endClaims_marked (c : Channel) (pc bank : Nat) : c.endClaims.marked pc bank = c.marked pc bank := by
  simp [Channel.marked, Channel.endClaims, bankRow_append, Bool.or_comm, show bankRow [] pc bank = none from rfl]

/-! ### The end of an admission and the channels -/

/-- Operations that each keep the channels keep them together. -/
theorem eachIn_chans {α : Type} (f : State → α → State) (h : ∀ s a, (f s a).chans = s.chans) (l : List α) (s : State) :
    (eachIn l f s).chans = s.chans := by
  induction l generalizing s with
  | nil => rfl
  | cons a l ih => exact (ih (f s a)).trans (h s a)

@[simp] theorem State.leave_chans (s : State) (v : Via) (k : Packet) : (s.leave v k).chans = s.chans := by
  cases v with
  | carried => rfl
  | link p =>
    simp only [State.leave]
    split <;> rfl

@[simp] theorem State.egressLeave_chans (s : State) : s.egressLeave.chans = s.chans :=
  eachIn_chans (fun s (h : HeldPkt) => s.leave h.via h.pkt) (fun s h => s.leave_chans h.via h.pkt) s.fabric.egrHeld s

@[simp] theorem State.topoIfChanged_chans (s : State) : s.topoIfChanged.chans = s.chans := by
  simp only [State.topoIfChanged]
  split
  · rfl
  · exact eachIn_chans State.sendTopo (fun _ _ => rfl) _ s

/-- Of the channels, the end of an admission changes the marks alone. -/
theorem State.endAdmission_chans (s : State) : s.endAdmission.chans = mapV Channel.endClaims s.chans := by
  simp [State.endAdmission]

theorem State.endAdmission_chan (s : State) (ch : Fin 32) : s.endAdmission.chan ch = (s.chan ch).endClaims := by
  rw [State.chan, State.endAdmission_chans]
  exact getV_mapV s.chans ch Channel.endClaims {} ch.isLt

/-! ### Each host command to an owned channel or an ended claim -/

section
variable {s : State} {ch : Fin 32} {pc : Fin 2} {bank : Fin 32}

/-- A read of a bank with no live mark, on an owned channel or where a claim has ended (R20, R302). -/
theorem exec_hostRead_owned (hp : Ported s ch) (hn : bankRow (s.chan ch).marks pc bank = none)
    (ho : ((s.chan ch).marked pc bank || chOwn (s.chan ch)) = true) (col : Fin 32) (sev : BitVec 2) :
    exec (.hostRead ch pc bank col sev) s = .next (s.ownedRead ch) := by
  simp only [exec, execHostRead, onPort_open _ _ _ hp, hn, ho, if_true, hold_ownedRead]

theorem exec_hostWrite_owned (hp : Ported s ch) (hn : bankRow (s.chan ch).marks pc bank = none)
    (ho : ((s.chan ch).marked pc bank || chOwn (s.chan ch)) = true) (col : Fin 32) (data : BitVec 256) (mask : Word32) (pois : Bool) :
    exec (.hostWrite ch pc bank col data mask pois) s = .next (s.owned ch 2 1) := by
  simp only [exec, execHostWrite, onPort_open _ _ _ hp, State.hostWrite, hn, ho, if_true, hold_owned]

theorem exec_hostPre_owned (hp : Ported s ch) (hm : (s.chan ch).marked pc bank = false) (ho : chOwn (s.chan ch) = true) :
    exec (.hostPre ch pc bank) s = .next (s.owned ch 4 3) := by
  simp [exec, execHostPre, onPort_open _ _ _ hp, hm, ho]

theorem exec_hostAct_owned (hp : Ported s ch) (row : BitVec 16) (hc : s.claims ch pc bank row.toNat = false)
    (ho : chOwn (s.chan ch) = true) : exec (.hostAct ch pc bank row) s = .next (s.owned ch 4 3) := by
  simp [exec, execHostAct, onPort_open _ _ _ hp, hc, ho]

theorem exec_hostRefresh_owned (hp : Ported s ch) (ho : chOwn (s.chan ch) = true) (all : Bool) :
    exec (.hostRefresh ch pc bank all) s = .next (s.owned ch 3 2) := by
  simp only [exec, execHostRefresh, onPort_open _ _ _ hp, ho, if_true, hold_owned]

theorem exec_hostMrs_owned (hp : Ported s ch) (ho : chOwn (s.chan ch) = true) (arg : Mrs) :
    exec (.hostMrs ch arg) s = .next (s.owned ch 4 3) := by
  simp only [exec, execHostMrs, onPort_open _ _ _ hp, State.hostMrs, ho, if_true, hold_owned]

theorem exec_hostOtherRowCmd_owned (hp : Ported s ch) (ho : chOwn (s.chan ch) = true) (kind : BitVec 4) (hk : 7 ≤ kind.toNat) :
    exec (.hostOtherRowCmd ch kind pc) s = .next (s.owned ch 4 3) := by
  have hk : otherRowKind kind = true := decide_eq_true hk
  simp only [exec, execHostOtherRowCmd, onPort_open _ _ _ hp, when, hk, ho, if_true, hold_owned]

/-- A PREA to an owned channel clears the marks of its pseudo-channel, those of ended claims too, and is not counted (R304). -/
theorem exec_hostPrea_owned (hp : Ported s ch) (ho : chOwn (s.chan ch) = true) :
    exec (.hostPrea ch pc) s = .next ((s.suppress ch).modChan ch
      (fun c => { c with marks := dropPc c.marks pc, stale := dropPc c.stale pc })) := by
  simp only [exec, execHostPrea, onPort_open _ _ _ hp, ho, if_true]
  rfl

end

/-- Settles O27. A command to an owned channel is booked by `State.owned`; a mark whose claim has ended is a mark still, but no live one,
so a read of its bank is answered as on an owned channel. -/
theorem ownedChannelsAndEndedClaims : Obligations.OwnedChannelsAndEndedClaims := by
  unfold Obligations.OwnedChannelsAndEndedClaims
  constructor
  · intro s ch pc bank hp hmode
    have ho := chOwn_of_mode_ne_mem hmode
    refine ⟨fun hm => ?_, fun row hc => exec_hostAct_owned hp row hc ho, exec_hostRefresh_owned hp ho, exec_hostMrs_owned hp ho,
      exec_hostOtherRowCmd_owned hp ho, exec_hostPrea_owned hp ho⟩
    have hn := bankRow_marks_of_not_marked hm
    have hany : ((s.chan ch).marked pc bank || chOwn (s.chan ch)) = true := by simp [ho]
    exact ⟨exec_hostRead_owned hp hn hany, exec_hostWrite_owned hp hn hany, exec_hostPre_owned hp hm ho⟩
  · intro s ch pc bank hp
    rw [State.endAdmission_chan]
    exact ⟨⟨(Channel.endClaims_marked _ _ _).symm, rfl⟩, fun hn hm => exec_hostRead_owned hp hn (by simp [hm])⟩

end Sys2Proof.Machine
end

section
/-! Proof of O28: the address map of R159 and Table 6-2. A stack address is a channel group and a channel-group address, from which both
are read back; the bytes of a column access are consecutive in both. -/

namespace Sys2Proof.Machine

/-! ### Stack addresses and channel-group addresses -/

/-- The channel groups cover the channels, four to a group. -/
theorem group_lt_of_channel {c : Cfg} {ch : Nat} (h : ch < channels c) : ch / 4 < 2 ^ gBits c := by
  cases c <;> simp only [channels, gBits] at h ⊢ <;> omega

/-- The channel group is read back from a stack address. -/
theorem groupOf_stackAddr {c : Cfg} {k : Nat} (hk : k < 2 ^ gBits c) (a : Nat) : groupOf c (stackAddr c k a) = k := by
  cases c <;> simp only [groupOf, stackAddr, gBits] at hk ⊢ <;> omega

/-- The channel-group address is read back from a stack address. -/
theorem cgAddr_stackAddr {c : Cfg} {k : Nat} (hk : k < 2 ^ gBits c) (a : Nat) : cgAddr c (stackAddr c k a) = a := by
  cases c <;> simp only [cgAddr, stackAddr, gBits] at hk ⊢ <;> omega

/-- A stack address whose channel-group address is given by its bits [7:0] and the rest. -/
theorem stackAddr_of_low (c : Cfg) (k : Nat) {y : Nat} (hy : y < 256) (q : Nat) :
    stackAddr c k (y + 256 * q) = y + 256 * k + q * 2 ^ (8 + gBits c) := by
  have hlow : (y + 256 * q) % 256 = y := by omega
  have hhigh : (y + 256 * q) / 256 = q := by omega
  rw [stackAddr, hlow, hhigh, Nat.mul_comm k]

/-! ### Bytes of a column access -/

section
variable {pc sub b : Nat} (hpc : pc < 2) (hsub : sub < 4) (hb : b < 32)

/-- Table 6-2: BYTE, PC and CH are bits [7:0] of the channel-group address; COL, BANK and ROW stand above. -/
theorem cgOf_add_byte (pc sub b col bank row : Nat) :
    cgOf pc sub col bank row + b = (b + 32 * pc + 64 * sub) + 256 * (col + 32 * bank + 1024 * row) := by
  simp only [cgOf]
  omega

include hpc hsub hb

/-- BYTE, PC and CH fill at most bits [7:0]. -/
theorem byte_pc_sub_lt : b + 32 * pc + 64 * sub < 256 := by omega

/-- CH is read back from the channel-group address of a byte. -/
theorem chanOf_cgOf_add_byte (k col bank row : Nat) : chanOf k (cgOf pc sub col bank row + b) = 4 * k + sub := by
  rw [cgOf_add_byte, chanOf]
  omega

end

section
variable {c : Cfg} {ch pc b : Nat} (hpc : pc < 2) (hb : b < 32)
include hpc hb

/-- The place of a byte of a column access in the stack (R159 with Table 6-2). -/
theorem stackAddr_cgOf_add_byte (bank row col : Nat) : stackAddr c (ch / 4) (cgOf pc (ch % 4) col bank row + b) =
    b + 32 * pc + 64 * (ch % 4) + 256 * (ch / 4) + (col + 32 * bank + 1024 * row) * 2 ^ (8 + gBits c) := by
  have hsub : ch % 4 < 4 := Nat.mod_lt _ (by decide)
  rw [cgOf_add_byte, stackAddr_of_low c (ch / 4) (byte_pc_sub_lt hpc hsub hb)]

/-- Byte b of a column access stands b addresses above byte 0. -/
theorem columnAddr_add_byte (bank row col : Nat) :
    columnAddr c ch pc bank row col + b = stackAddr c (ch / 4) (cgOf pc (ch % 4) col bank row + b) := by
  have hzero := stackAddr_cgOf_add_byte (c := c) (ch := ch) hpc (b := 0) (by decide) bank row col
  rw [Nat.add_zero, Nat.zero_add] at hzero
  rw [columnAddr, stackAddr_cgOf_add_byte hpc hb, hzero]
  omega

end

/-- Settles O28. A byte of a column access stands at the stack address of its channel-group address (`columnAddr_add_byte`), so the group
and the channel-group address read back from it are the ones it was formed from. -/
theorem addressMap : Obligations.AddressMap := by
  unfold Obligations.AddressMap
  intro c ch pc bank row col b hch hpc _ _ hb
  have hk : ch / 4 < 2 ^ gBits c := group_lt_of_channel hch
  have hsub : ch % 4 < 4 := Nat.mod_lt _ (by decide)
  simp only [columnAddr_add_byte hpc hb, groupOf_stackAddr hk, cgAddr_stackAddr hk]
  refine ⟨stackAddr_cgOf_add_byte hpc hb bank row col, trivial, trivial, ?_⟩
  rw [chanOf_cgOf_add_byte hpc hsub hb, Nat.div_add_mod]

end Sys2Proof.Machine
end

section
/-! Proof of O30: the timebase and its latch (R330), reads of SMP registers (R306), the event queue (R343) and SM_IRQ (R307). -/

namespace Sys2Proof.Machine

open Sys2Proof.Bits

/-! ### Accesses to the management port -/

/-- An access to an engine that takes commands is answered: the port is open. -/
theorem act_when_smpOpen {s : State} (h : Awake s) (f : State → State) :
    act s (fun s => when s.smpOpen f s) = .next (s.hold (f s)) := by
  have hopen : s.smpOpen = true := by simp [State.smpOpen, h.2]
  simp only [act_awake s _ h, when, hopen, if_true]

theorem hold_answer (s : State) (d : Nat) (e : Bool) : s.hold (s.answer d e) = s.answer d e := rfl

/-- The registers of the management port are none of what a command keeps. -/
theorem hold_modSmp_answer (s : State) (f : Smp → Smp) (d : Nat) (e : Bool) :
    s.hold ((s.modSmp f).answer d e) = (s.modSmp f).answer d e := rfl

/-! ### Reads of registers -/

/-- Every register but SM_EGR_ACK lies in PD-AON (Table 12-1). -/
theorem regPowered_of_ne_egrAck (s : State) {r : SmpReg} (h : r ≠ .egrAck) : regPowered s r = true := by
  cases r with
  | egrAck => exact absurd rfl h
  | _ => rfl

theorem State.readReg_of_none (s : State) {addr : Nat} (h : smpReg addr = none) : s.readReg addr = s.answer 0 true := by
  simp only [State.readReg, h]

theorem State.readReg_of_unpowered (s : State) {addr : Nat} {r : SmpReg} (h : smpReg addr = some r) (hp : regPowered s r = false) :
    s.readReg addr = s.answer 0 true := by
  simp only [State.readReg, h, hp, Bool.false_eq_true, if_false]

theorem State.readReg_of_powered (s : State) {addr : Nat} {r : SmpReg} (h : smpReg addr = some r) (hp : regPowered s r = true) :
    s.readReg addr = s.answer (regValue s r) false := by
  simp only [State.readReg, h, hp, if_true]

theorem regValue_timeLo (s : State) : regValue s .timeLo = s.time % 2 ^ 32 := rfl

/-- The latch of SM_TIME_HI leaves the timebase whose low word is read. -/
theorem exec_smTimeLoRead_awake {s : State} (h : Awake s) : exec .smTimeLoRead s = .next
    ((s.modSmp (fun m => { m with timeHi := BitVec.ofNat 32 (s.time / 2 ^ 32) })).answer (s.time % 2 ^ 32) false) := by
  have hreg : smpReg 0x10 = some .timeLo := rfl
  simp only [exec, execSmTimeLoRead, act_when_smpOpen h, State.readReg_of_powered _ hreg rfl, regValue_timeLo, State.modSmp_time,
    hold_modSmp_answer]

/-! ### The event queue -/

theorem Smp.post_of_room (m : Smp) (e : Event) (h : m.events.length < 256) : m.post e = { m with events := m.events ++ [e] } := if_pos h

theorem Smp.post_of_full (m : Smp) (e : Event) (h : 256 ≤ m.events.length) :
    m.post e = { m with dropped := min (m.dropped + 1) 65535 } := if_neg (Nat.not_lt.mpr h)

theorem State.popEvent_of_none_dropped (s : State) (h : s.smp.dropped = 0) :
    s.popEvent = s.modSmp (fun m => { m with events := m.events.drop 1 }) := if_pos h

/-- The room that the head event leaves is what EVQ_OVERFLOW takes (R343). -/
theorem State.popEvent_of_dropped (s : State) (h : s.smp.dropped ≠ 0) (hlen : s.smp.events.length ≤ 256) (hne : s.smp.events ≠ []) :
    s.popEvent = s.modSmp (fun m => { m with
      events := m.events.drop 1 ++ [mkEvent 0x0003 6 7 s.smp.dropped 0 0 s.time], dropped := 0 }) := by
  have hroom : (s.smp.events.drop 1).length < 256 := by
    have := List.length_pos_iff.mpr hne
    rw [List.length_drop]
    omega
  rw [State.popEvent, if_neg h]
  exact congrArg (fun m => { s with smp := m }) (Smp.post_of_room { s.smp with events := s.smp.events.drop 1, dropped := 0 } _ hroom)

section
variable {s : State} (h : Awake s) (w : Word32)
include h

theorem exec_smEvqPop_awake :
    exec (.smEvqPop w) s = .next (s.hold ((if w.toNat.testBit 0 then s.popEvent else s).answer 0 (reservedBits .evqPop w.toNat))) :=
  act_when_smpOpen h _

theorem exec_smIrqMaskWrite_awake : exec (.smIrqMaskWrite w) s = .next
    ((s.modSmp (fun m => { m with irqMask := BitVec.ofNat 7 w.toNat })).answer 0 (reservedBits .irqMask w.toNat)) :=
  act_when_smpOpen h _

end

/-- SM_IRQ is 1 exactly while an event whose category has its mask bit set is queued (R307). -/
theorem smIrq_iff (s : State) : smIrq s = true ↔ ∃ e ∈ s.smp.events, s.smp.irqMask.toNat.testBit (eventCat e) = true :=
  List.any_eq_true

/-- Settles O30. Each access is answered by an open port (`act_when_smpOpen`); a pop with events discarded leaves room for EVQ_OVERFLOW
(`State.popEvent_of_dropped`). -/
theorem timeEventsInterrupts : Obligations.TimeEventsInterrupts := by
  unfold Obligations.TimeEventsInterrupts
  refine ⟨fun s h => exec_smTimeLoRead_awake h, fun s addr => ⟨?_, ?_⟩, ⟨fun s w h => ⟨?_, ?_, ?_⟩, fun m e => ?_⟩, fun s w h => ?_⟩
  · rintro (hnone | ⟨hack, hoff⟩)
    · exact s.readReg_of_none hnone
    · exact s.readReg_of_unpowered hack hoff
  · intro r hr hne
    exact s.readReg_of_powered hr (regPowered_of_ne_egrAck s hne)
  · intro hpop hzero
    rw [exec_smEvqPop_awake h, if_pos hpop, s.popEvent_of_none_dropped hzero, hold_modSmp_answer]
  · intro hpop hdrop hlen hne
    rw [exec_smEvqPop_awake h, if_pos hpop, s.popEvent_of_dropped hdrop hlen hne, hold_modSmp_answer]
  · intro hkeep
    rw [exec_smEvqPop_awake h, hkeep, if_neg Bool.false_ne_true, hold_answer]
  · exact ⟨m.post_of_room e, m.post_of_full e⟩
  · exact ⟨exec_smIrqMaskWrite_awake h w, smIrq_iff s⟩

end Sys2Proof.Machine
end

section
/-! Proof of O35 and O3: the shapes of the meanings. Every command is taken by the engine or at a host port, or is one of the pins that
work while the manual makes no promise for the rest. -/

namespace Sys2Proof.Machine

/-- The commands at the host ports, which the bypass serves whatever PORST_N is (R299, R319). -/
def atHostPort : Instr → Bool
  | .hostAct _ _ _ _ | .hostRead _ _ _ _ _ | .hostWrite _ _ _ _ _ _ _ | .hostPre _ _ _ | .hostPrea _ _ | .hostRefresh _ _ _ _
  | .hostMrs _ _ | .hostOtherRowCmd _ _ _ => true
  | _ => false

/-- The commands of PORST_N and of the wrapper, whose meanings have shapes of their own (R313, R319). -/
def atPins : Instr → Bool
  | .porstNAssert | .porstNRelease _ | .wrapperInstruction _ | .wrstnAssert => true
  | _ => false

/-- A unit that is numbered beyond the configuration's count is the one that does not exist. -/
theorem fault_beyond (n k : Nat) (r : Res) :
    (if n ≤ k then .fault .noSuchUnit else r) = if decide (k < n) = true then r else .fault .noSuchUnit := by
  by_cases h : k < n
  · simp [h, Nat.not_le.mpr h]
  · simp [h, Nat.not_lt.mp h]

/-- The meaning of a command at a host port. -/
theorem exec_atHostPort (c : Instr) (s : State) (h : atHostPort c = true) :
    ∃ f, exec c s = if unitExists s.cfg c = true then port s f else .fault .noSuchUnit := by
  cases c with
  | hostAct ch _ _ _ | hostRead ch _ _ _ _ | hostWrite ch _ _ _ _ _ _ | hostPre ch _ _ | hostPrea ch _ | hostRefresh ch _ _ _
  | hostMrs ch _ | hostOtherRowCmd ch _ _ => exact ⟨_, fault_beyond _ ch.toNat _⟩
  | _ => cases h

/-- The meaning of every other command but those of the pins. -/
theorem exec_of_engine (c : Instr) (s : State) (hport : atHostPort c = false) (hpins : atPins c = false) :
    ∃ f, exec c s = if unitExists s.cfg c = true then act s f else .fault .noSuchUnit := by
  cases c with
  | hostAct _ _ _ _ | hostRead _ _ _ _ _ | hostWrite _ _ _ _ _ _ _ | hostPre _ _ _ | hostPrea _ _ | hostRefresh _ _ _ _ | hostMrs _ _
  | hostOtherRowCmd _ _ _ => cases hport
  | porstNAssert | porstNRelease _ | wrapperInstruction _ | wrstnAssert => cases hpins
  | segmentBoundary ch | transitEnd ch _ | catchupRefreshDone ch | refreshTick ch _ _ | atmSegmentStart ch | atmGo ch _ | bucketRefill ch
  | atmDone ch _ | atmRpt ch _ | atmErr ch _ | atmKeyOkFall ch | microcodeBankSwitch ch | csqFault ch _ | scrubDebt ch
  | patrolScrub ch _ _ => exact ⟨_, fault_beyond _ ch.toNat _⟩
  | hello p _ | helloAck p _ | topo p _ | scalarUp p _ | scalarDown p _ | contrib p _ | flaconData p _ | flaconAck p _ | restoreData p _
  | mbxRelay p _ | fenceNotice p _ | packetTransmit p | discoverTimer p | heartbeatSend p | heartbeatCheck p | creditHelloTimer p
  | pptLinkUp p | pptLinkDown p | pptErr p => exact ⟨_, fault_beyond _ p.toNat _⟩
  | prefetch k _ | prefetchDone k _ _ | blockCommit k _ _ | stillTakeover k => exact ⟨_, fault_beyond _ k.toNat _⟩
  | laneError i => exact ⟨_, fault_beyond _ i.toNat _⟩
  | pwrAckRise d | generatorLock d | lockLoss d | pwrAckFall d | powerDownRequest d | pwrAckSlow d => exact ⟨_, rfl⟩
  | _ => exact ⟨_, rfl⟩

/-- The pins are no unit of the configuration. -/
theorem unitExists_of_atPins (cfg : Cfg) {c : Instr} (h : atPins c = true) : unitExists cfg c = true := by
  cases c with
  | porstNAssert | porstNRelease _ | wrapperInstruction _ | wrstnAssert => rfl
  | _ => cases h

/-! ### What act and port answer -/

theorem port_testing (s : State) (f : State → State) (h : s.testing = true) : port s f = .refused .noPromise := by simp [port, h]

theorem act_completes (s : State) (f : State → State) (h : s.testing = false) : ∃ t, act s f = .next t := by
  cases hp : s.porst
  · exact ⟨_, act_awake s f ⟨h, hp⟩⟩
  · exact ⟨_, act_porst s f h hp⟩

/-- An engine command that completes leaves what `State.hold` holds. -/
theorem act_next_holds {s t : State} {f : State → State} (h : act s f = .next t) :
    t.pending = s.pending ∧ t.cfg = s.cfg ∧ t.porst = s.porst := by
  unfold act at h
  split_ifs at h <;> cases h <;> exact ⟨rfl, rfl, rfl⟩

theorem port_next_holds {s t : State} {f : State → State} (h : port s f = .next t) :
    t.pending = s.pending ∧ t.cfg = s.cfg ∧ t.porst = s.porst := by
  unfold port at h
  split_ifs at h
  cases h
  exact ⟨rfl, rfl, rfl⟩

/-! ### The pins -/

theorem exec_wrapperInstruction_holds {s t : State} {code : BitVec 4} (h : exec (.wrapperInstruction code) s = .next t) :
    t.pending = s.pending ∧ t.cfg = s.cfg ∧ t.porst = s.porst := by
  change execWrapperInstruction code s = .next t at h
  simp only [execWrapperInstruction] at h
  split_ifs at h <;> cases h <;> exact ⟨rfl, rfl, rfl⟩

theorem exec_wrapperInstruction_completes (s : State) (code : BitVec 4) : ∃ t, exec (.wrapperInstruction code) s = .next t := by
  change ∃ t, execWrapperInstruction code s = .next t
  simp only [execWrapperInstruction]
  split_ifs <;> exact ⟨_, rfl⟩

theorem exec_porstNAssert_running (s : State) (h : s.testing = false) : ∃ t, exec .porstNAssert s = .next t := by
  simp [exec, execPorstNAssert, h]

theorem exec_porstNRelease_running (s : State) (pos : BitVec 3) (h : s.testing = false) : ∃ t, exec (.porstNRelease pos) s = .next t := by
  simp [exec, execPorstNRelease, h]

/-- While a test instruction is in effect the rows of PORST_N are refused as well. -/
theorem exec_porst_testing (s : State) (h : s.testing = true) :
    exec .porstNAssert s = .refused .noPromise ∧ ∀ pos, exec (.porstNRelease pos) s = .refused .noPromise := by
  simp [exec, execPorstNAssert, execPorstNRelease, h]

/-- Settles O35. Each command is a `port` or an `act` on a unit that exists, a fault on one that does not (`exec_atHostPort`,
`exec_of_engine`), or one of the pins. -/
theorem everyCommandCompletes : Obligations.EveryCommandCompletes := by
  unfold Obligations.EveryCommandCompletes
  intro c s
  cases hport : atHostPort c
  case true =>
    obtain ⟨f, hf⟩ := exec_atHostPort c s hport
    refine ⟨fun hu => by simp [hf, hu], fun hu ht => ⟨_, by rw [hf, if_pos hu, port_open s f ht]⟩,
      fun hu ht _ _ => by rw [hf, if_pos hu, port_testing s f ht], ?_⟩
    rintro (rfl | ⟨code, rfl⟩) <;> cases hport
  case false =>
    cases hpins : atPins c
    case false =>
      obtain ⟨f, hf⟩ := exec_of_engine c s hport hpins
      refine ⟨fun hu => by simp [hf, hu], fun hu ht => by rw [hf, if_pos hu]; exact act_completes s f ht,
        fun hu ht _ _ => by rw [hf, if_pos hu, act_testing s f ht], ?_⟩
      rintro (rfl | ⟨code, rfl⟩) <;> cases hpins
    case true =>
      refine ⟨fun hu => absurd (unitExists_of_atPins s.cfg hpins) (by simp [hu]), fun _ ht => ?_, fun _ ht hw hi => ?_, ?_⟩
      · cases c with
        | porstNAssert => exact exec_porstNAssert_running s ht
        | porstNRelease pos => exact exec_porstNRelease_running s pos ht
        | wrapperInstruction code => exact exec_wrapperInstruction_completes s code
        | wrstnAssert => exact ⟨_, rfl⟩
        | _ => cases hpins
      · cases c with
        | porstNAssert => exact (exec_porst_testing s ht).1
        | porstNRelease pos => exact (exec_porst_testing s ht).2 pos
        | wrapperInstruction code => exact absurd rfl (hi code)
        | wrstnAssert => exact absurd rfl hw
        | _ => cases hpins
      · rintro (rfl | ⟨code, rfl⟩)
        · exact ⟨_, rfl⟩
        · exact exec_wrapperInstruction_completes s code

/-- Settles O3. What `act` and `port` answer holds the queue, the configuration and PORST_N; the pins are looked at one by one. -/
theorem commandsKeepQueueAndConfiguration : Obligations.CommandsKeepQueueAndConfiguration := by
  unfold Obligations.CommandsKeepQueueAndConfiguration
  intro c s t h
  have holds (hk : t.pending = s.pending ∧ t.cfg = s.cfg ∧ t.porst = s.porst) : t.pending = s.pending ∧ t.cfg = s.cfg ∧
      ((c ≠ .porstNAssert ∧ ∀ pos, c ≠ .porstNRelease pos) → t.porst = s.porst) := ⟨hk.1, hk.2.1, fun _ => hk.2.2⟩
  cases hport : atHostPort c
  case true =>
    obtain ⟨f, hf⟩ := exec_atHostPort c s hport
    rw [hf] at h
    split_ifs at h
    exact holds (port_next_holds h)
  case false =>
    cases hpins : atPins c
    case false =>
      obtain ⟨f, hf⟩ := exec_of_engine c s hport hpins
      rw [hf] at h
      split_ifs at h
      exact holds (act_next_holds h)
    case true =>
      cases c with
      | porstNAssert =>
        simp only [exec, execPorstNAssert] at h
        split_ifs at h
        cases h
        exact ⟨rfl, rfl, fun hne => absurd rfl hne.1⟩
      | porstNRelease pos =>
        simp only [exec, execPorstNRelease, when] at h
        split_ifs at h <;> cases h <;> exact ⟨rfl, rfl, fun hne => absurd rfl (hne.2 pos)⟩
      | wrapperInstruction code => exact holds (exec_wrapperInstruction_holds h)
      | wrstnAssert => cases h; exact holds ⟨rfl, rfl, rfl⟩
      | _ => cases hpins

end Sys2Proof.Machine
end

section
/-! Proof of O4: while PORST_N is 0 every unit but the bypass and the wrapper is in reset (R319). `Resting` says what HeldInReset says, in a
form that every write of the bypass keeps by rfl. -/

namespace Sys2Proof.Machine

open Sys2Proof.Bits

/-! ### Vectors of channels -/

theorem getV_mapIdxV {α : Type} {n : Nat} (v : Vector α n) (i : Nat) (f : α → Nat → α) (d : α) (h : i < n) :
    getV (mapIdxV f v) i d = f (getV v i d) i := by
  simp [getV, mapIdxV, List.getD_eq_getElem?_getD, h]

theorem getV_replicate {α : Type} (n i : Nat) (a : α) : getV (Vector.replicate n a) i a = a := by
  simp [getV, List.getD_eq_getElem?_getD, List.getElem?_replicate]
  split <;> rfl

/-- Two collections that agree at every index are one. -/
theorem ext_getV {α : Type} {n : Nat} (v w : Vector α n) (d : α) (h : ∀ i < n, getV v i d = getV w i d) : v = w := by
  apply Vector.ext
  intro i hi
  simpa [getV, List.getD_eq_getElem?_getD, hi] using h i hi

theorem reset_chan (i : Nat) : State.reset.chan i = {} := getV_replicate 32 i ({} : Channel)

/-! ### The units in reset -/

/-- A state with what the bypass and the wrapper keep working replaced by what reset gives it. -/
def State.withoutBypass (s : State) : State :=
  { s with cfg := State.reset.cfg, pending := State.reset.pending, free := State.reset.free, wir := State.reset.wir, out := State.reset.out,
           dram := State.reset.dram, poisonWords := State.reset.poisonWords, clocks := State.reset.clocks, chans := State.reset.chans }

/-- Every unit but the bypass and the wrapper is in reset: of a channel only the book of open rows is kept. -/
structure Resting (s : State) : Prop where
  rest : s.withoutBypass = State.reset
  rows : ∀ i < 32, s.chan i = { rows := (s.chan i).rows }

theorem resting_outsideReset (s : State) : Resting (s.outsideReset State.reset) where
  rest := rfl
  rows i hi := by
    rw [State.chan, State.outsideReset, getV_mapIdxV _ _ _ _ hi]
    exact congrArg (fun c : Channel => { c with rows := (s.chan i).rows }) (reset_chan i)

theorem Resting.outsideReset {s : State} (h : Resting s) : s = s.outsideReset State.reset := by
  have hchans : s.chans = (s.outsideReset State.reset).chans := by
    refine ext_getV _ _ {} fun i hi => ?_
    rw [State.outsideReset, getV_mapIdxV _ _ _ _ hi, ← State.chan, h.rows i hi]
    exact congrArg (fun c : Channel => { c with rows := (s.chan i).rows }) (reset_chan i).symm
  calc s = { s.withoutBypass with cfg := s.cfg, pending := s.pending, free := s.free, wir := s.wir, out := s.out, dram := s.dram,
                                  poisonWords := s.poisonWords, clocks := s.clocks, chans := s.chans } := rfl
    _ = { State.reset with cfg := s.cfg, pending := s.pending, free := s.free, wir := s.wir, out := s.out, dram := s.dram,
                           poisonWords := s.poisonWords, clocks := s.clocks, chans := s.chans } := by rw [h.rest]
    _ = s.outsideReset State.reset := by rw [hchans]; rfl

/-- HeldInReset in terms of `Resting`. -/
theorem heldInReset_iff (s : State) : HeldInReset s ↔ (s.porst = true → Resting s) :=
  ⟨fun h hp => h hp ▸ resting_outsideReset s, fun h hp => (h hp).outsideReset⟩

/-- A change of the bypass's or the wrapper's own fields alone. -/
theorem Resting.of_eq {s t : State} (h : Resting s) (hrest : t.withoutBypass = s.withoutBypass) (hchans : t.chans = s.chans) :
    Resting t where
  rest := hrest.trans h.rest
  rows := by simpa only [State.chan, hchans] using h.rows

/-- A change of a channel that leaves of one in reset all but its rows. -/
theorem Resting.modChan {s : State} (h : Resting s) (ch : Nat) {f : Channel → Channel}
    (hf : ∀ r, f { rows := r } = { rows := (f { rows := r }).rows }) : Resting (s.modChan ch f) where
  rest := h.rest
  rows i hi := by
    by_cases hch : ch = i
    · subst hch
      rw [State.chan, State.modChan, getV_modV_self _ _ _ _ hi, ← State.chan, h.rows ch hi]
      exact hf _
    · rw [State.chan, State.modChan, getV_modV_ne _ _ _ _ _ hch, ← State.chan]
      exact h.rows i hi

/-- What a command passed to the core side writes. -/
theorem Resting.pass {s : State} (h : Resting s) (ch kind pc bank a b : Nat) : Resting (s.pass ch kind pc bank a b) := h.of_eq rfl rfl

/-- A channel in reset is in MEM mode and has no mark. -/
theorem Resting.chan {s : State} (h : Resting s) (ch : Fin 32) :
    chOwn (s.chan ch) = false ∧ (s.chan ch).marks = [] ∧ (s.chan ch).stale = [] := by
  rw [h.rows ch ch.isLt]
  exact ⟨rfl, rfl, rfl⟩

/-- No ACT is claimed in reset. -/
theorem Resting.claims {s : State} (h : Resting s) (ch pc bank row : Nat) : s.claims ch pc bank row = false := by
  have hf : s.formula = none := congrArg State.formula h.rest
  simp [State.claims, hf]

theorem Resting.porst {s : State} (h : Resting s) : s.porst = true := congrArg State.porst h.rest

theorem bankRow_nil (pc bank : Nat) : bankRow [] pc bank = none := rfl

/-! ### The host commands in reset -/

/-- The core die's read writes the outputs and takes free values. -/
theorem Resting.coreRead {s : State} (h : Resting s) (ch pc bank col sev : Nat) : Resting (s.coreRead ch pc bank col sev) := by
  unfold State.coreRead
  split <;> exact h.of_eq rfl rfl

/-- The core die's write changes what it holds. -/
theorem State.coreWrite_writes (s : State) (ch pc bank col : Nat) (d : BitVec 256) (mask : Word32) (pois : Bool) :
    ∃ o m p n, s.coreWrite ch pc bank col d mask pois = { s with out := o, dram := m, poisonWords := p, free := n } := by
  unfold State.coreWrite
  split
  · exact ⟨_, s.dram, s.poisonWords, s.free, rfl⟩
  · simp only [State.writeDram]
    exact ⟨_, _, _, _, rfl⟩

theorem Resting.coreWrite {s : State} (h : Resting s) (ch pc bank col : Nat) (d : BitVec 256) (mask : Word32) (pois : Bool) :
    Resting (s.coreWrite ch pc bank col d mask pois) := by
  obtain ⟨o, m, p, n, hw⟩ := s.coreWrite_writes ch pc bank col d mask pois
  rw [hw]
  exact h.of_eq rfl rfl

theorem Resting.hold {s t : State} (hs : Resting s) (h : Resting t) : Resting (s.hold t) where
  rest := by
    have hp : (s.hold t).withoutBypass = { t.withoutBypass with porst := s.porst } := rfl
    rw [hp, h.rest, hs.porst]
    rfl
  rows := h.rows

/-- What a host command leaves in reset: the bypass passes it (R299, R319). -/
theorem Resting.hostPort {s t : State} (h : Resting s) {c : Instr} (hc : atHostPort c = true) (he : exec c s = .next t) : Resting t := by
  have open_of {n ch : Nat} {f : State → State} (he : (if n ≤ ch then .fault .noSuchUnit else port s f) = Host.Outcome.next t) :
      t = s.hold (f s) := by
    unfold port at he
    split_ifs at he
    exact (Host.Outcome.next.inj he).symm
  cases c with
  | hostAct ch pc bank row =>
    obtain ⟨hown, _, _⟩ := h.chan ch
    rw [open_of he, if_neg (by simp [h.claims]), if_neg (by simp [hown])]
    exact h.hold ((h.pass _ _ _ _ _ _).modChan ch fun _ => rfl)
  | hostRead ch pc bank col sev =>
    obtain ⟨hown, hmarks, hstale⟩ := h.chan ch
    rw [open_of he]
    simp only [hown, hmarks, hstale, Channel.marked, bankRow_nil, Option.isSome_none, Bool.or_self, Bool.false_eq_true, if_false]
    exact h.hold (h.coreRead _ _ _ _ _)
  | hostWrite ch pc bank col data mask pois =>
    obtain ⟨hown, hmarks, hstale⟩ := h.chan ch
    rw [open_of he]
    simp only [State.hostWrite, hown, hmarks, hstale, Channel.marked, bankRow_nil, Option.isSome_none, Bool.or_self, Bool.false_eq_true,
      if_false]
    exact h.hold (h.coreWrite _ _ _ _ _ _ _)
  | hostPre ch pc bank =>
    obtain ⟨hown, hmarks, hstale⟩ := h.chan ch
    rw [open_of he]
    simp only [hown, hmarks, hstale, Channel.marked, bankRow_nil, Option.isSome_none, Bool.or_self, Bool.false_eq_true, if_false]
    exact h.hold ((h.pass _ _ _ _ _ _).modChan ch fun _ => rfl)
  | hostPrea ch pc =>
    obtain ⟨hown, _, _⟩ := h.chan ch
    rw [open_of he]
    simp only [hown, Bool.false_eq_true, if_false]
    have hcleared := (h.of_eq (t := s.suppress ch) rfl rfl).modChan ch
      (f := fun c => { c with marks := dropPc c.marks pc, stale := dropPc c.stale pc }) fun _ => rfl
    exact h.hold ((hcleared.pass _ _ _ _ _ _).modChan ch fun _ => rfl)
  | hostRefresh ch pc bank all =>
    obtain ⟨hown, _, _⟩ := h.chan ch
    rw [open_of he, if_neg (by simp [hown])]
    exact h.hold (h.pass _ _ _ _ _ _)
  | hostMrs ch arg =>
    obtain ⟨hown, _, _⟩ := h.chan ch
    rw [open_of he]
    simp only [State.hostMrs, hown, Bool.false_eq_true, if_false]
    rw [if_pos (show (s.pass ch 6 arg.pc 0 0 arg.arg.toNat).porst = true from h.porst)]
    exact h.hold (h.pass _ _ _ _ _ _)
  | hostOtherRowCmd ch kind pc =>
    obtain ⟨hown, _, _⟩ := h.chan ch
    rw [open_of he]
    simp only [when, hown, Bool.false_eq_true, if_false]
    split
    · exact h.hold (h.pass _ _ _ _ _ _)
    · exact h.hold h
  | _ => cases hc

/-! ### The pins in reset -/

/-- Neither the instruction of the wrapper nor the one that waits is part of what is in reset (R313, R319). -/
theorem Resting.wrapper {s : State} (h : Resting s) (n : Nat) : Resting { s with wir := n, testPending := 0 } := by
  refine h.of_eq ?_ rfl
  have hpending : s.testPending = 0 := congrArg State.testPending h.rest
  exact congrArg (fun k => { s.withoutBypass with testPending := k }) hpending.symm

theorem Resting.wrapperInstruction {s t : State} (h : Resting s) {code : BitVec 4} (he : exec (.wrapperInstruction code) s = .next t) :
    Resting t := by
  have hporst : s.testing = true ∨ s.porst = true := .inr h.porst
  have hwiped (n : Nat) : ¬((n = 3 ∨ n = 5) ∧ s.porst = false) := by simp [h.porst]
  simp only [exec, execWrapperInstruction, if_pos hporst, State.enterTest, if_neg (hwiped _)] at he
  split_ifs at he <;> cases he
  · exact h.hold (h.wrapper _)
  · exact h.wrapper _
  · exact h.wrapper _

theorem resting_porstNAssert {s t : State} (he : exec .porstNAssert s = .next t) : Resting t := by
  simp only [exec, execPorstNAssert] at he
  split_ifs at he
  cases he
  refine ⟨rfl, fun i hi => ?_⟩
  rw [State.chan, getV_mapV _ _ _ _ hi]

/-- A command leaves the units in reset while PORST_N is 0. -/
theorem exec_keeps_heldInReset {c : Instr} {s t : State} (h : HeldInReset s) (he : exec c s = .next t) : HeldInReset t := by
  rw [heldInReset_iff] at h ⊢
  intro hpt
  by_cases hc : c = .porstNAssert
  · subst hc
    exact resting_porstNAssert he
  by_cases hr : ∃ pos, c = .porstNRelease pos
  · obtain ⟨pos, rfl⟩ := hr
    simp only [exec, execPorstNRelease, when] at he
    split_ifs at he with _ hp <;> cases he
    · cases hpt
    · exact absurd hpt hp
  obtain ⟨_, _, hporst⟩ := commandsKeepQueueAndConfiguration c s t he
  have hs : Resting s := h (hporst ⟨hc, fun pos hp => hr ⟨pos, hp⟩⟩ ▸ hpt)
  cases hport : atHostPort c
  case true => exact hs.hostPort hport he
  case false =>
    cases hpins : atPins c
    case false =>
      obtain ⟨f, hf⟩ := exec_of_engine c s hport hpins
      rw [hf, act] at he
      simp only [hs.porst, if_true] at he
      split_ifs at he
      cases he
      exact hs
    case true =>
      cases c with
      | porstNAssert => exact absurd rfl hc
      | porstNRelease pos => exact absurd ⟨pos, rfl⟩ hr
      | wrapperInstruction code => exact hs.wrapperInstruction he
      | wrstnAssert => cases he; exact hs.wrapper 0
      | _ => cases hpins

/-- Settles O4. A tick changes nothing while PORST_N is 0; a command is taken by the bypass or the wrapper, or does nothing
(`exec_keeps_heldInReset`). -/
theorem stepKeepsUnitsInReset : Obligations.StepKeepsUnitsInReset := by
  unfold Obligations.StepKeepsUnitsInReset
  intro s t h he
  unfold step at he
  split at he
  · cases he
    unfold idle
    split
    · exact h
    · exact fun hp => absurd hp (by assumption)
  case _ c rest _ =>
    refine exec_keeps_heldInReset ?_ he
    rw [heldInReset_iff] at h ⊢
    exact fun hp => (h hp).of_eq rfl rfl

end Sys2Proof.Machine
end

section
/-! Proof of O6: the two edges of PORST_N (R319). -/

namespace Sys2Proof.Machine

open Sys2Proof.Bits

/-- The rows of a channel stay as the host left them when PORST_N falls. -/
theorem exec_porstNAssert_resting {s : State} (h : s.testing = false) : ∃ t, exec .porstNAssert s = .next t ∧ Resting t ∧
    t.dram = s.dram ∧ t.poisonWords = s.poisonWords ∧ t.out = s.out ∧ t.wir = s.wir ∧ ∀ c < 32, (t.chan c).rows = (s.chan c).rows := by
  obtain ⟨t, ht⟩ := exec_porstNAssert_running s h
  have hrest := resting_porstNAssert ht
  refine ⟨t, ht, hrest, ?_⟩
  simp only [exec, execPorstNAssert, h, Bool.false_eq_true, if_false] at ht
  cases ht
  exact ⟨rfl, rfl, rfl, rfl, fun c hc => by rw [State.chan, getV_mapV _ _ _ _ hc, ← State.chan]⟩

theorem dom_requestDom_self (s : State) {i : Nat} (hi : i < 13) : (s.requestDom i).dom i = (s.dom i).request s.time :=
  getV_modV_self _ _ _ _ hi

/-- A domain whose request and acknowledge are low takes a request. -/
theorem dom_requestDom_of_off (s : State) {i : Nat} (hi : i < 13) (h : s.dom i = {}) :
    (s.requestDom i).dom i = { req := true, since := s.time } := by
  rw [dom_requestDom_self s hi, h]
  rfl

theorem dom_requestDom_ne (s : State) {i j : Nat} (h : i ≠ j) : (s.requestDom i).dom j = s.dom j := getV_modV_ne _ _ _ _ _ h

/-- The state in which PORST_N has risen: 10 µs on, with the strap sampled. -/
def State.released (s : State) (pos : BitVec 3) : State := { s with porst := false, time := 10000, smp := { s.smp with pos := pos } }

theorem exec_porstNRelease_held {s : State} (pos : BitVec 3) (h : s.testing = false) (hp : s.porst = true) :
    exec (.porstNRelease pos) s = .next ((s.released pos).requestDom 0) := by
  simp only [exec, execPorstNRelease, h, Bool.false_eq_true, if_false, when, hp, if_true, State.released]

/-- Settles O6. -/
theorem powerOnReset : Obligations.PowerOnReset := by
  unfold Obligations.PowerOnReset
  intro s pos ht
  refine ⟨?_, fun hp hd => ?_, fun hp => ?_⟩
  · obtain ⟨t, he, hrest, hkept⟩ := exec_porstNAssert_resting ht
    exact ⟨t, he, hrest.porst, (heldInReset_iff t).mpr fun _ => hrest, hkept⟩
  · have hreq := dom_requestDom_of_off (s.released pos) (i := 0) (by decide) hd
    refine ⟨_, exec_porstNRelease_held pos ht hp, rfl, rfl, rfl, ?_, ?_, fun i hi => dom_requestDom_ne _ hi.symm, rfl⟩
    · exact congrArg Dom.req hreq
    · exact congrArg Dom.since hreq
  · simp only [exec, execPorstNRelease, ht, Bool.false_eq_true, if_false, when, hp]

end Sys2Proof.Machine
end

section
/-! Proof of O7: the fields of request and response words (Table 12-8). -/

namespace Sys2Proof.Machine

open Sys2Proof.Bits

theorem rsp_code (code seq : Nat) (r : Rsp) : field (r.word code seq).toNat 0 16 = code % 2 ^ 16 := by
  rw [field, rsp_toNat]
  simp only [Nat.shiftRight_eq_div_pow]
  omega

theorem rsp_detail (code seq : Nat) (r : Rsp) : field (r.word code seq).toNat 48 16 = r.detail % 2 ^ 16 := by
  rw [field, rsp_toNat]
  simp only [Nat.shiftRight_eq_div_pow]
  omega

theorem rsp_body (code seq : Nat) (r : Rsp) : field (r.word code seq).toNat 64 448 = r.body % 2 ^ 448 := by
  have hlow : code % 2 ^ 16 + seq % 2 ^ 16 * 2 ^ 16 + r.status % 2 ^ 16 * 2 ^ 32 + r.detail % 2 ^ 16 * 2 ^ 48 < 2 ^ 64 := by omega
  rw [field, rsp_toNat, Nat.shiftRight_eq_div_pow, Nat.add_mul_div_right _ _ (by decide), Nat.div_eq_of_lt hlow, Nat.zero_add, Nat.mod_mod]

/-- Settles O7. -/
theorem mailboxWords : Obligations.MailboxWords := by
  unfold Obligations.MailboxWords
  refine ⟨fun code q hc => ⟨?_, reqOf_word code q⟩, fun code seq r hc hs hst hd hb => ⟨?_, ?_, ?_, ?_, ?_⟩⟩
  · rw [reqCode_word, Nat.mod_eq_of_lt hc]
  · rw [rsp_code, Nat.mod_eq_of_lt hc]
  · rw [rsp_seq, Nat.mod_eq_of_lt hs]
  · rw [rsp_status, Nat.mod_eq_of_lt hst]
  · rw [rsp_detail, Nat.mod_eq_of_lt hd]
  · rw [rsp_body, Nat.mod_eq_of_lt hb]

end Sys2Proof.Machine
end

section
/-! Proof of O8: the command set (Table 12-10), the order of the checks (R338) and the reserved parameter bits (R7, R334). -/

namespace Sys2Proof.Machine

open Sys2Proof.Bits

/-! ### Reserved bits -/

/-- The search finds the lowest bit that is set among those it visits. -/
theorem lowestBit_spec (x : Nat) (fuel i j : Nat) (hij : i ≤ j) (hj : j < i + fuel) (hx : x.testBit j = true) :
    x.testBit (lowestBit x fuel i) = true ∧ lowestBit x fuel i ≤ j ∧ ∀ l, i ≤ l → l < lowestBit x fuel i → x.testBit l = false := by
  induction fuel generalizing i with
  | zero => omega
  | succ fuel ih =>
    unfold lowestBit
    split
    · exact ⟨by assumption, hij, fun l h1 h2 => absurd h2 (Nat.not_lt.mpr h1)⟩
    case _ hi =>
      have hne : i ≠ j := fun h => hi (h ▸ hx)
      obtain ⟨hbit, hle, hlow⟩ := ih (i + 1) (by omega) (by omega)
      refine ⟨hbit, hle, fun l h1 h2 => ?_⟩
      rcases Nat.eq_or_lt_of_le h1 with rfl | h1
      · exact Bool.not_eq_true _ ▸ hi
      · exact hlow l h1 h2

/-- The bits of a request that its command does not use. -/
def reservedBitsOf (fs : List ParField) (q : BitVec 448) : Nat := Nat.xor (Nat.land q.toNat (usedMask fs)) q.toNat

theorem testBit_reservedBitsOf (fs : List ParField) (q : BitVec 448) (i : Nat) :
    (reservedBitsOf fs q).testBit i = true ↔ q.getLsbD i = true ∧ (usedMask fs).testBit i = false := by
  have : (reservedBitsOf fs q).testBit i = ((q.toNat.testBit i && (usedMask fs).testBit i) ^^ q.toNat.testBit i) := by
    rw [← Nat.testBit_and, ← Nat.testBit_xor]
    rfl
  rw [this, BitVec.getLsbD]
  cases q.toNat.testBit i <;> cases (usedMask fs).testBit i <;> decide

/-- A bit of the parameters lies below 448. -/
theorem lt_of_getLsbD {q : BitVec 448} {i : Nat} (h : q.getLsbD i = true) : i < 448 := by
  by_contra hge
  rw [BitVec.getLsbD_of_ge q i (by omega)] at h
  cases h

theorem reservedBitsOf_ne_zero_iff (fs : List ParField) (q : BitVec 448) :
    reservedBitsOf fs q ≠ 0 ↔ ∃ i < 448, q.getLsbD i = true ∧ (usedMask fs).testBit i = false := by
  constructor
  · intro h
    obtain ⟨i, hi⟩ := Nat.exists_testBit_of_ne_zero h
    obtain ⟨hq, hu⟩ := (testBit_reservedBitsOf fs q i).mp hi
    exact ⟨i, lt_of_getLsbD hq, hq, hu⟩
  · rintro ⟨i, _, hq, hu⟩ h0
    have := (testBit_reservedBitsOf fs q i).mpr ⟨hq, hu⟩
    simp [h0] at this

theorem reservedSet_eq_none_iff (fs : List ParField) (q : BitVec 448) :
    reservedSet fs q = none ↔ ∀ i < 448, q.getLsbD i = true → (usedMask fs).testBit i = true := by
  have hzero : reservedSet fs q = none ↔ ¬ reservedBitsOf fs q ≠ 0 := by
    simp only [reservedSet, reservedBitsOf]
    split <;> simp_all
  rw [hzero, reservedBitsOf_ne_zero_iff]
  simp only [not_exists, not_and, Bool.not_eq_false]

theorem reservedSet_eq_some {fs : List ParField} {q : BitVec 448} {off : Nat} (h : reservedSet fs q = some off) :
    ∃ i < 448, off = 8 + i / 8 ∧ q.getLsbD i = true ∧ (usedMask fs).testBit i = false ∧
      ∀ j < i, q.getLsbD j = true → (usedMask fs).testBit j = true := by
  have hne : reservedBitsOf fs q ≠ 0 := by
    intro h0
    rw [show reservedSet fs q = none from if_pos h0] at h
    cases h
  obtain ⟨j, hj, hbit⟩ := (reservedBitsOf_ne_zero_iff fs q).mp hne
  obtain ⟨hset, hle, hlow⟩ := lowestBit_spec (reservedBitsOf fs q) 448 0 j (Nat.zero_le _) (by omega)
    ((testBit_reservedBitsOf fs q j).mpr hbit)
  obtain ⟨hq, hu⟩ := (testBit_reservedBitsOf fs q _).mp hset
  refine ⟨lowestBit (reservedBitsOf fs q) 448 0, by omega, ?_, hq, hu, fun l hl hql => ?_⟩
  · rw [show reservedSet fs q = some (8 + lowestBit (reservedBitsOf fs q) 448 0 / 8) from if_neg hne] at h
    exact (Option.some.inj h).symm
  · by_contra hul
    have := (testBit_reservedBitsOf fs q l).mpr ⟨hql, by simpa using hul⟩
    rw [hlow l (Nat.zero_le _) hl] at this
    cases this

/-! ### The order of the checks -/

section
variable {k : Cmd} {s : State} {m : Nat} {q : BitVec 448}

/-- Check 4 of R338 in ROM mode. -/
theorem judge_of_rom (h : s.romRefuses k.code = true ∧ m = 3) : k.judge s m q false = some (Rsp.of stWrongState) := by
  simp [Cmd.judge, h]

variable (hrom : ¬ (s.romRefuses k.code = true ∧ m = 3))
include hrom

theorem romCheck_passed : (s.romRefuses k.code && decide (m = 3)) = false := by
  rw [Bool.eq_false_iff, ne_eq, Bool.and_eq_true, decide_eq_true_eq]
  exact hrom

theorem judge_of_wrongMailbox (h : m ∉ k.boxes) : k.judge s m q false = some (Rsp.of stWrongMailbox) := by
  simp [Cmd.judge, romCheck_passed hrom, h]

variable (hbox : m ∈ k.boxes)
include hbox

theorem judge_of_wrongLevel (h : s.level < k.level) : k.judge s m q false = some (Rsp.of stWrongLevel) := by
  simp [Cmd.judge, romCheck_passed hrom, hbox, h]

variable (hlevel : k.level ≤ s.level)
include hlevel

theorem judge_of_reserved {off : Nat} (h : reservedSet k.fields q = some off) : k.judge s m q false = some (Rsp.badField off) := by
  simp [Cmd.judge, romCheck_passed hrom, hbox, Nat.not_lt.mpr hlevel, h]

theorem judge_of_badField (hres : reservedSet k.fields q = none) {off : Nat} (h : k.bad s q = some off) :
    k.judge s m q false = some (Rsp.badField off) := by
  simp [Cmd.judge, romCheck_passed hrom, hbox, Nat.not_lt.mpr hlevel, hres, h]

/-- The pointers are looked at last. -/
theorem judge_of_pointers (hres : reservedSet k.fields q = none) (h : k.bad s q = none) : k.judge s m q false =
    if (k.ptrs q).any (fun p => !s.pointerOk p.1 p.2) = true then some (Rsp.of stBadPointer) else none := by
  simp only [Cmd.judge, romCheck_passed hrom, List.contains_iff_mem.mpr hbox, Nat.not_lt.mpr hlevel, hres, h, Bool.false_eq_true,
    Bool.not_true, Bool.false_and, Bool.false_or, if_false]

end

/-- Settles O8. -/
theorem mailboxChecks : Obligations.MailboxChecks := by
  unfold Obligations.MailboxChecks
  refine ⟨⟨rfl, fun c k m q h => row_code c k m q h⟩, fun k s m q => ?_, fun fs q => ⟨reservedSet_eq_none_iff fs q, fun off h => ?_⟩⟩
  · exact ⟨judge_of_rom, judge_of_wrongMailbox, judge_of_wrongLevel, fun hr hb hl off => judge_of_reserved hr hb hl,
      fun hr hb hl hres off => judge_of_badField hr hb hl hres, judge_of_pointers⟩
  · exact reservedSet_eq_some h

end Sys2Proof.Machine
end

section
/-! Proof of O9: doorbells (R333, R339, R340), requests that wait for staging (R398), and the doorbell register. -/

namespace Sys2Proof.Machine

open Sys2Proof.Bits

/-! ### The doorbell of a row -/

/-- The state with the REQ registers of a mailbox written. -/
def State.written (s : State) (m : Fin 4) (code : Nat) (q : Req) : State := s.modMbx m (fun b => { b with req := q.word code })

theorem written_busy (s : State) (m : Fin 4) (code : Nat) (q : Req) : ((s.written m code q).mbx m).busy = (s.mbx m).busy := by
  rw [State.written, mbx_modMbx]

/-- A row of a mailbox command writes the REQ registers and rings. -/
theorem mailboxRow_awake (k : Cmd) {s : State} (m : Fin 4) (q : Req) (h : Awake s) :
    mailboxRow s m q k = .next (s.hold ((s.written m k.code q).ring m (some k))) := act_when_smpOpen h _

theorem hold_modMbx_answer (s : State) (m : Nat) (f : Mailbox → Mailbox) (d : Nat) (e : Bool) :
    s.hold ((s.modMbx m f).answer d e) = (s.modMbx m f).answer d e := rfl

section
variable {s : State} {m : Nat} (info : Option Cmd)

theorem ring_of_level_zero (h : s.level = 0) : s.ring m info = s.answer 0 true := by
  rw [State.ring, if_pos (by omega)]

theorem ring_of_busy (hl : 1 ≤ s.level) (h : (s.mbx m).busy = true) : s.ring m info = (s.count 6 0 1 1).answer 0 true := by
  rw [State.ring, if_neg (by omega), if_pos h]

/-- A doorbell that is accepted copies the request. -/
def State.taking (s : State) (m : Nat) : State :=
  (s.modMbx m (fun b => { b with taken := b.req, busy := true, rspValid := false })).answer 0 false

theorem ring_of_taken (hl : 1 ≤ s.level) (hb : (s.mbx m).busy = false) (h : s.holding = true ∨ s.fw.commit.isSome = true) :
    s.ring m info = ((s.taking m).modMbx m (fun b => { b with held := s.holding, heldSince := s.time })).modFw
      (fun w => { w with heldQueue := w.heldQueue ++ [m] }) := by
  have hfree : ¬ (s.mbx m).busy = true := by simp [hb]
  have htaken : (s.taking m).mcTaken = true := (Bool.or_eq_true ..).mpr h
  rw [State.ring, if_neg (by omega), if_neg hfree]
  exact if_pos htaken

end

/-! ### The doorbell register -/

theorem reservedBits_doorbell_one (m : Nat) : reservedBits (.mbxDoorbell m) 1 = false :=
  decide_eq_false (not_not.mpr (show Nat.land 1 1 = 1 % 2 ^ 32 by decide))

/-- Writing 1 rings the doorbell. -/
theorem writeDoorbell_one (s : State) (m : Nat) : s.writeDoorbell m 1 = s.ring m (commandIn (s.mbx m).req) := by
  simp only [State.writeDoorbell, reservedBits_doorbell_one, Bool.or_false]
  exact if_pos rfl

theorem exec_registerWrite_doorbell {s : State} (m : Fin 4) (h : Awake s) :
    exec (.registerWrite (BitVec.ofNat 16 (0x1080 + 0x100 * m.toNat)) 1) s = .next (s.hold (s.ring m (commandIn (s.mbx m).req))) := by
  change act s (fun s => when s.smpOpen _ s) = _
  rw [act_when_smpOpen h, smpReg_doorbell]
  exact congrArg (fun t => Host.Outcome.next (s.hold t)) (writeDoorbell_one s m)

/-- The command of a request that a row has written. -/
theorem commandIn_word {c : Instr} {k : Cmd} {m : Fin 4} {q : Req} (h : rowCmd c = some (k, m, q)) : commandIn (q.word k.code) = some k := by
  rw [commandIn, reqCode_word, show k.code % 2 ^ 16 = k.code from Nat.mod_eq_of_lt (row_lt c k m q h)]
  exact row_code c k m q h

/-- SESSION_OPEN transfers no bytes of the staging region. -/
theorem code_ne_of_stages {c : Instr} {k : Cmd} {m : Fin 4} {q : Req} {s : State} (h : rowCmd c = some (k, m, q))
    (hs : k.stages s = true) : k.code ≠ 2 := by
  rintro hcode
  have hk : commandOf k.code = some k := row_code c k m q h
  rw [hcode] at hk
  obtain rfl : cmdSessionOpen = k := Option.some.inj hk
  cases hs

/-- Settles O9. -/
theorem doorbells : Obligations.Doorbells := by
  unfold Obligations.Doorbells
  refine ⟨fun c k m q s hrow h => ?_, fun c k m q s hrow h => ?_, fun c k m q s hrow h => ?_⟩
  · rw [row_exec c k m q s hrow, mailboxRow_awake k m q h]
    refine ⟨fun hl => ?_, fun hl hb => ?_, fun hl hb htaken => ?_⟩
    · rw [ring_of_level_zero _ (s := s.written m k.code q) hl]
      rfl
    · rw [ring_of_busy _ (s := s.written m k.code q) hl (by rw [written_busy]; exact hb)]
      rfl
    · rw [ring_of_taken _ (s := s.written m k.code q) hl (by rw [written_busy]; exact hb) htaken]
      simp only [State.taking, State.written, State.modMbx, State.answer, State.modSmp, State.modFw, State.hold, modV_modV]
      rfl
  · exact exec_staged c k m q s hrow h (code_ne_of_stages hrow h.2.2.1)
  · rw [row_exec c k m q s hrow, mailboxRow_awake k m q h]
    refine (exec_registerWrite_doorbell (s := s.written m k.code q) m h).trans ?_
    rw [show ((s.written m k.code q).mbx m).req = q.word k.code by rw [State.written, mbx_modMbx], commandIn_word hrow]
    rfl

end Sys2Proof.Machine
end

section
/-! Proof of O10: replays, refusals of the session and the sequence, and failed checks of an accepted request (R335, R336, R338). -/

namespace Sys2Proof.Machine

open Sys2Proof.Bits

/-! ### Refusals and replays -/

/-- The distance of a SEQ past LAST, as a 16-bit difference. -/
theorem seq_distance (a b : BitVec 16) : (a.toNat + 65536 - b.toNat) % 65536 = (a - b).toNat := by
  have ha := a.isLt
  have hb := b.isLt
  rw [BitVec.toNat_sub]
  omega

/-- Whether the session that is open is that of a request. -/
theorem rung_sequenced (s : State) (m : Fin 4) (code : Nat) (q : Req) :
    ((s.rung m code q).mbx m).sequenced = decide ((s.mbx m).session = some q.token) := by
  have htok : field (q.word code).toNat 32 32 = q.token.toNat := by
    have h : (reqOf (q.word code)).token = q.token := by rw [reqOf_word]
    have hlt : field (q.word code).toNat 32 32 < 2 ^ 32 := Nat.mod_lt _ (by decide)
    rw [← h, reqOf, BitVec.toNat_ofNat, Nat.mod_eq_of_lt hlt]
  rw [rung_mbx, Mailbox.sequenced]
  cases hs : (s.mbx m).session with
  | none => simp
  | some t => simp [htok, BitVec.toNat_inj, eq_comm]

/-- A request that is answered without running a command and without entering the sequence. -/
theorem mailboxRow_answeredApart {k : Cmd} {s : State} {m : Fin 4} {q : Req} (h : Rings s m) (w : BitVec 512)
    (hr : (s.rung m k.code q).request m (q.word k.code) false (some k) = (s.rung m k.code q, some w)) :
    mailboxRow s m q k = .next (s.answeredApart m k.code q w) := by
  rw [mailboxRow_rings k s m q h, State.serve, rung_mbx]
  simp only [hr]
  simp only [State.rung, State.deliver, State.modMbx, State.answer, State.modSmp, State.post, State.hold, State.answeredApart, modV_modV]
  rfl

/-! ### Checks 1 and 2 of R338 -/

section
variable {s : State} {m : Fin 4} {k : Cmd} {q : Req} (hcode : k.code < 65536) (h2 : k.code ≠ 2)

/-- The commands that MBX0 to MBX2 refuse in ROM mode. -/
def romOut (s : State) (m : Fin 4) (code : Nat) : Prop := s.fw.romMode = true ∧ m ≠ 3 ∧ code ≠ 0x0001 ∧ code ≠ 0x0005

theorem romOut_check (s : State) (m : Fin 4) (code : Nat) (q : Req) (n : Nat) (hn : n = code) :
    ((s.rung m code q).fw.romMode && decide ((m : Nat) ≠ 3) && decide (n ≠ 0x0001) && decide (n ≠ 0x0005)) = true ↔ romOut s m code := by
  subst hn
  have hm : (m : Nat) ≠ 3 ↔ m ≠ 3 := not_congr (Fin.ext_iff (a := m) (b := 3)).symm
  have hfw : (s.rung m n q).fw = s.fw := rfl
  simp only [Bool.and_eq_true, decide_eq_true_eq, hm, hfw, romOut, and_assoc]

include hcode h2

/-- What a request that does not enter the sequence is answered: a replay gets the stored response (R335). -/
def State.apartWord (s : State) (m : Fin 4) (code : Nat) (q : Req) : BitVec 512 :=
  let no := fun (st : Nat) => (Rsp.of st).word code q.seq.toNat
  let d := (q.seq - (s.mbx m).last).toNat
  if (s.mbx m).session = some q.token then (if d = 0 then (s.mbx m).stored else if d < 32768 then no stSeqGap else no stSeqOld)
  else no stNoSession

/-- A request without the session, or whose SEQ is not the next, enters no sequence and runs no command. -/
theorem rung_request_apart (hrom : ¬ romOut s m k.code) (hfree : ¬ ((k.code = 0x0001 ∨ k.code = 0x0005) ∧ q.token = 0))
    (hseq : (s.mbx m).session = some q.token → (q.seq - (s.mbx m).last).toNat ≠ 1) :
    (s.rung m k.code q).request m (q.word k.code) false (some k) = (s.rung m k.code q, some (s.apartWord m k.code q)) := by
  have hreq : reqCode (q.word k.code) = k.code := by rw [reqCode_word]; exact Nat.mod_eq_of_lt hcode
  rw [State.request, rung_mbx]
  simp only [hreq, reqOf_word, (romOut_check s m k.code q k.code rfl).not.mpr hrom, h2, hfree,
    Bool.false_eq_true, if_false, seq_distance, State.apartWord]
  cases hs : (s.mbx m).session with
  | none => rfl
  | some t =>
    by_cases ht : t = q.token
    · subst ht
      simp only [ne_eq, not_true_eq_false, if_false, if_true, hseq hs]
      split_ifs <;> rfl
    · simp [ht]

/-- A request that the ROM refuses on MBX0 to MBX2. -/
theorem rung_request_rom (hrom : romOut s m k.code) :
    (s.rung m k.code q).request m (q.word k.code) false (some k) =
      if (s.mbx m).session = some q.token ∧ (q.seq - (s.mbx m).last).toNat = 1 then
        (((s.rung m k.code q).modMbx m (fun x => { x with last := q.seq })).keep m ((Rsp.of stWrongState).word k.code q.seq.toNat),
          some ((Rsp.of stWrongState).word k.code q.seq.toNat))
      else (s.rung m k.code q, some ((Rsp.of stWrongState).word k.code q.seq.toNat)) := by
  have hreq : reqCode (q.word k.code) = k.code := by rw [reqCode_word]; exact Nat.mod_eq_of_lt hcode
  have hlast : ((s.rung m k.code q).mbx m).last = (s.mbx m).last := by rw [rung_mbx]
  rw [State.request]
  simp only [hreq, reqOf_word, (romOut_check s m k.code q k.code rfl).mpr hrom, h2, if_true, seq_distance, rung_sequenced, hlast, ne_eq,
    not_false_eq_true, decide_true, Bool.and_true, Bool.and_eq_true, decide_eq_true_eq]

end

/-- The statuses of the checks fit 16 bits. -/
theorem judge_status_lt {k : Cmd} {s : State} {m : Nat} {q : BitVec 448} {b : Bool} {r : Rsp} (h : k.judge s m q b = some r) :
    r.status < 65536 := by
  unfold Cmd.judge at h
  split_ifs at h
  · cases h; decide
  · cases h; decide
  · cases h; decide
  · have hbad : stBadField < 65536 := by decide
    split at h
    · cases h; exact hbad
    · split at h
      · cases h; exact hbad
      · dsimp only at h
        split_ifs at h
        cases h
        decide

/-- A request that enters the sequence and is answered at once. -/
theorem rung_answered (s : State) (m : Fin 4) {code : Nat} (q : Req) {a : Rsp} (hc : code < 65536) (ha : a.status < 65536) :
    (((s.rung m code q).modMbx m (fun x => { x with last := q.seq })).keep m (a.word code q.seq.toNat)).deliver m
      (a.word code q.seq.toNat) = s.answered m code q a := by
  rw [← finish_answered s m code q a hc ha]
  simp only [Ran.finish, State.keep, State.modMbx, State.entered, State.rung, State.answer, State.modSmp, modV_modV]
  rfl

/-- An accepted request that fails a check of its command enters the sequence with that status. -/
theorem exec_judged {c : Instr} {k : Cmd} {m : Fin 4} {q : Req} {s : State} {r : Rsp} (hrow : rowCmd c = some (k, m, q))
    (h : InSequence s m q) (h2 : k.code ≠ 2) (hj : k.judge s m q.par false = some r) : exec c s = .next (s.answered m k.code q r) := by
  have hc := row_lt c k m q hrow
  rw [row_exec c k m q s hrow, mailboxRow_executes k s m q h hc h2, State.execute, row_judge c k m q s hrow, hj]
  exact congrArg _ ((congrArg s.hold (finish_answered s m k.code q r hc (judge_status_lt hj))).trans (hold_of _ _ rfl rfl rfl))

/-- Settles O10. A request that does not enter the sequence is answered by `State.apartWord`; in ROM mode MBX0 to MBX2 look at the
sequence only to move LAST. -/
theorem replaysAndRefusals : Obligations.ReplaysAndRefusals := by
  unfold Obligations.ReplaysAndRefusals
  refine ⟨fun c k m q s hrow h h2 hrom hses htok hseq => ?_, fun c k m q s hrow h h2 => ?_,
    fun c k m q s r hrow h h2 hj => exec_judged hrow h h2 hj⟩
  all_goals have hc := row_lt c k m q hrow
  · have hin : ¬ romOut s m k.code := by
      rintro ⟨h1, h3, h4, h5⟩
      rcases hrom with hr | hr | hr | hr
      · exact absurd h1 (by simp [hr])
      · exact h3 hr
      · exact h4 hr
      · exact h5 hr
    have hd : (q.seq - (s.mbx m).last).toNat = 0 := by simp [hseq]
    have hword : s.apartWord m k.code q = (s.mbx m).stored := by simp only [State.apartWord, hses, hd, if_true]
    rw [row_exec c k m q s hrow, ← hword]
    exact mailboxRow_answeredApart h _ (rung_request_apart hc h2 hin (fun hf => htok hf.2) fun _ => by omega)
  · rw [row_exec c k m q s hrow]
    refine ⟨fun hrom hses hd => ?_, fun hrom hout => ?_, fun hrom hfree hses => ?_, fun hrom hfree hses hge hlt => ?_,
      fun hrom hfree hses hge => ?_⟩
    · rw [mailboxRow_rings k s m q h, State.serve, rung_mbx]
      simp only [rung_request_rom hc h2 hrom, hses, hd, and_self, if_true]
      exact congrArg _ ((congrArg s.hold (rung_answered s m q hc (by decide))).trans (hold_of _ _ rfl rfl rfl))
    · refine mailboxRow_answeredApart h _ ((rung_request_rom hc h2 hrom).trans (if_neg fun hin => ?_))
      exact hout.elim (fun hn => hn hin.1) (fun hn => hn hin.2)
    all_goals
      have hword := rung_request_apart (q := q) hc h2 hrom hfree
    · rw [mailboxRow_answeredApart h _ (hword fun hs => absurd hs hses)]
      simp only [State.apartWord, if_neg hses]
    · rw [mailboxRow_answeredApart h _ (hword fun _ => by omega)]
      simp only [State.apartWord, if_pos hses, if_neg (show (q.seq - (s.mbx m).last).toNat ≠ 0 by omega), if_pos hlt]
    · rw [mailboxRow_answeredApart h _ (hword fun _ => by omega)]
      simp only [State.apartWord, if_pos hses, if_neg (show (q.seq - (s.mbx m).last).toNat ≠ 0 by omega), if_neg (Nat.not_lt.mpr hge)]

end Sys2Proof.Machine
end

section
/-! Proof of O11: KEEPALIVE, SESSION_CLOSE, SESSION_OPEN and the expiry of a session (R336, R337). -/

namespace Sys2Proof.Machine

open Sys2Proof.Bits

/-! ### Events and mailboxes -/

/-- Posting an event and changing a mailbox commute. -/
theorem Smp.post_with_mbx (x : Smp) (e : Event) (b : Vector Mailbox 4) : { x.post e with mbx := b } = ({ x with mbx := b } : Smp).post e := by
  unfold Smp.post
  split <;> rfl

theorem Smp.post_mbx (x : Smp) (e : Event) : (x.post e).mbx = x.mbx := by
  unfold Smp.post
  split <;> rfl

theorem mbx_post (s : State) (code cat cls a0 a1 a2 j : Nat) : (s.post code cat cls a0 a1 a2).mbx j = s.mbx j := by
  simp only [State.mbx, State.post, Smp.post_mbx]

/-- An effect whose precondition holds. -/
theorem when_of_true {p : Bool} (h : p = true) (f : State → State) (s : State) : when p f s = f s := if_pos h

/-- An effect whose precondition does not hold. -/
theorem when_of_false {p : Bool} (h : p = false) (f : State → State) (s : State) : when p f s = s := if_neg (by simp [h])

/-! ### SESSION_OPEN -/

/-- A new token is neither 0 nor the mailbox's previous one. -/
theorem newToken_spec (free : Nat) (prev : BitVec 32) : newToken free prev ≠ 0 ∧ newToken free prev ≠ prev := by
  simp only [newToken]
  split_ifs with h hprev
  · exact h
  · subst hprev
    decide
  · exact ⟨by decide, fun h1 => hprev h1.symm⟩

section
variable (s : State) (m : Fin 4) (code : Nat) (q : Req)

/-- A doorbell writes the management port alone. -/
theorem rung_writes : ∃ x, s.rung m code q = { s with smp := x } := by
  simp only [State.rung, State.answer, State.modSmp, State.modMbx]
  exact ⟨_, rfl⟩

theorem rung_cfg : (s.rung m code q).cfg = s.cfg := by simp only [State.rung, State.answer_cfg, State.modMbx_cfg]
theorem rung_disc : (s.rung m code q).disc = s.disc := by simp only [State.rung, State.answer_disc, State.modMbx_disc]
theorem rung_fw : (s.rung m code q).fw = s.fw := by simp only [State.rung, State.answer_fw, State.modMbx_fw]
theorem rung_fall : (s.rung m code q).fall = s.fall := by simp only [State.rung, State.answer_fall, State.modMbx_fall]
theorem rung_free : (s.rung m code q).free = s.free := by simp only [State.rung, State.answer_free, State.modMbx_free]
theorem rung_time : (s.rung m code q).time = s.time := by simp only [State.rung, State.answer_time, State.modMbx_time]
theorem rung_smpLevel : (s.rung m code q).smp.level = s.smp.level := rfl
theorem rung_stageStart : (s.rung m code q).stageStart = s.stageStart := rfl
theorem rung_stageLen : (s.rung m code q).stageLen = s.stageLen := rfl
theorem rung_capacity : (s.rung m code q).capacity = s.capacity := by simp only [State.capacity, rung_cfg, rung_disc]

theorem rung_level : (s.rung m code q).level = s.level := by
  rw [State.level, State.level, rung_fall, rung_smpLevel]

theorem rung_romRefuses (n : Nat) : (s.rung m code q).romRefuses n = s.romRefuses n := by simp only [State.romRefuses, rung_fw]

theorem rung_pointerOk (p n : Nat) : (s.rung m code q).pointerOk p n = s.pointerOk p n := by
  rw [State.pointerOk, State.pointerOk, rung_stageStart, rung_stageLen, rung_capacity]

end

/-- The checks of SESSION_OPEN read nothing that a doorbell writes. -/
theorem judge_sessionOpen_rung (s : State) (m : Fin 4) (q : Req) :
    cmdSessionOpen.judge (s.rung m 2 q) m q.par false = cmdSessionOpen.judge s m q.par false :=
  judge_congr cmdSessionOpen s (s.rung m 2 q) m q.par false (rung_romRefuses s m 2 q 2) (rung_level s m 2 q) rfl (rung_pointerOk s m 2 q)

/-- A SESSION_OPEN that passes its checks runs at once; one that is refused enters no sequence (R335, R336). -/
theorem rung_request_sessionOpen {s : State} {m : Fin 4} {q : Req} (hrom : s.fw.romMode = false ∨ m = 3)
    (hj : cmdSessionOpen.judge s m q.par false = none) {t : State} {a : Rsp} (hrun : runSessionOpen (s.rung m 2 q) m q.par = (t, some a)) :
    (s.rung m 2 q).request m (q.word 2) false (some cmdSessionOpen) =
      if a.status = stOk then
        ((t.modMbx m (fun x => { x with last := q.seq })).keep m (a.word 2 q.seq.toNat), some (a.word 2 q.seq.toNat))
      else (t, some (a.word 2 q.seq.toNat)) := by
  have hout : ¬ romOut s m 2 := fun ⟨h1, h3, _⟩ => hrom.elim (fun h => by simp [h] at h1) h3
  have hreq : reqCode (q.word 2) = 2 := reqCode_word 2 q
  have hexec : (s.rung m 2 q).execute m (some cmdSessionOpen) q.par false = (t, some a) := by
    rw [State.execute, judge_sessionOpen_rung, hj]
    exact hrun
  rw [State.request]
  simp only [hreq, reqOf_word, (romOut_check s m 2 q 2 rfl).not.mpr hout, Bool.false_eq_true, if_false, if_true, hexec]

/-- A session is open and the request does not take it over. -/
theorem exec_sessionOpen_busy {s : State} {m : Fin 4} {q : Req} (h : Rings s m) (hrom : s.fw.romMode = false ∨ m = 3)
    (hj : cmdSessionOpen.judge s m q.par false = none) (hopen : (s.mbx m).session.isSome = true) (htake : bit (par q.par 8 1) 0 = false) :
    exec (.sessionOpen m q) s = .next (s.answeredApart m 0x0002 q ((Rsp.of stSessionBusy).word 0x0002 q.seq.toNat)) := by
  have hrun : runSessionOpen (s.rung m 2 q) m q.par = (s.rung m 2 q, some (Rsp.of stSessionBusy)) := by
    have hsession : ((s.rung m 2 q).mbx m).session = (s.mbx m).session := by rw [rung_mbx]
    simp only [runSessionOpen, hsession, hopen, htake, Bool.not_false, Bool.and_self, if_true]
    rfl
  exact mailboxRow_answeredApart (k := cmdSessionOpen) h _ ((rung_request_sessionOpen hrom hj hrun).trans (if_neg (by decide)))

/-- What SESSION_OPEN answers: the token, and the expiry time of 1000 ms. -/
def openedRsp (tok : BitVec 32) : Rsp := { Rsp.ok with body := res 8 4 tok.toNat + res 12 2 1000 }

theorem openedRsp_status (tok : BitVec 32) : (openedRsp tok).status = stOk := rfl

/-- The registers of the management port beside the mailboxes. -/
def Smp.withMbx (x : Smp) (b : Vector Mailbox 4) : Smp := { x with mbx := b }

theorem Smp.withMbx_post (x : Smp) (e : Event) (b : Vector Mailbox 4) : (x.post e).withMbx b = (x.withMbx b).post e := x.post_with_mbx e b

theorem post_withMbx (s : State) (code cat cls a0 a1 a2 : Nat) (b : Vector Mailbox 4) :
    (s.post code cat cls a0 a1 a2).smp.withMbx b = (s.smp.withMbx b).post (mkEvent code cat cls a0 a1 a2 s.time) :=
  Smp.withMbx_post _ _ _

theorem modMbx_withMbx (s : State) (m : Nat) (f : Mailbox → Mailbox) (b : Vector Mailbox 4) :
    (s.modMbx m f).smp.withMbx b = s.smp.withMbx b := rfl

theorem rung_withMbx (s : State) (m : Fin 4) (code : Nat) (q : Req) :
    (s.rung m code q).smp.withMbx s.smp.mbx = { s.smp with rdata := 0, err := false } := rfl

/-- The state in which a session with a token is open; a session that TAKEOVER ends is reported. -/
def State.sessionOpened (s : State) (m : Nat) (tok : BitVec 32) : State :=
  (if (s.mbx m).session.isSome then s.post 0x0002 6 7 m 1 0 else s).tickFree.modMbx m
    (fun x => { x with session := some tok, prevToken := tok })

/-- A request entered with SEQ as LAST and answered with a word, which is stored. -/
def State.enteredAnswered (s : State) (m : Nat) (seq : BitVec 16) (w : BitVec 512) : State :=
  ((s.modMbx m (fun x => { x with last := seq })).keep m w).deliver m w

section
variable (s : State) (m : Fin 4) (tok : BitVec 32) (seq : BitVec 16) (w : BitVec 512) (b : Vector Mailbox 4)

theorem sessionOpened_time : (s.sessionOpened m tok).time = s.time := by
  rw [State.sessionOpened, State.modMbx_time, State.tickFree_time]
  split
  · exact State.post_time ..
  · rfl

theorem sessionOpened_mbx : (s.sessionOpened m tok).mbx m = { s.mbx m with session := some tok, prevToken := tok } := by
  have hbox : (if (s.mbx m).session.isSome then s.post 0x0002 6 7 m 1 0 else s).mbx m = s.mbx m := by
    split
    · exact mbx_post ..
    · rfl
  exact (mbx_modMbx _ m _).trans (congrArg (fun x : Mailbox => { x with session := some tok, prevToken := tok }) hbox)

theorem sessionOpened_mbx_ne {j : Fin 4} (h : (m : Nat) ≠ j) : (s.sessionOpened m tok).mbx j = s.mbx j := by
  refine (mbx_modMbx_ne _ m j _ h).trans ?_
  change (if (s.mbx m).session.isSome then s.post 0x0002 6 7 m 1 0 else s).mbx j = s.mbx j
  split
  · exact mbx_post ..
  · rfl

theorem sessionOpened_withMbx : (s.sessionOpened m tok).smp.withMbx b =
    if (s.mbx m).session.isSome then (s.smp.withMbx b).post (mkEvent 0x0002 6 7 m 1 0 s.time) else s.smp.withMbx b := by
  rw [State.sessionOpened]
  split
  · exact post_withMbx s _ _ _ _ _ _ b
  · rfl

theorem sessionOpened_writes : ∃ x n, s.sessionOpened m tok = { s with smp := x, free := n } := by
  simp only [State.sessionOpened, State.modMbx, State.tickFree, State.post]
  split <;> exact ⟨_, _, rfl⟩

theorem enteredAnswered_mbx : (s.enteredAnswered m seq w).mbx m =
    { s.mbx m with last := seq, stored := w, timer := s.time, rsp := w, rspValid := true, busy := false, held := false } := by
  rw [State.enteredAnswered, State.deliver, mbx_post, mbx_modMbx, State.keep, mbx_modMbx, mbx_modMbx]
  rfl

theorem enteredAnswered_mbx_ne {j : Fin 4} (h : (m : Nat) ≠ j) : (s.enteredAnswered m seq w).mbx j = s.mbx j := by
  rw [State.enteredAnswered, State.deliver, mbx_post, mbx_modMbx_ne _ _ _ _ h, State.keep, mbx_modMbx_ne _ _ _ _ h,
    mbx_modMbx_ne _ _ _ _ h]

theorem enteredAnswered_withMbx : (s.enteredAnswered m seq w).smp.withMbx b =
    (s.smp.withMbx b).post (mkEvent 0x0001 6 7 m (field w.toNat 16 16) (field w.toNat 32 16) s.time) := post_withMbx ..

theorem enteredAnswered_writes : ∃ x, s.enteredAnswered m seq w = { s with smp := x } := by
  simp only [State.enteredAnswered, State.deliver, State.keep, State.post, State.modMbx]
  exact ⟨_, rfl⟩

end

/-- A SESSION_OPEN that is not refused opens a session. -/
theorem runSessionOpen_opens {s : State} {m : Nat} {q : BitVec 448} (h : (s.mbx m).session.isSome = false ∨ bit (par q 8 1) 0 = true) :
    runSessionOpen s m q = (s.sessionOpened m (newToken s.free (s.mbx m).prevToken), some (openedRsp (newToken s.free (s.mbx m).prevToken))) := by
  have hgoes : ¬ ((s.mbx m).session.isSome && !bit (par q 8 1) 0) = true := by
    rcases h with h | h <;> simp [h]
  rw [runSessionOpen]
  simp only [if_neg hgoes]
  have hfree : (if (s.mbx m).session.isSome = true then s.post 0x0002 6 7 m 1 0 else s).free = s.free := by
    split
    · exact State.post_free ..
    · rfl
  rw [State.sessionOpened, hfree, openedRsp]

/-- The state that SESSION_OPEN leaves. -/
def State.sessionAnswered (s : State) (m : Fin 4) (q : Req) : State :=
  ((s.rung m 2 q).sessionOpened m (newToken s.free (s.mbx m).prevToken)).enteredAnswered m q.seq
    ((openedRsp (newToken s.free (s.mbx m).prevToken)).word 2 q.seq.toNat)

/-- Beside the management port and the counter of free values nothing changes. -/
theorem sessionAnswered_writes (s : State) (m : Fin 4) (q : Req) : ∃ x n, s.sessionAnswered m q = { s with smp := x, free := n } := by
  obtain ⟨x, n, hx⟩ := sessionOpened_writes (s.rung m 2 q) m (newToken s.free (s.mbx m).prevToken)
  obtain ⟨y, hy⟩ := enteredAnswered_writes { s.rung m 2 q with smp := x, free := n } m q.seq
    ((openedRsp (newToken s.free (s.mbx m).prevToken)).word 2 q.seq.toNat)
  rw [State.sessionAnswered, hx, hy]
  obtain ⟨z, hz⟩ := rung_writes s m 2 q
  rw [hz]
  exact ⟨y, n, rfl⟩

theorem exec_sessionOpen_opens {s : State} {m : Fin 4} {q : Req} (h : Rings s m) (hrom : s.fw.romMode = false ∨ m = 3)
    (hj : cmdSessionOpen.judge s m q.par false = none) (hgoes : (s.mbx m).session.isSome = false ∨ bit (par q.par 8 1) 0 = true) :
    exec (.sessionOpen m q) s = .next (s.sessionAnswered m q) := by
  have hrun := runSessionOpen_opens (s := s.rung m 2 q) (m := m) (q := q.par) (by rw [rung_mbx]; exact hgoes)
  rw [rung_mbx, rung_free] at hrun
  have hserve : (s.rung m 2 q).serve m (some cmdSessionOpen) = s.sessionAnswered m q := by
    rw [State.serve, rung_mbx, rung_request_sessionOpen hrom hj hrun, if_pos (openedRsp_status _)]
    rfl
  refine (mailboxRow_rings cmdSessionOpen s m q h).trans ?_
  obtain ⟨x, n, hx⟩ := sessionAnswered_writes s m q
  rw [show cmdSessionOpen.code = 2 from rfl, hserve, hx]
  rfl

/-- The mailbox of the session that has been opened. -/
theorem sessionAnswered_mbx (s : State) (m : Fin 4) (q : Req) : (s.sessionAnswered m q).mbx m =
    (let tok := newToken s.free (s.mbx m).prevToken
     let w := (openedRsp tok).word 2 q.seq.toNat
     { s.mbx m with
      req := q.word 2, taken := q.word 2, rsp := w, rspValid := true, busy := false, held := false, session := some tok,
      prevToken := tok, last := q.seq, stored := w, timer := s.time }) := by
  rw [State.sessionAnswered, enteredAnswered_mbx, sessionOpened_mbx, sessionOpened_time, rung_mbx, rung_time]

theorem sessionAnswered_mbx_ne (s : State) (m : Fin 4) (q : Req) {j : Fin 4} (h : j ≠ m) : (s.sessionAnswered m q).mbx j = s.mbx j := by
  have hne : (m : Nat) ≠ j := fun he => h (Fin.ext he).symm
  rw [State.sessionAnswered, enteredAnswered_mbx_ne _ _ _ _ hne, sessionOpened_mbx_ne _ _ _ hne, State.rung, mbx_answer,
    mbx_modMbx_ne _ _ _ _ hne, mbx_modMbx_ne _ _ _ _ hne]

/-- Beside the mailboxes the management port has answered the write of the doorbell and posted the events. -/
theorem sessionAnswered_smp (s : State) (m : Fin 4) (q : Req) : { (s.sessionAnswered m q).smp with mbx := s.smp.mbx } =
    (let cut : Smp := { s.smp with rdata := 0, err := false }
     let ended := if (s.mbx m).session.isSome then cut.post (mkEvent 0x0002 6 7 m 1 0 s.time) else cut
     ended.post (mkEvent 0x0001 6 7 m q.seq.toNat 0 s.time)) := by
  have hseq := rsp_seq 2 q.seq.toNat (openedRsp (newToken s.free (s.mbx m).prevToken))
  have hst := rsp_status 2 q.seq.toNat (openedRsp (newToken s.free (s.mbx m).prevToken))
  rw [Nat.mod_eq_of_lt q.seq.isLt] at hseq
  rw [openedRsp_status, show stOk % 2 ^ 16 = 0 from rfl] at hst
  change (s.sessionAnswered m q).smp.withMbx s.smp.mbx = _
  rw [State.sessionAnswered, enteredAnswered_withMbx, hseq, hst, sessionOpened_withMbx, rung_withMbx, rung_mbx, sessionOpened_time,
    rung_time]

/-! ### The other commands of a session -/

section
variable {s : State} {m : Fin 4} (h : Awake s)
include h

/-- A session that has been idle for 1 s ends (R337). -/
theorem exec_sessionExpired_due (hopen : (s.mbx m).session.isSome = true) (hb : (s.mbx m).busy = false)
    (hrel : ¬ (m = 1 ∧ s.relayWaits = true)) (ht : (s.mbx m).timer + 1000000000 ≤ s.time) :
    exec (.sessionExpired m) s = .next ((s.modMbx m (fun x => { x with session := none })).post 0x0002 6 7 m 0 0) := by
  have hrelay : (decide (m.toNat = 1) && s.relayWaits) = false := by
    rw [Bool.eq_false_iff, ne_eq, Bool.and_eq_true, decide_eq_true_eq]
    exact fun ⟨h1, h2⟩ => hrel ⟨Fin.ext h1, h2⟩
  change execSessionExpired m s = _
  rw [execSessionExpired, act_awake s _ h, when_of_true]
  · rfl
  · simp only [hrelay, Bool.and_eq_true, Bool.not_eq_true', decide_eq_true_eq]
    exact ⟨⟨⟨hopen, hb⟩, trivial⟩, ht⟩

/-- Otherwise nothing happens. -/
theorem exec_sessionExpired_early (hno : (s.mbx m).session.isSome = false ∨ (s.mbx m).busy = true ∨ (m = 1 ∧ s.relayWaits = true) ∨
    s.time < (s.mbx m).timer + 1000000000) : exec (.sessionExpired m) s = .next s := by
  change execSessionExpired m s = _
  rw [execSessionExpired, act_awake s _ h, when_of_false]
  · rfl
  · rw [Bool.eq_false_iff]
    simp only [ne_eq, Bool.and_eq_true, Bool.not_eq_true', Bool.and_eq_false_iff, decide_eq_true_eq, decide_eq_false_iff_not]
    rintro ⟨⟨⟨hopen, hb⟩, hrel⟩, ht⟩
    rcases hno with hno | hno | ⟨rfl, hno⟩ | hno
    · exact absurd (hopen.symm.trans hno) (by decide)
    · exact absurd (hb.symm.trans hno) (by decide)
    · exact hrel.elim (fun h1 => h1 rfl) (fun h2 => absurd (h2.symm.trans hno) (by decide))
    · exact absurd ht (Nat.not_le.mpr hno)

end

/-- Settles O11. -/
theorem sessions : Obligations.Sessions := by
  unfold Obligations.Sessions
  refine ⟨fun s m q => ⟨fun h => ?_, fun h => ?_⟩, fun s m q h hrom hj => ⟨exec_sessionOpen_busy h hrom hj, fun hgoes => ?_⟩,
    fun s m h => ⟨exec_sessionExpired_due h, exec_sessionExpired_early h⟩⟩
  · exact exec_answers (.keepalive m q) cmdKeepalive m q s s Rsp.ok rfl h (by decide) rfl (by decide) rfl rfl rfl
  · refine exec_answers (.sessionClose m q) cmdSessionClose m q s (s.modMbx m (fun b => { b with session := none })) Rsp.ok rfl h (by decide)
      ?_ (by decide) rfl rfl rfl
    simp only [cmdSessionClose, runSessionClose, State.modMbx, State.entered, modV_modV]
  · obtain ⟨x, n, hx⟩ := sessionAnswered_writes s m q
    obtain ⟨htok, hprev⟩ := newToken_spec s.free (s.mbx m).prevToken
    exact ⟨s.sessionAnswered m q, newToken s.free (s.mbx m).prevToken, exec_sessionOpen_opens h hrom hj hgoes, htok, hprev,
      sessionAnswered_mbx s m q, fun j => sessionAnswered_mbx_ne s m q, by rw [hx], sessionAnswered_smp s m q⟩

end Sys2Proof.Machine
end

section
/-! Proof of O12: IDENTIFY and RUN_STATUS (Tables 12-9, 12-10). The result bytes of an answer are fields packed one after another. -/

namespace Sys2Proof.Machine

open Sys2Proof.Bits

/-! ### Packed fields -/

/-- Fields of given numbers of bytes, packed one after another, the first at bit 0. -/
def packed : List (Nat × Nat) → Nat
  | [] => 0
  | (n, v) :: fs => v % 2 ^ (8 * n) + packed fs * 2 ^ (8 * n)

/-- The bytes that fields take. -/
def packedBytes (fs : List (Nat × Nat)) : Nat := (fs.map Prod.fst).sum

/-- The first of the packed fields. -/
theorem field_packed_head (n v : Nat) (fs : List (Nat × Nat)) : field (packed ((n, v) :: fs)) 0 (8 * n) = v % 2 ^ (8 * n) := by
  rw [field, Nat.shiftRight_zero, packed, Nat.add_mul_mod_self_right, Nat.mod_mod]

/-- A field beyond the first one. -/
theorem field_packed_tail (n v : Nat) (fs : List (Nat × Nat)) (lo k : Nat) :
    field (packed ((n, v) :: fs)) (8 * n + lo) k = field (packed fs) lo k := by
  have hlt : v % 2 ^ (8 * n) < 2 ^ (8 * n) := Nat.mod_lt _ (Nat.two_pow_pos _)
  rw [field, field, Nat.shiftRight_add, Nat.shiftRight_eq_div_pow _ (8 * n), packed,
    Nat.add_mul_div_right _ _ (Nat.two_pow_pos _), Nat.div_eq_of_lt hlt, Nat.zero_add]

/-- A field beyond the first few. -/
theorem field_packed_append (gs tl : List (Nat × Nat)) (lo k : Nat) :
    field (packed (gs ++ tl)) (8 * packedBytes gs + lo) k = field (packed tl) lo k := by
  induction gs with
  | nil => simp [packedBytes]
  | cons g gs ih =>
    rw [packedBytes, List.map_cons, List.sum_cons, Nat.mul_add, Nat.add_assoc]
    exact (field_packed_tail g.1 g.2 (gs ++ tl) _ _).trans ih

/-- The result field of an answer whose body is packed. -/
theorem result_packed {a : Rsp} {fs : List (Nat × Nat)} (hbody : a.body = packed fs) (i : Nat) {off n v M : Nat} (h : fs[i]? = some (n, v))
    (hoff : off = 8 + packedBytes (fs.take i)) (hM : 2 ^ (8 * n) = M := by rfl) : a.result off n = v % M := by
  rw [← hM]
  obtain ⟨hi, hv⟩ := List.getElem?_eq_some_iff.mp h
  have hsplit : fs = fs.take i ++ (n, v) :: fs.drop (i + 1) := by
    rw [← hv, ← List.drop_eq_getElem_cons hi, List.take_append_drop]
  rw [Rsp.result, hoff, Nat.add_sub_cancel_left, hbody, hsplit, List.take_left' (List.length_take_of_le hi.le)]
  exact (field_packed_append _ _ 0 _).trans (field_packed_head n v _)

theorem result_packed_zero {a : Rsp} {fs : List (Nat × Nat)} (hbody : a.body = packed fs) (i : Nat) {off n : Nat} (h : fs[i]? = some (n, 0))
    (hoff : off = 8 + packedBytes (fs.take i)) : a.result off n = 0 := (result_packed hbody i h hoff rfl).trans (Nat.zero_mod _)

/-- The fields of a response, from an offset on. -/
def resFrom : Nat → List (Nat × Nat) → Nat
  | _, [] => 0
  | off, (n, v) :: fs => res off n v + resFrom (off + n) fs

theorem resFrom_eq (fs : List (Nat × Nat)) (off : Nat) (h : 8 ≤ off) : resFrom off fs = packed fs * 2 ^ (8 * (off - 8)) := by
  induction fs generalizing off with
  | nil => rw [resFrom, packed, Nat.zero_mul]
  | cons f fs ih =>
    have hexp : 8 * (off + f.1 - 8) = 8 * f.1 + 8 * (off - 8) := by omega
    rw [resFrom, ih (off + f.1) (by omega), packed, hexp, Nat.pow_add, res, Nat.add_mul, Nat.mul_assoc]

theorem resFrom_result (fs : List (Nat × Nat)) : resFrom 8 fs = packed fs := by
  rw [resFrom_eq fs 8 (by decide)]
  simp

theorem res_zero (off n : Nat) : res off n 0 = 0 := by simp [res]

theorem packed_lt (fs : List (Nat × Nat)) : packed fs < 2 ^ (8 * packedBytes fs) := by
  induction fs with
  | nil => simp [packed, packedBytes]
  | cons f fs ih =>
    have hlt : f.2 % 2 ^ (8 * f.1) < 2 ^ (8 * f.1) := Nat.mod_lt _ (Nat.two_pow_pos _)
    rw [packed, packedBytes, List.map_cons, List.sum_cons, Nat.mul_add, Nat.pow_add]
    change packed fs < 2 ^ (8 * (fs.map Prod.fst).sum) at ih
    calc f.2 % 2 ^ (8 * f.1) + packed fs * 2 ^ (8 * f.1)
        < 2 ^ (8 * f.1) + packed fs * 2 ^ (8 * f.1) := by omega
      _ = (packed fs + 1) * 2 ^ (8 * f.1) := by rw [Nat.add_mul, Nat.one_mul, Nat.add_comm]
      _ ≤ 2 ^ (8 * (fs.map Prod.fst).sum) * 2 ^ (8 * f.1) := Nat.mul_le_mul_right _ ih
      _ = 2 ^ (8 * f.1) * 2 ^ (8 * (fs.map Prod.fst).sum) := Nat.mul_comm _ _

/-! ### Lists of handles -/

/-- Handles as fields of two bytes. -/
def handleFields (l : List Nat) : List (Nat × Nat) := l.map (fun h => (2, h))

theorem field_handleFields (l : List Nat) (i : Nat) : field (packed (handleFields l)) (16 * i) 16 = l.getD i 0 % 2 ^ 16 := by
  induction l generalizing i with
  | nil => simp [handleFields, packed, field]
  | cons h l ih =>
    cases i with
    | zero => exact field_packed_head 2 h (handleFields l)
    | succ i =>
      rw [Nat.mul_add, Nat.add_comm]
      exact (field_packed_tail 2 h (handleFields l) _ _).trans (ih i)

/-- RUN_STATUS adds the handles up, each at its place. -/
theorem foldl_handles (l : List Nat) (k acc : Nat) :
    (l.zipIdx k).foldl (fun a (p : Nat × Nat) => a + p.1 % 2 ^ 16 * 2 ^ (16 * p.2)) acc = acc + packed (handleFields l) * 2 ^ (16 * k) := by
  induction l generalizing k acc with
  | nil => simp [handleFields, packed]
  | cons h l ih =>
    have hcons : packed (handleFields (h :: l)) = h % 2 ^ 16 + packed (handleFields l) * 2 ^ 16 := rfl
    rw [List.zipIdx_cons, List.foldl_cons, ih, hcons, Nat.mul_add 16 k 1, Nat.pow_add]
    ring

theorem packed_append (gs tl : List (Nat × Nat)) : packed (gs ++ tl) = packed gs + packed tl * 2 ^ (8 * packedBytes gs) := by
  induction gs with
  | nil => simp [packed, packedBytes]
  | cons g gs ih =>
    obtain ⟨n, v⟩ := g
    rw [List.cons_append, packed, ih, packed, packedBytes, packedBytes, List.map_cons, List.sum_cons, Nat.mul_add, Nat.pow_add]
    ring

/-! ### The two answers -/

/-- The slot that runs; 0xFF in ROM mode and where none runs. -/
def State.slotShown (s : State) : Nat := if s.fw.romMode then 0xFF else (s.fw.running.map Fin.toNat).getD 0xFF

/-- The fields of IDENTIFY. -/
def identFields (s : State) : List (Nat × Nat) :=
  [(4, smIdent s.cfg), (4, smFru s), (4, if s.fw.romMode then 0 else s.fwVersion), (1, s.slotShown), (1, s.level), (1, s.sessions), (1, 0),
   (4, s.capacity / 2 ^ 20), (1, channels s.cfg), (1, s.disc.rowbits), (1, s.disc.nPost), (1, 0), (16, Discovery.record s.disc), (16, 0)]

theorem runIdentify_eq (s : State) (m : Nat) (q : BitVec 448) :
    runIdentify s m q = (s, some { Rsp.ok with body := packed (identFields s) }) := by
  have hslot : (match s.fw.running with | some i => if s.fw.romMode then 0xFF else i.toNat | none => 0xFF) = s.slotShown := by
    unfold State.slotShown
    cases s.fw.running <;> cases s.fw.romMode <;> rfl
  rw [← resFrom_result]
  simp only [runIdentify, identFields, resFrom, res_zero, Nat.reduceAdd, Nat.add_zero, Nat.zero_add, Nat.add_assoc, ← hslot] <;> rfl

/-- The handles that RUN_STATUS lists, rising. -/
def State.handlesShown (s : State) : List Nat := (s.ops.map LongOp.handle).foldr insertNat []

/-- The fields of RUN_STATUS before the handles. -/
def statusFields (s : State) : List (Nat × Nat) :=
  [(2, s.runFlags), (1, s.level), (1, s.ops.length), (4, s.fabric.epoch), (6, s.run.lastStep), (2, 0), (6, s.run.updates),
   (1, toSigned 8 s.run.lossExp), (1, 0), (8, digest64 s), (4, mapWord s.cfg s.stills), (4, s.run.gen)]

theorem packedBytes_handleFields (l : List Nat) : packedBytes (handleFields l) = 2 * l.length := by
  induction l with
  | nil => rfl
  | cons h l ih =>
    have : packedBytes (handleFields (h :: l)) = 2 + packedBytes (handleFields l) := List.sum_cons
    rw [this, ih, List.length_cons]
    omega

theorem runRunStatus_eq (s : State) (m : Nat) (q : BitVec 448) :
    runRunStatus s m q = (s, some { Rsp.ok with body := packed (statusFields s ++ handleFields (s.handlesShown.take 8)) }) := by
  have hsum : (s.handlesShown.take 8).zipIdx.foldl (fun a (p : Nat × Nat) => a + p.1 % 2 ^ 16 * 2 ^ (16 * p.2)) 0 =
      packed (handleFields (s.handlesShown.take 8)) := by
    rw [foldl_handles, Nat.zero_add, Nat.mul_zero, Nat.pow_zero, Nat.mul_one]
  have hlt : packed (handleFields (s.handlesShown.take 8)) < 2 ^ (8 * 16) := by
    refine Nat.lt_of_lt_of_le (packed_lt _) (Nat.pow_le_pow_right (by decide) ?_)
    rw [packedBytes_handleFields]
    have := List.length_take_le 8 s.handlesShown
    omega
  rw [packed_append, ← resFrom_result, show packedBytes (statusFields s) = 40 from rfl]
  have hres : res 48 16 (packed (handleFields (s.handlesShown.take 8))) = packed (handleFields (s.handlesShown.take 8)) * 2 ^ (8 * 40) := by
    rw [res, Nat.mod_eq_of_lt hlt]
  rw [← hres, ← hsum]
  simp only [runRunStatus, statusFields, resFrom, res_zero, Nat.reduceAdd, Nat.add_zero, Nat.zero_add, Nat.add_assoc]
  rfl

/-! ### A request that is taken shows in neither answer -/

/-- A management port that shows what another does, but for the buffers of the mailboxes. -/
structure SameShown (s : State) (x : Smp) : Prop where
  pos : x.pos = s.smp.pos
  level : x.level = s.smp.level
  session : ∀ j, (getV x.mbx j {}).session = (s.mbx j).session

section
variable {s : State} {x : Smp} (h : SameShown s x)
include h

theorem SameShown.level_eq : ({ s with smp := x } : State).level = s.level := by
  simp only [State.level, h.level]

theorem SameShown.identFields_eq : identFields { s with smp := x } = identFields s := by
  have hfru : smFru { s with smp := x } = smFru s := by simp only [smFru, State.ea, h.pos]
  have hsessions : ({ s with smp := x } : State).sessions = s.sessions := by
    simp only [State.sessions, State.mbx, h.session]
  rw [identFields, hfru, hsessions, h.level_eq]
  rfl

theorem SameShown.statusFields_eq : statusFields { s with smp := x } = statusFields s := by
  rw [statusFields, h.level_eq]
  rfl

end

theorem session_modV (s : State) (m : Fin 4) (f : Mailbox → Mailbox) (hf : ∀ b, (f b).session = b.session) (j : Nat) :
    (getV (modV s.smp.mbx m f) j {}).session = (s.mbx j).session := by
  by_cases h : (m : Nat) = j
  · subst h
    rw [getV_modV_self _ _ _ _ m.isLt, hf]
    rfl
  · rw [getV_modV_ne _ _ _ _ _ h]
    rfl

theorem sameShown_entered (s : State) (m : Fin 4) (code : Nat) (q : Req) : SameShown s (s.entered m code q).smp where
  pos := rfl
  level := rfl
  session := session_modV s m _ fun _ => rfl

theorem rung_boxes (s : State) (m : Fin 4) (code : Nat) (q : Req) : (s.rung m code q).smp.mbx =
    modV s.smp.mbx m (fun b => { b with req := q.word code, taken := q.word code, busy := true, rspValid := false }) := modV_modV ..

theorem sameShown_rung (s : State) (m : Fin 4) (code : Nat) (q : Req) : SameShown s (s.rung m code q).smp where
  pos := rfl
  level := rfl
  session := by
    rw [rung_boxes]
    exact session_modV s m _ fun _ => rfl

theorem rung_eq_with_smp (s : State) (m : Fin 4) (code : Nat) (q : Req) : s.rung m code q = { s with smp := (s.rung m code q).smp } := by
  obtain ⟨x, hx⟩ := rung_writes s m code q
  rw [hx]

/-! ### Requests without a token -/

/-- IDENTIFY and RUN_STATUS with TOKEN 0 run at once and enter no sequence (R336). -/
theorem exec_tokenFree {c : Instr} {k : Cmd} {s : State} {m : Fin 4} {q : Req} {a : Rsp} (hrow : rowCmd c = some (k, m, q))
    (h : Rings s m) (hcode : k.code = 0x0001 ∨ k.code = 0x0005) (htok : q.token = 0)
    (hj : k.judge (s.rung m k.code q) m q.par false = none) (hst : k.stages (s.rung m k.code q) = false)
    (hrun : k.run (s.rung m k.code q) m q.par = (s.rung m k.code q, some a)) :
    exec c s = .next (s.answeredApart m k.code q (a.word k.code q.seq.toNat)) := by
  have hreq : reqCode (q.word k.code) = k.code := by rw [reqCode_word]; exact Nat.mod_eq_of_lt (row_lt c k m q hrow)
  have hout : ¬ romOut s m k.code := fun ⟨_, _, h1, h5⟩ => hcode.elim h1 h5
  have h2 : k.code ≠ 2 := by omega
  have hexec : (s.rung m k.code q).execute m (some k) q.par false = (s.rung m k.code q, some a) := by
    rw [State.execute, hj, hst]
    exact hrun
  rw [row_exec c k m q s hrow]
  refine mailboxRow_answeredApart h _ ?_
  rw [State.request]
  simp only [hreq, reqOf_word, (romOut_check s m k.code q k.code rfl).not.mpr hout, Bool.false_eq_true, h2, if_false, hcode, htok,
    and_self, if_true, hexec, Option.map_some]

/-! ### What the answers show -/

/-- SM_FRU takes 21 bits (Table 12-5). -/
theorem smFru_lt (s : State) : smFru s < 2 ^ 32 := by
  have hpos := s.smp.pos.isLt
  have hassigned : ofBool (!s.fabric.assigned) ≤ 1 := by cases s.fabric.assigned <;> decide
  simp only [smFru, State.ea]
  omega

theorem smIdent_lt (c : Cfg) : smIdent c < 2 ^ 32 := by cases c <;> decide

theorem channels_lt (c : Cfg) : channels c < 2 ^ 8 := by cases c <;> decide

theorem slotShown_lt (s : State) : s.slotShown < 2 ^ 8 := by
  unfold State.slotShown
  split
  · decide
  · cases s.fw.running with
    | none => decide
    | some i => exact Nat.lt_trans i.isLt (by decide)

theorem sessions_lt (s : State) : s.sessions < 2 ^ 8 := by
  have hle (m : Nat) : ofBool (s.mbx m).session.isSome ≤ 1 := by cases (s.mbx m).session.isSome <;> decide
  have h0 := hle 0
  have h1 := hle 1
  have h2 := hle 2
  have h3 := hle 3
  have hsum : s.sessions = 0 + ofBool (s.mbx 0).session.isSome * 2 ^ 0 + ofBool (s.mbx 1).session.isSome * 2 ^ 1 +
      ofBool (s.mbx 2).session.isSome * 2 ^ 2 + ofBool (s.mbx 3).session.isSome * 2 ^ 3 := rfl
  omega

/-- What the body of IDENTIFY shows (Table 12-10). -/
theorem identFields_shown {s : State} {a : Rsp} (h : a.body = packed (identFields s)) :
    a.result 8 4 = smIdent s.cfg ∧ a.result 12 4 = smFru s ∧ a.result 16 4 = (if s.fw.romMode then 0 else s.fwVersion % 2 ^ 32) ∧
      a.result 20 1 = s.slotShown ∧ a.result 21 1 = s.level % 256 ∧ a.result 22 1 = s.sessions ∧ a.result 23 1 = 0 ∧
      a.result 24 4 = s.capacity / 2 ^ 20 % 2 ^ 32 ∧ a.result 28 1 = channels s.cfg ∧ a.result 29 1 = s.disc.rowbits % 256 ∧
      a.result 30 1 = s.disc.nPost % 256 ∧ a.result 31 1 = 0 ∧ a.result 32 16 = Discovery.record s.disc % 2 ^ 128 ∧ a.result 48 16 = 0 := by
  have hlast : 48 = 8 + packedBytes ((identFields s).take 13) := by simp [identFields, packedBytes]
  have hzero := fun i {off n : Nat} => result_packed_zero h i (off := off) (n := n)
  refine ⟨?_, ?_, ?_, ?_, result_packed h 4 rfl rfl, ?_, hzero 6 rfl rfl, result_packed h 7 rfl rfl, ?_,
    result_packed h 9 rfl rfl, result_packed h 10 rfl rfl, hzero 11 rfl rfl, result_packed h 12 rfl rfl, hzero 13 rfl hlast⟩
  · exact (result_packed h 0 rfl rfl).trans (Nat.mod_eq_of_lt (smIdent_lt s.cfg))
  · exact (result_packed h 1 rfl rfl).trans (Nat.mod_eq_of_lt (smFru_lt s))
  · refine (result_packed h 2 rfl rfl).trans ?_
    split <;> rfl
  · exact (result_packed h 3 rfl rfl).trans (Nat.mod_eq_of_lt (slotShown_lt s))
  · exact (result_packed h 5 rfl rfl).trans (Nat.mod_eq_of_lt (sessions_lt s))
  · exact (result_packed h 8 rfl rfl).trans (Nat.mod_eq_of_lt (channels_lt s.cfg))

/-- What the body of RUN_STATUS shows (Table 12-9). -/
theorem statusFields_shown {s : State} {a : Rsp} (h : a.body = packed (statusFields s ++ handleFields (s.handlesShown.take 8))) :
    a.result 8 2 = s.runFlags % 2 ^ 16 ∧ a.result 10 1 = s.level % 256 ∧ a.result 11 1 = s.ops.length % 256 ∧
      a.result 12 4 = s.fabric.epoch % 2 ^ 32 ∧ a.result 16 6 = s.run.lastStep % 2 ^ 48 ∧ a.result 22 2 = 0 ∧
      a.result 24 6 = s.run.updates % 2 ^ 48 ∧ a.result 30 1 = toSigned 8 s.run.lossExp % 256 ∧ a.result 31 1 = 0 ∧
      a.result 32 8 = digest64 s % 2 ^ 64 ∧ (∀ i, i < 8 → a.result (48 + 2 * i) 2 = s.handlesShown.getD i 0 % 2 ^ 16) ∧
      a.result 40 4 = mapWord s.cfg s.stills % 2 ^ 32 ∧ a.result 44 4 = s.run.gen % 2 ^ 32 := by
  refine ⟨result_packed h 0 rfl rfl, result_packed h 1 rfl rfl, result_packed h 2 rfl rfl, result_packed h 3 rfl rfl,
    result_packed h 4 rfl rfl, result_packed_zero h 5 rfl rfl, result_packed h 6 rfl rfl, result_packed h 7 rfl rfl,
    result_packed_zero h 8 rfl rfl, result_packed h 9 rfl rfl, fun i hi => ?_, result_packed h 10 rfl rfl, result_packed h 11 rfl rfl⟩
  have hplace : 8 * (48 + 2 * i - 8) = 8 * packedBytes (statusFields s) + 16 * i := by
    rw [show packedBytes (statusFields s) = 40 from rfl]
    omega
  have hshown : (s.handlesShown.take 8).getD i 0 = s.handlesShown.getD i 0 := by
    simp only [List.getD_eq_getElem?_getD, List.getElem?_take_of_lt hi]
  rw [Rsp.result, h, hplace, field_packed_append, field_handleFields, hshown]

section
variable (s : State) (m : Fin 4) (code : Nat) (q : Req)

theorem identFields_entered : identFields (s.entered m code q) = identFields s := (sameShown_entered s m code q).identFields_eq

theorem statusFields_entered : statusFields (s.entered m code q) = statusFields s := (sameShown_entered s m code q).statusFields_eq

theorem identFields_rung : identFields (s.rung m code q) = identFields s := by
  rw [rung_eq_with_smp]
  exact (sameShown_rung s m code q).identFields_eq

theorem statusFields_rung : statusFields (s.rung m code q) = statusFields s := by
  rw [rung_eq_with_smp]
  exact (sameShown_rung s m code q).statusFields_eq

theorem handlesShown_rung : (s.rung m code q).handlesShown = s.handlesShown := by
  rw [rung_eq_with_smp]
  rfl

end

/-- The checks of a command that has neither fields out of range nor pointers. -/
theorem judge_rung {k : Cmd} (s : State) (m : Fin 4) (q : Req) (hbad : ∀ u : State, k.bad u q.par = none) :
    k.judge (s.rung m k.code q) m q.par false = k.judge s m q.par false :=
  judge_congr k s (s.rung m k.code q) m q.par false (rung_romRefuses s m k.code q k.code) (rung_level s m k.code q)
    ((hbad _).trans (hbad s).symm) (rung_pointerOk s m k.code q)

/-- Settles O12. Both answers are packed fields (`runIdentify_eq`, `runRunStatus_eq`) that the entry of the request does not change. -/
theorem identifyAndRunStatus : Obligations.IdentifyAndRunStatus := by
  unfold Obligations.IdentifyAndRunStatus
  intro s m q
  have hok : stOk < 65536 := by decide
  refine ⟨fun h => ?_, fun h => ?_, fun h htok hj => ?_, fun h htok hj => ?_⟩
  · refine ⟨{ Rsp.ok with body := packed (identFields s) }, ⟨rfl, rfl, identFields_shown rfl⟩, ?_⟩
    refine exec_answers (.identify m q) cmdIdentify m q s s _ rfl h (by decide) ?_ hok rfl rfl rfl
    exact (runIdentify_eq _ m q.par).trans (by rw [identFields_entered])
  · refine ⟨{ Rsp.ok with body := packed (statusFields s ++ handleFields (s.handlesShown.take 8)) }, ⟨rfl, rfl, statusFields_shown rfl⟩, ?_⟩
    refine exec_answers (.runStatus m q) cmdRunStatus m q s s _ rfl h (by decide) ?_ hok rfl rfl rfl
    exact (runRunStatus_eq _ m q.par).trans (by rw [statusFields_entered]; rfl)
  · refine ⟨{ Rsp.ok with body := packed (identFields s) }, ⟨rfl, rfl, identFields_shown rfl⟩, ?_⟩
    refine exec_tokenFree (c := .identify m q) (k := cmdIdentify) rfl h (.inl rfl) htok ((judge_rung s m q fun _ => rfl).trans hj) rfl ?_
    exact (runIdentify_eq _ m q.par).trans (by rw [identFields_rung])
  · refine ⟨{ Rsp.ok with body := packed (statusFields s ++ handleFields (s.handlesShown.take 8)) }, ⟨rfl, rfl, statusFields_shown rfl⟩, ?_⟩
    refine exec_tokenFree (c := .runStatus m q) (k := cmdRunStatus) rfl h (.inr rfl) htok ((judge_rung s m q fun _ => rfl).trans hj) rfl ?_
    exact (runRunStatus_eq _ m q.par).trans (by rw [statusFields_rung, handlesShown_rung])

end Sys2Proof.Machine
end

section
/-! Proof of O13: RUN_SETUP, FRESH_SEED, CURSOR_SET, DIGEST_SELECT and GRAD_CAPTURE. -/

namespace Sys2Proof.Machine

open Sys2Proof.Bits

/-! ### The answer of a command that also changes the management port -/

/-- An answered command writes the management port at most; the answer stands in the buffer of its mailbox, which is free again. -/
theorem finish_writes (u : State) (m : Fin 4) (code : Nat) (q : Req) (a : Rsp) : ∃ x, Ran.finish (u, some a) m code q = { u with smp := x } ∧
    (getV x.mbx m {}).rsp = a.word code q.seq.toNat ∧ (getV x.mbx m {}).busy = false := by
  have hbox : (Ran.finish (u, some a) m code q).mbx m =
      { u.mbx m with stored := a.word code q.seq.toNat, timer := u.time, rsp := a.word code q.seq.toNat, rspValid := true, busy := false,
                     held := false } := by
    simp only [Ran.finish, State.deliver, mbx_post, mbx_modMbx, State.keep]
  refine ⟨(Ran.finish (u, some a) m code q).smp, rfl, ?_, ?_⟩
  · exact congrArg Mailbox.rsp hbox
  · exact congrArg Mailbox.busy hbox

/-- A row whose command answers in a state that keeps configuration, queue and PORST_N. -/
theorem exec_finishes {c : Instr} {k : Cmd} {m : Fin 4} {q : Req} {s u : State} {a : Rsp} (h : rowCmd c = some (k, m, q))
    (ha : Accepted k s m q) (h2 : k.code ≠ 2) (hr : k.run (s.entered m k.code q) m q.par = (u, some a)) (h3 : u.cfg = s.cfg)
    (h4 : u.pending = s.pending) (h5 : u.porst = s.porst) : ∃ x, exec c s = .next { u with smp := x } ∧
    (getV x.mbx m {}).rsp = a.word k.code q.seq.toNat ∧ (getV x.mbx m {}).busy = false := by
  obtain ⟨x, hx, hrsp, hbusy⟩ := finish_writes u m k.code q a
  refine ⟨x, ?_, hrsp, hbusy⟩
  rw [exec_accepted c k m q s h ha h2, hr, hx]
  exact congrArg _ (hold_of _ _ h3 h4 h5)

/-! ### The entropy source -/

/-- What a failed health test leaves of the source (R239). -/
def Entropy.failed (e : Entropy) : Entropy := { e with ready := false, failures := e.failures + 1, fenced := decide (2 ≤ e.failures + 1) }

theorem State.entropyFailed_writes (s : State) (p : Bool) : ∃ x l b, s.entropyFailed p =
    { s with entropy := s.entropy.failed, smp := x, log := l, blotter := b } := by
  simp only [State.entropyFailed]
  split
  · obtain ⟨l, x, b, he⟩ := State.error_writes _ _
    exact ⟨x, l, b, he⟩
  · exact ⟨_, s.log, s.blotter, rfl⟩

/-- The state with 192 samples drawn for FRESH_SEED. -/
def State.seedDrawn (s : State) : State := { s with free := s.free + 192, entropy := { s.entropy with wanted := false } }

section
variable {s : State} {m : Nat} {q : BitVec 448}

theorem runFreshSeed_unpowered (hp : s.present 3 = false) : runFreshSeed s m q =
    ({ s.requestDom 3 with entropy := { s.entropy with wanted := true } }, some (Rsp.of stNotReady)) := by
  rw [runFreshSeed, if_pos (by rw [hp]; decide)]

theorem runFreshSeed_fenced (hp : s.present 3 = true) (hf : s.entropy.fenced = true) : runFreshSeed s m q = s.say stEsFail := by
  rw [runFreshSeed, if_neg (by rw [hp]; decide), if_pos hf]

variable (hp : s.present 3 = true) (hf : s.entropy.fenced = false)
include hp hf

theorem runFreshSeed_notReady (hr : s.entropy.ready = false) : runFreshSeed s m q = s.say stNotReady := by
  rw [runFreshSeed, if_neg (by rw [hp]; decide), if_neg (by rw [hf]; decide), if_pos (by rw [hr]; decide)]

theorem runFreshSeed_ready (hr : s.entropy.ready = true) : runFreshSeed s m q =
    if repetitionFails (rawSamples s.free) || proportionFails (rawSamples s.free) then
      let u := s.seedDrawn.entropyFailed (!repetitionFails (rawSamples s.free))
      u.say (if u.entropy.fenced then stEsFail else stNotReady)
    else (s.seedDrawn, some { Rsp.ok with body := res 8 16 (seedOf (rawSamples s.free)) }) := by
  rw [runFreshSeed, if_neg (by rw [hp]; decide), if_neg (by rw [hf]; decide), if_neg (by rw [hr]; decide)]
  rfl

theorem runFreshSeed_healthy (hr : s.entropy.ready = true)
    (h : repetitionFails (rawSamples s.free) = false ∧ proportionFails (rawSamples s.free) = false) :
    runFreshSeed s m q = (s.seedDrawn, some { Rsp.ok with body := res 8 16 (seedOf (rawSamples s.free)) }) := by
  rw [runFreshSeed_ready hp hf hr, h.1, h.2]
  exact if_neg Bool.false_ne_true

theorem runFreshSeed_unhealthy (hr : s.entropy.ready = true)
    (h : ¬ (repetitionFails (rawSamples s.free) = false ∧ proportionFails (rawSamples s.free) = false)) :
    runFreshSeed s m q = (s.seedDrawn.entropyFailed (!repetitionFails (rawSamples s.free)),
      some (Rsp.of (if s.entropy.failures = 0 then stNotReady else stEsFail))) := by
  have hfails : (repetitionFails (rawSamples s.free) || proportionFails (rawSamples s.free)) = true := by
    rw [← Bool.not_eq_false, Bool.or_eq_false_iff]
    exact h
  obtain ⟨x, l, b, hx⟩ := s.seedDrawn.entropyFailed_writes (!repetitionFails (rawSamples s.free))
  have hfenced : (s.seedDrawn.entropyFailed (!repetitionFails (rawSamples s.free))).entropy.fenced = decide (2 ≤ s.entropy.failures + 1) := by
    rw [hx]
    rfl
  have hstatus : (if decide (2 ≤ s.entropy.failures + 1) = true then stEsFail else stNotReady) =
      if s.entropy.failures = 0 then stNotReady else stEsFail := by
    by_cases h0 : s.entropy.failures = 0
    · rw [h0]
      rfl
    · rw [if_neg h0, if_pos (decide_eq_true (by omega))]
  rw [runFreshSeed_ready hp hf hr, if_pos hfails, ← hstatus, ← hfenced]
  rfl

end

theorem leVal_lt (bs : List Byte) : leVal bs < 2 ^ (8 * bs.length) := by
  induction bs with
  | nil => exact Nat.one_pos
  | cons b bs ih =>
    have hb : b.toNat < 256 := b.isLt
    rw [leVal, List.length_cons, Nat.mul_add, Nat.mul_one, Nat.pow_add]
    omega

theorem leVal_take_lt (bs : List Byte) (n : Nat) : leVal (bs.take n) < 2 ^ (8 * n) :=
  Nat.lt_of_lt_of_le (leVal_lt _) (Nat.pow_le_pow_right (by decide) (Nat.mul_le_mul_left 8 (List.length_take_le n bs)))

/-- The answer of FRESH_SEED shows the seed. -/
theorem seed_result (l : List Byte) (a : Rsp) (h : a.body = res 8 16 (seedOf l)) : a.result 8 16 = leVal ((Hash.sha384 l).take 16) := by
  have hlt : seedOf l < 2 ^ (8 * 16) := leVal_take_lt _ 16
  rw [Rsp.result, h, res, field, Nat.mod_eq_of_lt hlt]
  simp only [Nat.sub_self, Nat.mul_zero, Nat.shiftRight_zero, Nat.pow_zero, Nat.mul_one]
  exact Nat.mod_eq_of_lt hlt

/-- Settles O13. -/
theorem runSetupSeedCursorsSelections : Obligations.RunSetupSeedCursorsSelections := by
  unfold Obligations.RunSetupSeedCursorsSelections
  have hok : stOk < 65536 := by decide
  refine ⟨fun s m q ha => ⟨fun hf => ?_, fun hf => ?_⟩, fun s m q ha => ?_, fun s m q => ⟨fun ha => ?_, fun ha => ?_, fun ha => ?_⟩⟩
  · refine exec_answers (.runSetup m q) cmdRunSetup m q s _ _ rfl ha (by decide) (if_neg ?_) hok rfl rfl rfl
    exact Bool.eq_false_iff.mp (Option.isSome_eq_false_iff.mpr (Option.isNone_iff_eq_none.mpr hf))
  · exact exec_answers (.runSetup m q) cmdRunSetup m q s s _ rfl ha (by decide) (if_pos hf) (by decide) rfl rfl rfl
  · intro drawn192 healthy drawn asked
    refine ⟨fun hp hf hr => ?_, fun hp => ?_, fun hp hf => ?_, fun hp hf hr => ?_⟩
    · by_cases h : healthy
      · have hrun := runFreshSeed_healthy (s := s.entered m 0x0102 q) (m := m) (q := q.par) hp hf hr h
        have hexec := exec_answers (.freshSeed m q) cmdFreshSeed m q s drawn _ rfl ha (by decide) hrun hok rfl rfl rfl
        refine ⟨_, hexec, rfl, rfl, rfl, fun _ => ⟨_, rfl, rfl, rfl, ?_⟩, fun hn => absurd h hn⟩
        exact seed_result _ _ rfl
      · have hrun := runFreshSeed_unhealthy (s := s.entered m 0x0102 q) (m := m) (q := q.par) hp hf hr h
        obtain ⟨x, l, b, hx⟩ := (s.entered m 0x0102 q).seedDrawn.entropyFailed_writes (!repetitionFails (rawSamples s.free))
        replace hrun := hrun.trans (congrArg (·, _) hx)
        have hexec := exec_finishes (c := .freshSeed m q) (k := cmdFreshSeed) rfl ha (by decide) hrun rfl rfl rfl
        obtain ⟨y, hy, hrsp, -⟩ := hexec
        refine ⟨_, hy, ?_⟩
        exact ⟨rfl, rfl, rfl, fun hh => absurd hh h, fun _ => ⟨rfl, rfl, hrsp⟩⟩
    · exact exec_answers (.freshSeed m q) cmdFreshSeed m q s asked _ rfl ha (by decide) (runFreshSeed_unpowered (m := m) (q := q.par) hp) (by decide) rfl rfl rfl
    · exact exec_answers (.freshSeed m q) cmdFreshSeed m q s s _ rfl ha (by decide) (runFreshSeed_fenced (m := m) (q := q.par) hp hf)
        (by decide) rfl rfl rfl
    · exact exec_answers (.freshSeed m q) cmdFreshSeed m q s s _ rfl ha (by decide) (runFreshSeed_notReady (m := m) (q := q.par) hp hf hr)
        (by decide) rfl rfl rfl
  · exact exec_answers (.cursorSet m q) cmdCursorSet m q s { s with cursors := _ } _ rfl ha (by decide) rfl hok rfl rfl rfl
  · exact exec_answers (.digestSelect m q) cmdDigestSelect m q s { s with digestSel := _ } _ rfl ha (by decide) rfl hok rfl rfl rfl
  · exact exec_answers (.gradCapture m q) cmdGradCapture m q s { s with captureSel := _ } _ rfl ha (by decide) rfl hok rfl rfl rfl

end Sys2Proof.Machine
end

section
/-! Proof of O14: STEP_BEGIN, RUN_STOP, EVAL_OPEN and EVAL_CLOSE. -/

namespace Sys2Proof.Machine

open Sys2Proof.Bits

/-! ### TRANSITs of several channels -/

/-- Reading an entry after a change of each of several entries. -/
theorem getV_foldl_modV {α : Type} {n : Nat} (f : α → α) (l : List Nat) (v : Vector α n) (j : Nat) (d : α) (hl : l.Nodup) (hn : ∀ i ∈ l, i < n) :
    getV (l.foldl (fun v i => modV v i f) v) j d = if j ∈ l then f (getV v j d) else getV v j d := by
  induction l generalizing v with
  | nil => rfl
  | cons i l ih =>
    obtain ⟨hi, hl⟩ := List.nodup_cons.mp hl
    rw [List.foldl_cons, ih _ hl fun k hk => hn k (List.mem_cons_of_mem i hk)]
    by_cases hij : i = j
    · subst hij
      rw [if_neg hi, if_pos List.mem_cons_self, getV_modV_self _ _ _ _ (hn i List.mem_cons_self)]
    · simp only [getV_modV_ne _ _ _ _ _ hij, List.mem_cons, Ne.symm hij, false_or]

/-- TRANSITs toward PROC change the channels alone. -/
theorem State.transitAll_toProc (s : State) (l : List Nat) : s.transitAll l .toProc =
    { s with chans := l.foldl (fun v i => modV v i (fun c => c.transit .toProc s.time)) s.chans } := by
  induction l generalizing s with
  | nil => rfl
  | cons i l ih => exact ih (s.transit i .toProc)

theorem channels_le (c : Cfg) : channels c ≤ 32 := by cases c <;> decide

theorem State.channelList_nodup (s : State) : s.channelList.Nodup := List.nodup_range

theorem State.mem_channelList (s : State) (ch : Nat) : ch ∈ s.channelList ↔ ch < channels s.cfg := List.mem_range

theorem State.lt_of_mem_channelList (s : State) : ∀ ch ∈ s.channelList, ch < 32 := fun ch h =>
  Nat.lt_of_lt_of_le ((s.mem_channelList ch).mp h) (channels_le s.cfg)

/-- Every channel of the configuration goes toward PROC. -/
theorem State.chan_transitAll_toProc (s : State) (ch : Nat) : (s.transitAll s.channelList .toProc).chan ch =
    if ch < channels s.cfg then (s.chan ch).transit .toProc s.time else s.chan ch := by
  rw [State.transitAll_toProc]
  refine (getV_foldl_modV _ _ _ _ _ s.channelList_nodup s.lt_of_mem_channelList).trans ?_
  simp only [s.mem_channelList]
  rfl

/-- A TRANSIT toward PROC leaves a channel in PROC there, and brings none there at once. -/
theorem Channel.transit_toProc_back (c : Channel) (t : Nat) :
    ((c.transit .toProc t).fenced || (decide ((c.transit .toProc t).mode = .proc) && decide ((c.transit .toProc t).catchup = 0))) =
      (c.fenced || (decide (c.mode = .proc) && decide (c.catchup = 0))) := by
  unfold Channel.transit
  dsimp only
  split
  · rfl
  next h =>
    simp only [Bool.or_eq_true, decide_eq_true_eq, not_or] at h
    obtain ⟨⟨-, hproc⟩, -⟩ := h
    simp [hproc]

/-! ### The window -/

/-- A channel that holds the closing of the EVAL window up no longer: it is fenced, or back in PROC with its catch-up paid (R295). -/
def Channel.back (c : Channel) : Bool := c.fenced || (decide (c.mode = .proc) && decide (c.catchup = 0))

/-- The window closes when every channel is back. -/
def State.allBack (s : State) : Bool := s.channelList.all (fun ch => (s.chan ch).back)

theorem State.allBack_iff (s : State) : s.allBack = true ↔
    ∀ ch, ch < channels s.cfg → (s.chan ch).fenced = true ∨ ((s.chan ch).mode = .proc ∧ (s.chan ch).catchup = 0) := by
  simp only [State.allBack, Channel.back, List.all_eq_true, s.mem_channelList, Bool.or_eq_true, Bool.and_eq_true, decide_eq_true_eq]

theorem State.allBack_transitAll (s : State) : (s.transitAll s.channelList .toProc).allBack = s.allBack := by
  have hcfg : (s.transitAll s.channelList .toProc).channelList = s.channelList := by rw [State.transitAll_toProc]; rfl
  rw [State.allBack, hcfg, State.allBack]
  rw [Bool.eq_iff_iff, List.all_eq_true, List.all_eq_true]
  refine forall₂_congr fun ch hch => ?_
  rw [State.chan_transitAll_toProc, if_pos ((s.mem_channelList ch).mp hch)]
  exact iff_of_eq (congrArg (· = true) (Channel.transit_toProc_back _ _))

theorem State.evalCheck_closing (s : State) (h : s.run.eval = .closing) : s.evalCheck = if s.allBack then
    { s with shards := s.shards.map (fun h => { h with ready := { h.ready with frozen := false } }), run := { s.run with eval := .closed } }
    else s := by
  have hguard : (s.run.eval = .closing ∧ s.allBack = true) = (s.allBack = true) := by simp [h]
  exact if_congr (iff_of_eq hguard) rfl rfl

/-- The channels go back toward PROC, and the window closes. -/
def State.evalClosed (s : State) : State := ((s.modRun (fun r => { r with eval := .closing })).transitAll s.channelList .toProc).evalCheck

theorem State.evalClosed_eq (s : State) : s.evalClosed =
    if s.allBack then
      { s with chans := (s.transitAll s.channelList .toProc).chans, run := { s.run with eval := .closed },
               shards := s.shards.map (fun h => { h with ready := { h.ready with frozen := false } }) }
    else { s with chans := (s.transitAll s.channelList .toProc).chans, run := { s.run with eval := .closing } } := by
  have hclosing : (((s.modRun (fun r => { r with eval := .closing })).transitAll s.channelList .toProc)).run.eval = .closing := by
    rw [State.transitAll_toProc]
    rfl
  have hback : ((s.modRun (fun r => { r with eval := .closing })).transitAll s.channelList .toProc).allBack = s.allBack :=
    (s.modRun (fun r => { r with eval := .closing })).allBack_transitAll
  rw [State.evalClosed, State.evalCheck_closing _ hclosing, hback, State.transitAll_toProc, State.transitAll_toProc]
  rfl

theorem runEvalClose_opened (s : State) (m : Fin 4) (q : Req) (h : s.run.eval = .opened) :
    runEvalClose (s.entered m 0x0108 q) m q.par = (s.evalClosed.entered m 0x0108 q, some Rsp.ok) := by
  have hdec : ¬ s.run.eval = .decanting := by rw [h]; decide
  have hopen : ¬ s.run.eval ≠ .opened := fun hn => hn h
  have hrun : runEvalClose (s.entered m 0x0108 q) m q.par = ((s.entered m 0x0108 q).evalClosed, some Rsp.ok) :=
    (if_neg hdec).trans (if_neg hopen)
  have hback : (s.entered m 0x0108 q).allBack = s.allBack := rfl
  have hchans : ((s.entered m 0x0108 q).transitAll (s.entered m 0x0108 q).channelList .toProc).chans =
      (s.transitAll s.channelList .toProc).chans := by
    rw [State.transitAll_toProc, State.transitAll_toProc]
    rfl
  rw [hrun, State.evalClosed_eq, hback, hchans, State.evalClosed_eq]
  split <;> rfl

/-- Settles O14. -/
theorem runAndEvalCommands : Obligations.RunAndEvalCommands := by
  unfold Obligations.RunAndEvalCommands
  have hok : stOk < 65536 := by decide
  refine ⟨fun s m q hf => ?_, fun s m q ha => ⟨fun heval => ?_, fun heval => ?_⟩⟩
  · have hsome : ¬ s.formula.isNone = true := by simpa using Option.isSome_iff_ne_none.mp hf
    refine ⟨fun ha hn => ?_, fun ha hn hl => ?_, fun ha => ?_, fun ha heval => ?_, fun ha heval => ?_⟩
    · exact exec_answers (.stepBegin m q) cmdStepBegin m q s { s with run := _ } _ rfl ha (by decide)
        ((if_neg hsome).trans (if_pos hn)) hok rfl rfl rfl
    · have hlast : ¬ (s.run.anchored && decide (par q.par 8 6 = s.run.lastStep)) = true := by simpa using hl
      exact exec_answers (.stepBegin m q) cmdStepBegin m q s s _ rfl ha (by decide)
        ((if_neg hsome).trans ((if_neg hn).trans (if_neg hlast))) (by decide) rfl rfl rfl
    · exact exec_answers (.runStop m q) cmdRunStop m q s { s with run := _ } _ rfl ha (by decide) (if_neg hsome) hok rfl rfl rfl
    · have hguard : ¬ (s.formula.isNone || decide (s.run.eval ≠ .closed)) = true := by simpa [heval] using hsome
      have hrun : runEvalOpen (s.entered m cmdEvalOpen.code q) m q.par =
          ((s.entered m cmdEvalOpen.code q).modRun (fun r => { r with eval := .requested (bit (par q.par 8 1) 0) }), none) := if_neg hguard
      rw [exec_accepted (.evalOpen m q) cmdEvalOpen m q s rfl ha (by decide)]
      exact congrArg (fun r : Ran => Host.Outcome.next (s.hold (r.finish m cmdEvalOpen.code q))) hrun
    · have hguard : (s.formula.isNone || decide (s.run.eval ≠ .closed)) = true := by simp [heval]
      exact exec_answers (.evalOpen m q) cmdEvalOpen m q s s _ rfl ha (by decide) (if_pos hguard) (by decide) rfl rfl rfl
  · have hrun := runEvalClose_opened s m q heval
    have hin := fun ch (h : ch < channels s.cfg) => (s.chan_transitAll_toProc ch).trans (if_pos h)
    have hout := fun ch (h : channels s.cfg ≤ ch) => (s.chan_transitAll_toProc ch).trans (if_neg (Nat.not_lt.mpr h))
    have hexec := exec_answers (.evalClose m q) cmdEvalClose m q s s.evalClosed _ rfl ha (by decide) hrun hok
    rw [s.evalClosed_eq] at hexec
    cases hb : s.allBack with
    | true =>
      have hback := s.allBack_iff.mp hb
      rw [hb, if_pos rfl] at hexec
      exact ⟨_, hexec rfl rfl rfl, rfl, hin, hout, rfl, fun _ => ⟨rfl, rfl⟩, fun h => absurd hback h⟩
    | false =>
      have hback := (Bool.eq_false_iff.mp hb) ∘ s.allBack_iff.mpr
      rw [hb, if_neg Bool.false_ne_true] at hexec
      exact ⟨_, hexec rfl rfl rfl, rfl, hin, hout, rfl, fun h => absurd h hback, fun _ => ⟨rfl, rfl⟩⟩
  · exact exec_answers (.evalClose m q) cmdEvalClose m q s s _ rfl ha (by decide) (if_pos heval) (by decide) rfl rfl rfl

end Sys2Proof.Machine
end

section
/-! Proof of O15: MEMBERSHIP, ROUTE_SET and TOPOLOGY. -/

namespace Sys2Proof.Machine

open Sys2Proof.Bits

/-! ### TOPO and the packets that wait for an epoch -/

/-- TOPO on every UP link changes the links alone. -/
theorem State.sendTopoAll_writes (s : State) : ∃ ls, s.sendTopoAll = { s with fabric := { s.fabric with links := ls } } := by
  have hall (l : List Nat) (u : State) : ∃ ls, eachIn l State.sendTopo u = { u with fabric := { u.fabric with links := ls } } := by
    induction l generalizing u with
    | nil => exact ⟨u.fabric.links, rfl⟩
    | cons p l ih =>
      obtain ⟨ls, h⟩ := ih (u.sendTopo p)
      exact ⟨ls, h⟩
  exact hall _ s

/-- No packet is released where none is held. -/
theorem State.release_of_none_held (s : State) (sel : HeldPkt → Bool) (f : State → HeldPkt → State) (h : s.fabric.held = []) :
    s.release sel f = s := by
  have hnone : s.fabric.held.filter sel = [] := by rw [h]; rfl
  have hrest : s.fabric.held.filter (fun h => !sel h) = s.fabric.held := by rw [h]; rfl
  simp only [State.release, hnone, State.modFabric, hrest]
  rfl

theorem State.epochHeld_of_none_held (s : State) (h : s.fabric.held = []) : s.epochHeld = s := by
  rw [State.epochHeld, State.release_of_none_held _ _ _ h]
  exact s.release_of_none_held _ _ h

/-- The fabric with an epoch installed (R266). -/
def Fabric.inEpoch (f : Fabric) (epoch tray chip : Nat) (eas : List Nat) : Fabric :=
  { f with epoch := epoch, tray := tray, chip := chip, members := eas, assigned := true, fences := [], bseqTx := [], bseqRx := [] }

/-- The state in a new epoch, before the packets that waited for it. -/
def State.inEpoch (s : State) (epoch tray chip : Nat) (eas : List Nat) : State :=
  let u := s.modFabric (·.inEpoch epoch tray chip eas)
  if epoch = 0xFFFFFFFF then u.error { code := 0x0605, cls := .j, unit := 0x000F, arg0 := epoch } else u

theorem State.inEpoch_writes (s : State) (epoch tray chip : Nat) (eas : List Nat) : ∃ x l b, s.inEpoch epoch tray chip eas =
    { s with fabric := s.fabric.inEpoch epoch tray chip eas, smp := x, log := l, blotter := b } := by
  rw [State.inEpoch]
  split
  · obtain ⟨l, x, b, he⟩ := State.error_writes (s.modFabric (·.inEpoch epoch tray chip eas)) _
    exact ⟨x, l, b, he⟩
  · exact ⟨s.smp, s.log, s.blotter, rfl⟩

theorem State.installEpoch_eq (s : State) (epoch tray chip : Nat) (eas : List Nat) : s.installEpoch epoch tray chip eas =
    (s.inEpoch epoch tray chip eas).epochHeld.sendTopoAll.modFabric
      (fun f => { f with lastTopo := topoPayload (s.inEpoch epoch tray chip eas).epochHeld }) := rfl

/-- An installed epoch without packets that waited: the fabric, what TOPO queues, and the record of the last epoch number. -/
theorem State.installEpoch_of_none_held (s : State) (epoch tray chip : Nat) (eas : List Nat) (h : s.fabric.held = []) :
    ∃ x l b ls tp, s.installEpoch epoch tray chip eas =
      { s with fabric := { s.fabric.inEpoch epoch tray chip eas with links := ls, lastTopo := tp }, smp := x, log := l, blotter := b } := by
  obtain ⟨x, l, b, hu⟩ := s.inEpoch_writes epoch tray chip eas
  have hheld : (s.inEpoch epoch tray chip eas).fabric.held = [] := by rw [hu]; exact h
  obtain ⟨ls, hls⟩ := (s.inEpoch epoch tray chip eas).sendTopoAll_writes
  refine ⟨x, l, b, ls, topoPayload (s.inEpoch epoch tray chip eas), ?_⟩
  rw [State.installEpoch_eq, State.epochHeld_of_none_held _ hheld, hls]
  generalize topoPayload (s.inEpoch epoch tray chip eas) = tp
  rw [hu]
  rfl

/-! ### TOPOLOGY -/

/-- The TOPO that TOPOLOGY shows of link w. -/
def State.shownTopo (s : State) (w : Nat) : Option (List Byte) := if w ≤ links s.cfg then (s.link (w - 1)).topo else none

theorem runTopology_own (s : State) (m : Nat) (q : BitVec 448) (h : par q 8 1 = 0) :
    runTopology s m q = (s, some { Rsp.ok with body := res 8 32 (leVal (topoPayload s)) }) := if_pos h

theorem runTopology_some (s : State) (m : Nat) (q : BitVec 448) (h : par q 8 1 ≠ 0) (bs : List Byte) (hbs : s.shownTopo (par q 8 1) = some bs) :
    runTopology s m q = (s, some { Rsp.ok with
      body := res 8 32 (leVal bs) + res 40 4 (min ((s.time - (s.link (par q 8 1 - 1)).topoAt) / 1000) 0xFFFFFFFE) }) := by
  rw [State.shownTopo] at hbs
  simp only [runTopology, if_neg h, hbs]

theorem runTopology_none (s : State) (m : Nat) (q : BitVec 448) (h : par q 8 1 ≠ 0) (hn : s.shownTopo (par q 8 1) = none) :
    runTopology s m q = (s, some { Rsp.ok with body := res 40 4 0xFFFFFFFF }) := by
  rw [State.shownTopo] at hn
  simp only [runTopology, if_neg h, hn]

/-! ### ROUTE_SET -/

/-- The entries that ROUTE_SET reads. -/
def State.routeEntries (s : State) (q : BitVec 448) : List (BitVec 64) := (s.dramWords (par q 8 8) 8 (par q 16 1)).map (BitVec.ofNat 64)

/-- Whether an entry sets a reserved bit. -/
def routesReserved (es : List (BitVec 64)) : Bool := es.any (fun e => decide (routeFld e 28 4 ≠ 0) || decide (routeFld e 52 12 ≠ 0))

theorem runRouteSet_some (s : State) (m : Nat) (q : BitVec 448) (hr : routesReserved (s.routeEntries q) = false) (f : Nat × Nat)
    (hf : firstRouteFault s.cfg (s.routeEntries q) 0 = some f) :
    runRouteSet s m q = (s, some { status := stRoute, detail := f.2, body := res 8 1 f.1 }) := by
  rw [routesReserved, State.routeEntries] at hr
  rw [State.routeEntries] at hf
  simp only [runRouteSet, hr, Bool.false_eq_true, if_false, hf]

theorem runRouteSet_none (s : State) (m : Nat) (q : BitVec 448) (hr : routesReserved (s.routeEntries q) = false)
    (hf : firstRouteFault s.cfg (s.routeEntries q) 0 = none) :
    runRouteSet s m q = (s.modFabric (fun f => { f with routes := s.routeEntries q ++ List.replicate (64 - (s.routeEntries q).length) 0 }),
      some Rsp.ok) := by
  rw [routesReserved, State.routeEntries] at hr
  rw [State.routeEntries] at hf
  simp only [runRouteSet, hr, Bool.false_eq_true, if_false, hf]
  rfl

/-! ### MEMBERSHIP -/

/-- The member list that MEMBERSHIP reads. -/
def State.membersRead (s : State) (q : BitVec 448) : List Nat := s.dramWords (par q 24 8) 4 (par q 16 4)

/-- The DETAIL with which MEMBERSHIP is refused, 0 when it is accepted. -/
def State.membershipFault (s : State) (q : BitVec 448) : Nat := s.epochFault (par q 8 4) (par q 12 2) (par q 14 1) (s.membersRead q)

theorem runMembership_eq (s : State) (m : Nat) (q : BitVec 448) (h : ∀ e ∈ s.membersRead q, e < 2 ^ 18) : runMembership s m q =
    if s.membershipFault q ≠ 0 then (s, some { status := stEpoch, detail := s.membershipFault q })
    else (s.installEpoch (par q 8 4) (par q 12 2) (par q 14 1) (s.membersRead q), some Rsp.ok) := by
  refine if_neg ?_
  rw [List.any_eq_true]
  rintro ⟨e, he, hle⟩
  exact absurd (h e he) (Nat.not_lt.mpr (of_decide_eq_true hle))

/-- Settles O15. -/
theorem membershipRoutesTopology : Obligations.MembershipRoutesTopology := by
  unfold Obligations.MembershipRoutesTopology
  have hok : stOk < 65536 := by decide
  refine ⟨fun s m q => ?_, fun s m q ha => ?_⟩
  · intro es reserved w
    refine ⟨fun ha hr hn => ?_, fun ha hr f hf => ?_, fun ha hw => ?_, fun ha hw hl bs hbs => ?_, fun ha hw hl => ?_⟩
    · exact exec_answers (.routeSet m q) cmdRouteSet m q s { s with fabric := _ } _ rfl ha (by decide)
        (runRouteSet_none (s.entered m 0x0202 q) m q.par hr hn) hok rfl rfl rfl
    · exact exec_answers (.routeSet m q) cmdRouteSet m q s s _ rfl ha (by decide)
        (runRouteSet_some (s.entered m 0x0202 q) m q.par hr f hf) (show stRoute < 65536 by decide) rfl rfl rfl
    · exact exec_answers (.topology m q) cmdTopology m q s s _ rfl ha (by decide) (runTopology_own (s.entered m 0x0203 q) m q.par hw) hok rfl rfl rfl
    · exact exec_answers (.topology m q) cmdTopology m q s s _ rfl ha (by decide)
        (runTopology_some (s.entered m 0x0203 q) m q.par (Nat.ne_of_gt hw) bs ((if_pos hl).trans hbs)) hok rfl rfl rfl
    · have hnone : s.shownTopo w = none := by
        rw [State.shownTopo]
        split
        next hle => exact hl.resolve_left (Nat.not_lt.mpr hle)
        · rfl
      exact exec_answers (.topology m q) cmdTopology m q s s _ rfl ha (by decide)
        (runTopology_none (s.entered m 0x0203 q) m q.par (Nat.ne_of_gt hw) hnone) hok rfl rfl rfl
  · intro eas fault heas
    have hrun := runMembership_eq (s.entered m 0x0201 q) m q.par heas
    have haccept (h0 : fault = 0) : exec (.membership m q) s = .next (s.hold (Ran.finish
        ((s.entered m 0x0201 q).installEpoch (par q.par 8 4) (par q.par 12 2) (par q.par 14 1) eas, some Rsp.ok) m 0x0201 q)) := by
      rw [exec_accepted (.membership m q) cmdMembership m q s rfl ha (by decide)]
      exact congrArg (fun r : Ran => Host.Outcome.next (s.hold (r.finish m 0x0201 q))) (hrun.trans (if_neg (not_not_intro h0)))
    have hrefuse (h0 : fault ≠ 0) : exec (.membership m q) s = .next (s.answered m 0x0201 q { status := stEpoch, detail := fault }) :=
      exec_answers (.membership m q) cmdMembership m q s s _ rfl ha (by decide) (hrun.trans (if_pos h0)) (show stEpoch < 65536 by decide) rfl rfl rfl
    refine ⟨haccept, fun h0 hheld => ?_, fun hle => ?_, hrefuse⟩
    · obtain ⟨x, l, b, ls, tp, hinst⟩ := (s.entered m 0x0201 q).installEpoch_of_none_held
        (par q.par 8 4) (par q.par 12 2) (par q.par 14 1) eas hheld
      obtain ⟨y, hy, hrsp, hbusy⟩ := exec_finishes (c := .membership m q) (k := cmdMembership) rfl ha (by decide)
        ((hrun.trans (if_neg (not_not_intro h0))).trans (congrArg (·, _) hinst)) rfl rfl rfl
      exact ⟨_, hy, rfl, rfl, rfl, rfl, rfl, rfl, rfl, rfl, rfl, rfl, hrsp, hbusy, rfl, rfl, rfl, rfl, rfl⟩
    · have h1 : fault = 1 := if_pos hle
      exact h1 ▸ hrefuse (by rw [h1]; decide)

end Sys2Proof.Machine
end

section
/-! Proofs of O16 and O17: the handles of long operations, what excludes a start, and the commands that start one. -/

namespace Sys2Proof.Machine

open Sys2Proof.Bits

/-! ### Handles -/

/-- A handle that may not be given out. -/
def HandleTaken (used : List Nat) (h : Nat) : Prop := h = 0 ∨ used.contains h = true

/-- The search ends on a free handle, or has found each handle that it tried taken. -/
theorem freshHandle_free_or (used : List Nat) (fuel h : Nat) (hlt : h < 2 ^ 16) :
    (freshHandle used fuel h < 2 ^ 16 ∧ ¬ HandleTaken used (freshHandle used fuel h)) ∨ ∀ i, i < fuel → HandleTaken used ((h + i) % 2 ^ 16) := by
  induction fuel generalizing h with
  | zero => exact .inr fun i hi => absurd hi (Nat.not_lt_zero i)
  | succ fuel ih =>
    rw [freshHandle]
    split
    next htaken =>
      refine (ih _ (Nat.mod_lt _ (by decide))).imp_right fun hall i hi => ?_
      cases i with
      | zero => rwa [Nat.add_zero, Nat.mod_eq_of_lt hlt]
      | succ i =>
        have hnext := hall i (Nat.lt_of_succ_lt_succ hi)
        rwa [Nat.mod_add_mod, Nat.add_assoc, Nat.add_comm 1 i] at hnext
    next hfree => exact .inl ⟨hlt, hfree⟩

/-- Thirty-two handles in a row are not all taken by 24 operations and handle 0. -/
theorem not_all_taken (used : List Nat) (h : Nat) (hlen : used.length ≤ 24) : ¬ ∀ i, i < 32 → HandleTaken used ((h + i) % 2 ^ 16) := by
  intro hall
  have hsub : (List.range 32).map (fun i => (h + i) % 2 ^ 16) ⊆ 0 :: used := by
    intro x hx
    obtain ⟨i, hi, rfl⟩ := List.mem_map.mp hx
    refine List.mem_cons.mpr ((hall i (List.mem_range.mp hi)).imp_right fun hc => ?_)
    simpa using hc
  have hnodup : ((List.range 32).map (fun i => (h + i) % 2 ^ 16)).Nodup := by
    refine List.Nodup.map_on (fun i hi j hj hij => ?_) List.nodup_range
    rw [List.mem_range] at hi hj
    omega
  have hle := (hnodup.subperm hsub).length_le
  simp only [List.length_map, List.length_range, List.length_cons] at hle
  omega

theorem freshHandle_free (used : List Nat) (next : Nat) (hlen : used.length ≤ 24) (hlt : next < 2 ^ 16) :
    freshHandle used 32 next < 2 ^ 16 ∧ ¬ HandleTaken used (freshHandle used 32 next) :=
  (freshHandle_free_or used 32 next hlt).resolve_right (not_all_taken used next hlen)

/-! ### The start of an operation -/

/-- The operation that a request of a code asks for, as far as R349 looks at it. -/
def asked (code par : Nat) : LongOp := { handle := 0, code := code, st := .running, par := par }

section
variable {s : State} {code par total result : Nat} {st : OpSt} {body : Nat} {f : State → Nat → State}

theorem State.started_of_conflict (h : s.opConflict (asked code par) = true) : s.started code par total result st body f = s.say stConflict := by
  have hstart : s.startOp code par total result st = .error stConflict := if_pos h
  rw [State.started, hstart]

theorem State.started_of_full (h : s.opConflict (asked code par) = false) (hlen : 8 ≤ s.ops.length) :
    s.started code par total result st body f = s.say stNoResource := by
  have hstart : s.startOp code par total result st = .error stNoResource := (if_neg (Bool.eq_false_iff.mp h)).trans (if_pos hlen)
  rw [State.started, hstart]

end

theorem State.started_of_canStart {s : State} {code : Nat} {q : Req} (total result : Nat) (st : OpSt) (body : Nat) (f : State → Nat → State)
    (h : CanStart s code q) : s.started code q.par.toNat total result st body f =
      (f (s.begun code q total result st) s.handleNext, some { status := stOpStarted, body := res 8 2 s.handleNext + body }) := by
  have hstart : s.startOp code q.par.toNat total result st = .ok (s.begun code q total result st, s.handleNext) :=
    (if_neg (Bool.eq_false_iff.mp h.1)).trans (if_neg (Nat.not_le.mpr h.2))
  rw [State.started, hstart]

theorem begun_entered (s : State) (m : Fin 4) (code k : Nat) (q : Req) (total result : Nat) (st : OpSt) :
    (s.entered m k q).begun code q total result st = (s.begun code q total result st).entered m k q := rfl

/-- The channels of an operation that enter PROC: the channels alone change, whatever the management port holds. -/
theorem State.opEnter_writes (s : State) (x : Smp) (h : Nat) :
    ∃ v, s.opEnter h = { s with chans := v } ∧ ({ s with smp := x } : State).opEnter h = { s with chans := v, smp := x } := by
  have hfind : ({ s with smp := x } : State).findOp h = s.findOp h := rfl
  unfold State.opEnter
  rw [hfind]
  cases s.findOp h with
  | none => exact ⟨s.chans, rfl, rfl⟩
  | some o =>
    dsimp only
    split
    · rw [State.transitAll_toProc, State.transitAll_toProc]
      exact ⟨_, rfl, rfl⟩
    · exact ⟨s.chans, rfl, rfl⟩

theorem opEnter_entered (u : State) (m : Fin 4) (code : Nat) (q : Req) (h : Nat) :
    (u.entered m code q).opEnter h = (u.opEnter h).entered m code q := by
  obtain ⟨v, hv, hvx⟩ := u.opEnter_writes (u.entered m code q).smp h
  rw [hv]
  exact hvx

/-- Settles O16. -/
theorem handlesAndLimits : Obligations.HandlesAndLimits := by
  unfold Obligations.HandlesAndLimits
  refine ⟨fun used next hlen hlt => ?_, fun s m q => ?_⟩
  · obtain ⟨hbound, hfree⟩ := freshHandle_free used next hlen hlt
    rw [HandleTaken, not_or] at hfree
    exact ⟨hfree.1, by simpa using hfree.2, hbound⟩
  · intro dump scrub
    refine ⟨?_, ?_, fun ha hc => ?_, fun ha hc hl => ?_, fun ha hc => ?_, fun ha hc hl => ?_⟩
    · simp [State.opConflict, dump, exclusive, decantCode, cBlotterDump, cAdmit, cRestore, cAdopt, cFlaconWrite, cDecantFull, cEvalOpen,
        cSelfTest, cInitRegion]
    · simp [State.opConflict, scrub, exclusive, decantCode, cScrubPass, cAdmit, cRestore, cAdopt, cFlaconWrite, cDecantFull, cEvalOpen,
        cSelfTest, cInitRegion]
    · exact exec_answers (.blotterDump m q) cmdBlotterDump m q s s _ rfl ha (by decide) (State.started_of_conflict hc) (by decide) rfl rfl rfl
    · exact exec_answers (.blotterDump m q) cmdBlotterDump m q s s _ rfl ha (by decide) (State.started_of_full hc hl) (by decide) rfl rfl rfl
    · exact exec_answers (.scrubPass m q) cmdScrubPass m q s s _ rfl ha (by decide) (State.started_of_conflict hc) (by decide) rfl rfl rfl
    · exact exec_answers (.scrubPass m q) cmdScrubPass m q s s _ rfl ha (by decide) (State.started_of_full hc hl) (by decide) rfl rfl rfl

end Sys2Proof.Machine
end

section
/-! Proof of O17: the commands that start a long operation. -/

namespace Sys2Proof.Machine

open Sys2Proof.Bits

/-! ### The emission of FLACON_WRITE -/

/-- A state that differs from another in the emission and the waiting pages alone, whose emission sends no near copy. -/
def EmissionOnly (s t : State) : Prop := ∃ e o, t = { s with emission := e, outPages := o } ∧ ∀ em, e = some em → em.near = false

theorem EmissionOnly.trans {s t u : State} (h : EmissionOnly s t) (h' : EmissionOnly t u) : EmissionOnly s u := by
  obtain ⟨e, o, rfl, -⟩ := h
  obtain ⟨e', o', rfl, hnear⟩ := h'
  exact ⟨e', o', rfl, hnear⟩

theorem EmissionOnly.near {s t : State} (h : EmissionOnly s t) : ∀ em, t.emission = some em → em.near = false := by
  obtain ⟨e, o, rfl, hnear⟩ := h
  exact hnear

theorem EmissionOnly.refl (s : State) (h : ∀ em, s.emission = some em → em.near = false) : EmissionOnly s s := ⟨_, _, rfl, h⟩

section
variable {s : State} (h : ∀ em, s.emission = some em → em.near = false)
include h

theorem emissionOnly_modEmission (f : Emission → Emission) (hf : ∀ em, (f em).near = em.near) : EmissionOnly s (s.modEmission f) := by
  refine ⟨_, s.outPages, rfl, fun em hem => ?_⟩
  obtain ⟨em', hem', rfl⟩ := Option.map_eq_some_iff.mp hem
  rw [hf]
  exact h em' hem'

/-- A page of FLACON_WRITE always finds room (R276, R279). -/
theorem emissionOnly_queueFar (gen shard : Nat) (ps : List OutPage) : EmissionOnly s (s.queueFar gen shard true ps) := ⟨_, _, rfl, h⟩

theorem emissionOnly_finishCapture : EmissionOnly s (s.finishCapture true) := by
  unfold State.finishCapture
  split
  · exact .refl s h
  next em hem =>
    dsimp only
    split
    · exact .refl s h
    · have hdone := emissionOnly_modEmission h (fun e => { e with farDone := true }) fun _ => rfl
      have hqueued := hdone.trans (emissionOnly_queueFar hdone.near em.gen 0xFFFFFFFF
        (pagesOf 1 em.gen em.step 0 1 0 (sealMeta s.scales.length em.header (dcrcs s.cfg s.form s.ownedShards em.data))))
      rw [h em hem, Bool.false_and, if_neg Bool.false_ne_true]
      exact hqueued

end

theorem emissionOnly_eachIn {α : Type} (f : State → α → State) (l : List α) (s : State) (h : ∀ em, s.emission = some em → em.near = false)
    (hf : ∀ u a, (∀ em, u.emission = some em → em.near = false) → EmissionOnly u (f u a)) : EmissionOnly s (eachIn l f s) := by
  induction l generalizing s with
  | nil => exact .refl s h
  | cons a l ih =>
    have hstep := hf s a h
    exact hstep.trans (ih (f s a) hstep.near)

theorem emissionOnly_capture {s : State} (h : ∀ em, s.emission = some em → em.near = false) (i stream k : Nat) :
    EmissionOnly s (s.capture true i stream k) := by
  unfold State.capture
  split
  next em e hem he =>
    split
    · exact .refl s h
    · split
      · exact .refl s h
      next d hd =>
        dsimp only
        have htaken := emissionOnly_modEmission h (fun x => { x with
          toCapture := x.toCapture.filter (fun y => decide (y ≠ (i, stream, k))),
          data := x.data ++ [(i, stream, k, s.stripeElems d 0 k (stripeCount s.cfg e.n k), s.stripeScales d 0 k (stripeCount s.cfg e.n k))] })
          fun _ => rfl
        have hpages := htaken.trans (emissionOnly_eachIn (fun u (p : FarPiece) =>
          if u.emission.isSome then u.queueFar em.gen i true (pagesOf 1 em.gen em.step p.off 1 0 p.bytes) else u)
          (s.farPieces i e d k (s.stripeElems d 0 k (stripeCount s.cfg e.n k)) (s.stripeScales d 0 k (stripeCount s.cfg e.n k))) _
          htaken.near fun u p hu => by
            split
            · exact emissionOnly_queueFar hu em.gen i _
            · exact .refl u hu)
        rw [h em hem, Bool.and_false, Bool.false_and, if_neg Bool.false_ne_true]
        exact hpages.trans (emissionOnly_finishCapture hpages.near)
  · exact .refl s h

/-- The emission that FLACON_WRITE begins, with every stripe still to capture. -/
def State.writeEmission (s : State) (v : CutVals) : Emission :=
  { gen := v.gen, step := v.step, header := s.farMeta v, nearHeader := s.nearMeta v, toCapture := s.captureList, data := [], near := false,
    holdEnd := s.time }

theorem State.beginEmission_far (s : State) (v : CutVals) : s.beginEmission v false true =
    (eachIn (s.captureList.filter (fun (x : Nat × Nat × Nat) => true || s.shardBad x.1)) (fun u (x : Nat × Nat × Nat) =>
      u.capture true x.1 x.2.1 x.2.2) { s with emission := some (s.writeEmission v) }).finishCapture true := rfl

theorem State.beginEmission_far_writes (s : State) (v : CutVals) :
    ∃ e o, s.beginEmission v false true = { s with emission := e, outPages := o } := by
  have hbegun : EmissionOnly s { s with emission := some (s.writeEmission v) } := ⟨_, _, rfl, fun em hem => Option.some.inj hem ▸ rfl⟩
  have hcaptured := hbegun.trans (emissionOnly_eachIn (fun u (x : Nat × Nat × Nat) => u.capture true x.1 x.2.1 x.2.2)
    (s.captureList.filter (fun (x : Nat × Nat × Nat) => true || s.shardBad x.1)) _ hbegun.near
    fun u x hu => emissionOnly_capture hu x.1 x.2.1 x.2.2)
  obtain ⟨e, o, he, -⟩ := hcaptured.trans (emissionOnly_finishCapture hcaptured.near)
  exact ⟨e, o, (s.beginEmission_far v).trans he⟩

/-- The answer of a command that starts an operation with nothing else to do. -/
theorem exec_starts {c : Instr} {k : Cmd} {m : Fin 4} {q : Req} {s : State} (hrow : rowCmd c = some (k, m, q)) (ha : Accepted k s m q)
    (hc : CanStart s k.code q) (h2 : k.code ≠ 2) (total result : Nat) (st : OpSt) (f : State → Nat → State)
    (hrun : k.run (s.entered m k.code q) m q.par = (s.entered m k.code q).started k.code q.par.toNat total result st 0 f)
    (u : State) (hf : f ((s.begun k.code q total result st).entered m k.code q) s.handleNext = u.entered m k.code q)
    (h3 : u.cfg = s.cfg) (h4 : u.pending = s.pending) (h5 : u.porst = s.porst) :
    exec c s = .next (u.answered m k.code q (.started s.handleNext)) := by
  have hst : stOpStarted < 65536 := by decide
  have hstart := State.started_of_canStart (s := s.entered m k.code q) (code := k.code) (q := q) total result st 0 f hc
  rw [begun_entered] at hstart
  exact exec_answers c k m q s u (.started s.handleNext) hrow ha h2
    (hrun.trans (hstart.trans (congrArg (·, _) hf))) hst h3 h4 h5

/-- The answer of a command that starts an operation whose channels enter PROC. -/
theorem exec_starts_entering {c : Instr} {k : Cmd} {m : Fin 4} {q : Req} {s : State} (hrow : rowCmd c = some (k, m, q)) (ha : Accepted k s m q)
    (hc : CanStart s k.code q) (h2 : k.code ≠ 2) (total result : Nat) (st : OpSt)
    (hrun : k.run (s.entered m k.code q) m q.par = (s.entered m k.code q).started k.code q.par.toNat total result st 0 State.opEnter) :
    exec c s = .next (((s.begun k.code q total result st).opEnter s.handleNext).answered m k.code q (.started s.handleNext)) := by
  obtain ⟨v, hv, -⟩ := (s.begun k.code q total result st).opEnter_writes s.smp s.handleNext
  refine exec_starts hrow ha hc h2 total result st State.opEnter hrun _ (opEnter_entered _ m k.code q _) ?_ ?_ ?_ <;> rw [hv] <;> rfl

/-- Settles O17. -/
theorem longOperationsStart : Obligations.LongOperationsStart := by
  unfold Obligations.LongOperationsStart
  have hadmitted {f : Option Formula} (h : f.isSome = true) : ¬ f.isNone = true := by simpa using Option.isSome_iff_ne_none.mp h
  refine ⟨fun s m q => ?_, fun s m q ha hc => ⟨fun ho he hg => ?_, fun hno => ?_⟩⟩
  · intro h
    refine ⟨fun ha hc hmay hmap => ?_, fun ha hc hf => ?_, fun ha hc hf he hw hg hd => ?_, fun ha hc hf => ?_, fun ha hc hf => ?_,
      fun ha hc hr => ?_, fun ha hc => ?_, fun ha hc => ?_, fun ha hc hh hn hs => ?_, fun ha hc hh hn hl => ?_, fun ha hc hr hs => ?_⟩
    · have hguard : ¬ (!s.mayAdmit (bit (par q.par 20 1) 0) || (admissionMap s.cfg s.stills).isNone) = true := by
        simpa [hmay, Option.isNone_iff_eq_none] using hmap
      exact exec_starts (c := .admitCmd m q) (k := cmdAdmit) rfl ha hc (by decide) _ _ _ _ (if_neg hguard) _ rfl rfl rfl rfl
    · exact exec_starts (c := .restore m q) (k := cmdRestore) rfl ha hc (by decide) _ _ _ _ (if_neg (hadmitted hf)) _ rfl rfl rfl rfl
    · have hguard : ¬ (s.formula.isNone || decide (s.form.hdr.epoch ≠ s.fabric.epoch)) = true := by simpa [he] using hadmitted hf
      have hheld : ¬ (s.near.ward ≠ par q.par 8 4 ∨ s.near.gen ≠ par q.par 12 4 ∨ s.near.done = false) := by simp [hw, hg, hd]
      exact ⟨_, exec_starts (c := .adopt m q) (k := cmdAdopt) rfl ha hc (by decide) _ _ _ _ ((if_neg hguard).trans (if_neg hheld)) _
        rfl rfl rfl rfl⟩
    · exact ⟨_, exec_starts (c := .decantFull m q) (k := cmdDecantFull) rfl ha hc (by decide) _ _ _ _ (if_neg (hadmitted hf)) _ rfl rfl rfl rfl⟩
    · have hnone : ¬ s.formula.isSome = true := by rw [hf]; decide
      exact exec_starts (c := .selfTest m q) (k := cmdSelfTest) rfl ha hc (by decide) _ _ _ _ (if_neg hnone) _ rfl rfl rfl rfl
    · have hguard : ¬ s.rangeInUse (par q.par 8 8) (par q.par 16 8) = true := by rw [hr]; decide
      exact exec_starts_entering (c := .initRegion m q) (k := cmdInitRegion) rfl ha hc (by decide) _ _ _ (if_neg hguard)
    · exact exec_starts_entering (c := .blotterDump m q) (k := cmdBlotterDump) rfl ha hc (by decide) _ _ _ rfl
    · exact ⟨_, exec_starts_entering (c := .scrubPass m q) (k := cmdScrubPass) rfl ha hc (by decide) _ _ _ rfl⟩
    · have h1 : ¬ s.handingOver = true := by rw [hh]; decide
      have h2 : ¬ (decide (par q.par 20 1 = 0) && s.slotRefused) = true := by simp [hs]
      have h3 : ¬ (!decide (par q.par 20 1 = 0) && s.fuses.locked 5) = true := by simp [hn]
      have hslot : (if decide (par q.par 20 1 = 0) = true then s.otherSlot else 2) = s.otherSlot := if_pos (decide_eq_true hn)
      have hstart := exec_starts (c := .fwLoad m q) (k := cmdFwLoad) rfl ha hc (by decide) _ _ _ _
        ((if_neg h1).trans ((if_neg h2).trans (if_neg h3))) { s.begun cFwLoad q _ _ _ with fw := { s.fw with pendingStage := none } } rfl rfl rfl rfl
      exact hslot ▸ hstart
    · have h1 : ¬ s.handingOver = true := by rw [hh]; decide
      have h2 : ¬ (decide (par q.par 20 1 = 0) && s.slotRefused) = true := by simp [hn]
      have h3 : ¬ (!decide (par q.par 20 1 = 0) && s.fuses.locked 5) = true := by simp [hl]
      have hslot : (if decide (par q.par 20 1 = 0) = true then s.otherSlot else 2) = 2 := if_neg (by simp [hn])
      have hstart := exec_starts (c := .fwLoad m q) (k := cmdFwLoad) rfl ha hc (by decide) _ _ _ _
        ((if_neg h1).trans ((if_neg h2).trans (if_neg h3))) { s.begun cFwLoad q _ _ _ with fw := { s.fw with pendingStage := none } } rfl rfl rfl rfl
      exact hslot ▸ hstart
    · have h1 : ¬ (!s.fw.romMode) = true := by simp [hr]
      have h2 : ¬ (s.codeSlot s.recoverySlot).fenced = true := by rw [hs]; decide
      exact exec_starts (c := .recoveryLoad m q) (k := cmdRecoveryLoad) rfl ha hc (by decide) _ _ _ _ ((if_neg h1).trans (if_neg h2)) _
        rfl rfl rfl rfl
  · have hguard : ¬ (s.run.eval ≠ .opened ∨ s.emission.isSome = true ∨ 2 ^ 32 - 1 ≤ s.run.gen) := by
      rintro (h | h | h)
      · exact h ho
      · rw [he] at h
        exact absurd h (by decide)
      · omega
    have hstart := State.started_of_canStart (s := s.entered m cFlaconWrite q) (code := cFlaconWrite) (q := q) s.imageLength (s.run.gen + 1)
      .running (res 12 4 (s.run.gen + 1)) (fun u _ => (u.modRun (fun r => { r with gen := s.run.gen + 1 })).beginEmission s.writeVals false true) hc
    rw [begun_entered] at hstart
    obtain ⟨e, o, hbegin⟩ := (((s.begun cFlaconWrite q s.imageLength (s.run.gen + 1) .running).entered m cFlaconWrite q).modRun
      (fun r => { r with gen := s.run.gen + 1 })).beginEmission_far_writes s.writeVals
    obtain ⟨x, hx, hrsp, -⟩ := exec_finishes (c := .flaconWrite m q) (k := cmdFlaconWrite) rfl ha (by decide)
      ((if_neg hguard).trans (hstart.trans (congrArg (·, _) hbegin))) rfl rfl rfl
    exact ⟨_, hx, hrsp, rfl, ⟨_, List.mem_append_right _ List.mem_cons_self, rfl, rfl, rfl⟩, rfl, rfl⟩
  · have hguard : s.run.eval ≠ .opened ∨ s.emission.isSome = true ∨ 2 ^ 32 - 1 ≤ s.run.gen := hno.imp_right .inl
    exact exec_answers (.flaconWrite m q) cmdFlaconWrite m q s s _ rfl ha (by decide) (if_pos hguard) (by decide) rfl rfl rfl

end Sys2Proof.Machine
end

section
/-! Proof of O18: OP_STATUS, OP_SUSPEND, OP_RESUME, OP_CANCEL, suspend points and reservations. First what the end of an operation writes. -/

namespace Sys2Proof.Machine

open Sys2Proof.Bits

/-! ### TRANSITs and refreshes write channels and outputs -/

/-- Steps of a relation that is reflexive and transitive make one step together. -/
theorem eachIn_related {α : Type} {R : State → State → Prop} (hrefl : ∀ s, R s s) (htrans : ∀ {s t u}, R s t → R t u → R s u)
    (f : State → α → State) (hf : ∀ s a, R s (f s a)) (l : List α) (s : State) : R s (eachIn l f s) := by
  induction l generalizing s with
  | nil => exact hrefl s
  | cons a l ih => exact htrans (hf s a) (ih (f s a))

/-- A state that differs from another in the channels and the outputs alone. -/
def ChansOut (s t : State) : Prop := ∃ v o, t = { s with chans := v, out := o }

theorem ChansOut.refl (s : State) : ChansOut s s := ⟨s.chans, s.out, rfl⟩

theorem ChansOut.trans {s t u : State} (h : ChansOut s t) (h' : ChansOut t u) : ChansOut s u := by
  obtain ⟨v, o, rfl⟩ := h
  obtain ⟨v', o', rfl⟩ := h'
  exact ⟨v', o', rfl⟩

theorem chansOut_issuePeriod (s : State) (ch p since : Nat) : ChansOut s (s.issuePeriod ch p since) :=
  eachIn_related ChansOut.refl ChansOut.trans _ (fun _ _ => eachIn_related ChansOut.refl ChansOut.trans _ (fun s pc => by
    split
    · exact ⟨_, _, rfl⟩
    · exact .refl s) _ _) _ s

theorem chansOut_transit (s : State) (ch : Nat) (m : Mode) : ChansOut s (s.transit ch m) := by
  rw [State.transit]
  split
  · exact (chansOut_issuePeriod s ch s.refreshPeriod 0).trans ⟨_, _, rfl⟩
  · exact ⟨_, _, rfl⟩

theorem chansOut_transitAll (s : State) (chs : List Nat) (m : Mode) : ChansOut s (s.transitAll chs m) :=
  eachIn_related ChansOut.refl ChansOut.trans _ (fun s ch => chansOut_transit s ch m) chs s

/-! ### The end of an operation -/

/-- The latest operation that ended is retained last (R345). -/
theorem getLast?_retain (l : List LongOp) (o : LongOp) : (retain l o).getLast? = some o := by
  have hlt : l.length + 1 - 16 < (l ++ [o]).length := by
    rw [List.length_append, List.length_singleton]
    omega
  rw [retain, List.getLast?_drop, if_neg (Nat.not_le.mpr hlt), List.getLast?_concat]

/-- An operation as its end leaves it. -/
def LongOp.ended (o : LongOp) (st : OpSt) (status detail result : Nat) : LongOp :=
  { o with st := st, status := status, detail := detail, result := result }

/-- What the end of an operation writes: the lists of operations, OP_DONE, and channels and outputs with no Formula admitted. -/
theorem State.endOp_writes (s : State) (o : LongOp) (st : OpSt) (status detail result : Nat) : ∃ v out,
    s.endOp o st status detail result =
      { s with ops := s.ops.filter (fun x => decide (x.handle ≠ o.handle)), retained := retain s.retained (o.ended st status detail result),
               chans := v, out := out, smp := (s.post 0x0401 4 7 o.handle status o.code).smp } ∧
      (s.formula.isSome = true ∨ o.holdsChannels = false → v = s.chans ∧ out = s.out) := by
  rw [State.endOp]
  dsimp only
  split
  next h =>
    obtain ⟨v, out, hv⟩ := chansOut_transitAll { s with
      ops := s.ops.filter (fun x => decide (x.handle ≠ o.handle)), retained := retain s.retained (o.ended st status detail result) }
      (State.freedChannels { s with
        ops := s.ops.filter (fun x => decide (x.handle ≠ o.handle)), retained := retain s.retained (o.ended st status detail result) }
        (o.ended st status detail result)) .toMem
    refine ⟨v, out, (congrArg (fun u : State => u.post 0x0401 4 7 o.handle status o.code) hv), fun hf => ?_⟩
    simp only [Bool.and_eq_true] at h
    obtain ⟨⟨hholds, hnone⟩, -⟩ := h
    replace hholds : o.holdsChannels = true := hholds
    rcases hf with hf | hf
    · simp [Option.isNone_iff_eq_none.mp hnone] at hf
    · simp [hf] at hholds
  · exact ⟨s.chans, s.out, rfl, fun _ => ⟨rfl, rfl⟩⟩

/-- An ended operation is live no more, and retained last. -/
theorem State.endOp_lists (s : State) (o : LongOp) (st : OpSt) (status detail result : Nat) :
    (∀ x ∈ (s.endOp o st status detail result).ops, x.handle ≠ o.handle) ∧
      (s.endOp o st status detail result).retained.getLast? = some (o.ended st status detail result) := by
  obtain ⟨v, out, h, -⟩ := s.endOp_writes o st status detail result
  rw [h]
  exact ⟨fun x hx => of_decide_eq_true (List.mem_filter.mp hx).2, getLast?_retain _ _⟩

/-- What the end of the EMA copy leaves alone. -/
theorem State.evalDecanted_writes (s : State) : ∃ r v out, s.evalDecanted = { s with run := r, chans := v, out := out } := by
  rw [State.evalDecanted]
  split
  · obtain ⟨v, out, h⟩ := chansOut_transitAll (s.modRun (fun r => { r with eval := .opened })) s.channelList .toMem
    exact ⟨_, v, out, h⟩
  · exact ⟨_, _, _, rfl⟩

/-- A cancelled operation is live no more, and retained last with its final state (R347). -/
theorem State.cancelled_lists (s : State) (o : LongOp) :
    (∀ x ∈ (s.cancelOp o).evalDecanted.ops, x.handle ≠ o.handle) ∧
      (s.cancelOp o).evalDecanted.retained.getLast? = some { o with st := .cancelled, status := stCancelled, detail := 0 } := by
  obtain ⟨r, v, out, h⟩ := (s.cancelOp o).evalDecanted_writes
  rw [h]
  exact (s.cancelLeaves o).endOp_lists o .cancelled stCancelled 0 o.result

/-! ### Looking operations up -/

theorem State.handle_of_findOp {s : State} {h : Nat} {o : LongOp} (ho : s.findOp h = some o) : o.handle = h := by
  simpa using List.find?_some ho

theorem State.anyOp_of_findOp {s : State} {h : Nat} {o : LongOp} (ho : s.findOp h = some o) : s.anyOp h = some o := by
  rw [State.anyOp, ho]

/-- A command that names no operation. -/
theorem State.onOp_none {s : State} {m : Nat} {q : BitVec 448} (f : State → LongOp → Ran) (h : s.anyOp (par q 8 2) = none) :
    s.onOp m q f = s.say stNoHandle := by
  rw [State.onOp, h]

/-- A command on a live operation that the mailbox may act on. -/
theorem State.onOp_live {s : State} {m : Nat} {q : BitVec 448} (f : State → LongOp → Ran) {o : LongOp} (h : s.findOp (par q 8 2) = some o)
    (hm : actsOn m o = true) : s.onOp m q f = f s o := by
  have hfound : ¬ (s.findOp o.handle).isNone = true := by rw [State.handle_of_findOp h, h]; exact Bool.false_ne_true
  have hacts : ¬ (!actsOn m o) = true := by rw [hm]; decide
  rw [State.onOp, State.anyOp_of_findOp h]
  exact (if_neg hacts).trans (if_neg hfound)

/-! ### OP_STATUS -/

/-- The fields of OP_STATUS (Table 12-15). -/
def LongOp.shownFields (o : LongOp) : List (Nat × Nat) :=
  [(2, o.handle), (2, o.code), (1, o.st.code), (1, 0), (2, o.status), (2, o.detail), (6, 0), (8, o.done), (8, o.total), (24, o.result)]

/-- What the body of OP_STATUS shows (Table 12-15). -/
theorem shownFields_shown {o : LongOp} {a : Rsp} (h : a.body = packed o.shownFields) :
    a.result 8 2 = o.handle % 2 ^ 16 ∧ a.result 10 2 = o.code % 2 ^ 16 ∧ a.result 12 1 = o.st.code ∧ a.result 14 2 = o.status % 2 ^ 16 ∧
      a.result 16 2 = o.detail % 2 ^ 16 ∧ a.result 24 8 = o.done % 2 ^ 64 ∧ a.result 32 8 = o.total % 2 ^ 64 ∧
      a.result 40 24 = o.result % 2 ^ 192 := by
  have hst : o.st.code < 2 ^ 8 := by cases o.st <;> decide
  exact ⟨result_packed h 0 rfl rfl, result_packed h 1 rfl rfl, (result_packed h 2 (M := 2 ^ 8) rfl rfl).trans (Nat.mod_eq_of_lt hst),
    result_packed h 4 rfl rfl, result_packed h 5 rfl rfl, result_packed h 7 rfl rfl, result_packed h 8 rfl rfl, result_packed h 9 rfl rfl⟩

theorem runOpStatus_some {s : State} {m : Nat} {q : BitVec 448} {o : LongOp} (h : s.anyOp (par q 8 2) = some o) :
    runOpStatus s m q = (s, some { Rsp.ok with body := packed o.shownFields }) := by
  rw [← resFrom_result]
  simp only [runOpStatus, h, LongOp.shownFields, resFrom, res_zero, Nat.reduceAdd, Nat.add_zero, Nat.zero_add, Nat.add_assoc]

theorem runOpStatus_none {s : State} {m : Nat} {q : BitVec 448} (h : s.anyOp (par q 8 2) = none) : runOpStatus s m q = s.say stNoHandle := by
  rw [runOpStatus, h]

/-! ### The commands on a live operation -/

theorem runOpSuspend_none {s : State} {m : Nat} {q : BitVec 448} (h : s.anyOp (par q 8 2) = none) : runOpSuspend s m q = s.say stNoHandle :=
  State.onOp_none _ h

section
variable {s : State} {m : Nat} {q : BitVec 448} {o : LongOp} (ho : s.findOp (par q 8 2) = some o) (hm : actsOn m o = true)
include ho hm

theorem runOpSuspend_running (hst : o.st = .running) :
    runOpSuspend s m q = (s.modOp (par q 8 2) (fun x => { x with st := .suspending })).sayState .suspending := by
  rw [runOpSuspend, State.onOp_live _ ho hm, ← State.handle_of_findOp ho]
  simp only [hst]

theorem runOpSuspend_waiting (hst : o.st = .waiting) :
    runOpSuspend s m q = (s.modOp (par q 8 2) (fun x => { x with st := .suspended, resumeWaiting := true })).sayState .suspended := by
  rw [runOpSuspend, State.onOp_live _ ho hm, ← State.handle_of_findOp ho]
  simp only [hst]

theorem runOpSuspend_waitInput (hst : o.st = .waitInput) :
    runOpSuspend s m q = (s.modOp (par q 8 2) (fun x => { x with st := .suspended })).sayState .suspended := by
  rw [runOpSuspend, State.onOp_live _ ho hm, ← State.handle_of_findOp ho]
  simp only [hst]

theorem runOpResume_suspended (hst : o.st = .suspended) : runOpResume s m q =
    (s.modOp (par q 8 2) (fun x => { x with st := s.resumed o, resumeWaiting := false })).sayState (s.resumed o) := by
  rw [runOpResume, State.onOp_live _ ho hm, ← State.handle_of_findOp ho]
  simp only [hst]

theorem runOpCancel_past (hp : o.pastCancel = true) : runOpCancel s m q = s.say stTooLate := by
  rw [runOpCancel, State.onOp_live _ ho hm]
  exact if_pos hp

theorem runOpCancel_running (hp : o.pastCancel = false) (hst : o.st = .running) :
    runOpCancel s m q = (s.modOp (par q 8 2) (fun x => { x with cancelling := true })).sayState .running := by
  rw [runOpCancel, State.onOp_live _ ho hm, ← State.handle_of_findOp ho]
  simp only [hp, Bool.false_eq_true, if_false, hst]

theorem runOpCancel_suspended (hp : o.pastCancel = false) (hst : o.st = .suspended) :
    runOpCancel s m q = ((s.cancelOp o).evalDecanted).sayState .cancelled := by
  rw [runOpCancel, State.onOp_live _ ho hm]
  simp only [hp, Bool.false_eq_true, if_false, hst]

end

/-! ### Suspend points and reservations -/

/-- What a suspend point with progress d leaves of an operation (R346). -/
def State.suspendPoint (s : State) (o : LongOp) (d : Nat) : State :=
  if o.cancelling then ((s.modOp o.handle (fun x => { x with done := d })).cancelOp { o with done := d }).evalDecanted
  else if o.st = .suspending then
    (s.modOp o.handle (fun x => { x with done := d })).modOp o.handle (fun x => { x with st := .suspended })
  else s.modOp o.handle (fun x => { x with done := d })

theorem exec_opSuspendPoint {s : State} {h : BitVec 16} {done : Word64} {o : LongOp} (hs : Awake s) (ho : s.findOp h.toNat = some o)
    (hrange : o.done ≤ done.toNat ∧ done.toNat ≤ o.done + 2 ^ 20 ∧ (o.total = 0 ∨ done.toNat ≤ o.total))
    (hst : o.st = .running ∨ o.st = .suspending) : exec (.opSuspendPoint h done) s = .next (s.hold (s.suspendPoint o done.toNat)) := by
  change execOpSuspendPoint h done s = _
  rw [execOpSuspendPoint, act_awake s _ hs]
  dsimp only
  rw [ho]
  have hguard : ((decide (o.st = .running) || decide (o.st = .suspending)) && decide (o.done ≤ done.toNat) &&
      decide (done.toNat ≤ o.done + 2 ^ 20) && (decide (o.total = 0) || decide (done.toNat ≤ o.total))) = true := by
    obtain ⟨h1, h2, h3⟩ := hrange
    simp only [Bool.and_eq_true, Bool.or_eq_true, decide_eq_true_eq]
    exact ⟨⟨⟨hst, h1⟩, h2⟩, h3⟩
  exact congrArg (fun u => Host.Outcome.next (s.hold u)) (when_of_true hguard _ s)

/-- A command that answers, in a state that may differ from the one before in anything but what every command holds. -/
theorem exec_finishes_held {c : Instr} {k : Cmd} {m : Fin 4} {q : Req} {s u : State} {a : Rsp} (h : rowCmd c = some (k, m, q))
    (ha : Accepted k s m q) (h2 : k.code ≠ 2) (hr : k.run (s.entered m k.code q) m q.par = (u, some a)) : ∃ x,
    exec c s = .next (s.hold { u with smp := x }) ∧ (getV x.mbx m {}).rsp = a.word k.code q.seq.toNat := by
  obtain ⟨x, hx, hrsp, -⟩ := finish_writes u m k.code q a
  refine ⟨x, ?_, hrsp⟩
  rw [exec_accepted c k m q s h ha h2, hr, hx]

/-- Settles O18. -/
theorem longOperationControl : Obligations.LongOperationControl := by
  unfold Obligations.LongOperationControl
  have hok : stOk < 65536 := by decide
  have hno : stNoHandle < 65536 := by decide
  refine ⟨fun s m q => ?_, fun s h done hs o ho => ?_⟩
  · intro h shows
    refine ⟨fun ha o ho => ?_, fun ha hn => ?_, fun ha hn => ?_, fun o ho hm => ⟨fun ha hst => ?_, fun ha hst => ?_, fun ha hst => ?_,
      fun ha hst => ?_, fun ha hp => ?_, fun ha hp hst => ?_, fun ha hp hst => ?_⟩⟩
    · refine ⟨{ Rsp.ok with body := packed o.shownFields }, exec_answers (.opStatus m q) cmdOpStatus m q s s _ rfl ha (by decide)
        (runOpStatus_some (s := s.entered m 0x0401 q) (m := m) ho) hok rfl rfl rfl, rfl, rfl, shownFields_shown rfl⟩
    · exact exec_answers (.opStatus m q) cmdOpStatus m q s s _ rfl ha (by decide) (runOpStatus_none (s := s.entered m 0x0401 q) (m := m) hn) hno
        rfl rfl rfl
    · exact exec_answers (.opSuspend m q) cmdOpSuspend m q s s _ rfl ha (by decide) (runOpSuspend_none (s := s.entered m 0x0402 q) (m := m) hn) hno
        rfl rfl rfl
    · exact exec_answers (.opSuspend m q) cmdOpSuspend m q s (s.modOp h _) (shows .suspending) rfl ha (by decide)
        (runOpSuspend_running (s := s.entered m 0x0402 q) ho hm hst) hok rfl rfl rfl
    · exact exec_answers (.opSuspend m q) cmdOpSuspend m q s (s.modOp h _) (shows .suspended) rfl ha (by decide)
        (runOpSuspend_waiting (s := s.entered m 0x0402 q) ho hm hst) hok rfl rfl rfl
    · exact exec_answers (.opSuspend m q) cmdOpSuspend m q s (s.modOp h _) (shows .suspended) rfl ha (by decide)
        (runOpSuspend_waitInput (s := s.entered m 0x0402 q) ho hm hst) hok rfl rfl rfl
    · exact exec_answers (.opResume m q) cmdOpResume m q s (s.modOp h _) (shows (s.resumed o)) rfl ha (by decide)
        (runOpResume_suspended (s := s.entered m 0x0403 q) ho hm hst) hok rfl rfl rfl
    · exact exec_answers (.opCancel m q) cmdOpCancel m q s s _ rfl ha (by decide) (runOpCancel_past (s := s.entered m 0x0404 q) ho hm hp)
        (by decide) rfl rfl rfl
    · exact exec_answers (.opCancel m q) cmdOpCancel m q s (s.modOp h _) (shows .running) rfl ha (by decide)
        (runOpCancel_running (s := s.entered m 0x0404 q) ho hm hp hst) hok rfl rfl rfl
    · obtain ⟨x, hx, hrsp⟩ := exec_finishes_held (c := .opCancel m q) (k := cmdOpCancel) rfl ha (by decide)
        (runOpCancel_suspended (s := s.entered m 0x0404 q) ho hm hp hst)
      obtain ⟨hops, hret⟩ := (s.entered m 0x0404 q).cancelled_lists o
      rw [State.handle_of_findOp ho] at hops
      exact ⟨_, hx, hrsp, hops, hret⟩
  · intro d inRange moved
    refine ⟨fun hr hst hc => ?_, fun hr hst hc => ?_, fun hr hst hc => ?_, fun hst hl => ?_, fun hst hl => ?_⟩
    · rw [exec_opSuspendPoint hs ho hr (.inl hst), State.suspendPoint, hc, hst]
      rfl
    · rw [exec_opSuspendPoint hs ho hr (.inr hst), State.suspendPoint, hc, hst]
      rfl
    · refine ⟨_, exec_opSuspendPoint hs ho hr hst, ?_⟩
      have hlists := moved.cancelled_lists { o with done := d }
      rw [State.suspendPoint, if_pos hc]
      exact hlists
    · change execLongopWindowEnter h s = _
      rw [execLongopWindowEnter, act_awake s _ hs]
      rw [ho]
      exact congrArg (fun u => Host.Outcome.next (s.hold u)) (when_of_true (by simp [hst, hl]) _ s)
    · change execLongopWindowEnd h s = _
      rw [execLongopWindowEnd, act_awake s _ hs]
      rw [ho]
      exact congrArg (fun u => Host.Outcome.next (s.hold u)) (when_of_true (by simp [hst, hl]) _ s)

end Sys2Proof.Machine
end

section
/-! Refutation of O19: with a Formula admitted, RESTORE FAR takes staging bytes and so waits for LONGOP reservations that reach every channel
(R360, `State.opReady`). Without such a reservation RESTORE_DONE changes nothing, even for an image that fails its checks. -/

namespace Sys2Proof.Machine

open Sys2Proof.Bits

/-- RESTORE FAR of an image whose bytes are not there. -/
def emptyFarRestore : LongOp := { handle := 9, code := cRestore, st := .running, par := res 12 1 1 }

/-- An engine with a Formula that has no LONGOP reservation, and that RESTORE live. -/
def unreserved : State := { State.reset with porst := false, formula := some {}, ops := [emptyFarRestore] }

theorem awake_unreserved : Awake unreserved := by decide

theorem unreserved_not_ready : unreserved.opReady emptyFarRestore = false := by decide +kernel

theorem unreserved_image_bad : unreserved.acceptImage emptyFarRestore.input (emptyFarRestore.p 8 4) unreserved.ea 0 (emptyFarRestore.p 16 16)
    (unreserved.farStripes emptyFarRestore.input) ≠ 0 := by decide +kernel

/-- An operation that is not ready does not end. -/
theorem State.finishing_of_not_ready {s : State} {h : BitVec 16} {o : LongOp} (code : Nat) (f : LongOp → State → State)
    (ho : s.findOp h.toNat = some o) (hr : s.opReady o = false) : s.finishing h code f = s := by
  rw [State.finishing, ho]
  exact when_of_false (by simp [hr]) _ s

/-- The end of a live operation changes the state. -/
theorem State.ne_endOp_of_live {s : State} {o : LongOp} {st : OpSt} {status detail result : Nat} (h : ∃ x ∈ s.ops, x.handle = o.handle) :
    s ≠ s.endOp o st status detail result := by
  intro hsame
  obtain ⟨x, hx, hh⟩ := h
  rw [hsame] at hx
  exact (s.endOp_lists o st status detail result).1 x hx hh

theorem exec_restoreDone_unreserved : exec (.restoreDone 9) unreserved = .next unreserved := by
  change execRestoreDone 9 unreserved = _
  rw [execRestoreDone, act_awake _ _ awake_unreserved, State.finishing_of_not_ready (o := emptyFarRestore) _ _ rfl unreserved_not_ready]
  rfl

/-- Refutes O19: RESTORE_DONE of RESTORE FAR outside LONGOP reservations changes nothing, though the image fails its first check. -/
theorem not_restoresAndCopies : ¬ Obligations.RestoresAndCopies := by
  unfold Obligations.RestoresAndCopies
  rintro ⟨-, hends⟩
  have hrestore := (hends unreserved 9 emptyFarRestore awake_unreserved rfl rfl rfl rfl).1 rfl
  have hfailed := hrestore.1 (.inl rfl) unreserved_image_bad
  rw [exec_restoreDone_unreserved] at hfailed
  exact State.ne_endOp_of_live ⟨emptyFarRestore, List.mem_cons_self, rfl⟩ (Host.Outcome.next.inj hfailed)

end Sys2Proof.Machine
end

section
/-! Proof of O20: the ends of the operations that leave no check open. -/

namespace Sys2Proof.Machine

open Sys2Proof.Bits

/-- The end of a running operation that is ready. -/
theorem State.finishing_of_ready {s : State} {h : BitVec 16} {o : LongOp} {code : Nat} (f : LongOp → State → State)
    (ho : s.findOp h.toNat = some o) (hcode : o.code = code) (hst : o.st = .running) (hc : o.cancelling = false) (hr : s.opReady o = true) :
    s.finishing h code f = f { o with done := o.total } s := by
  rw [State.finishing, ho]
  exact when_of_true (by simp [hcode, hst, hc, hr]) _ s

/-! ### What the single ends write -/

theorem eachIn_cons {α : Type} (f : State → α → State) (a : α) (l : List α) (s : State) : eachIn (a :: l) f s = eachIn l f (f s a) := rfl

theorem State.copyRecords_writes (s : State) (ptr r n : Nat) : ∃ d, s.copyRecords ptr r n = { s with dram := d } :=
  eachIn_related (R := fun s t => ∃ d, t = { s with dram := d }) (fun s => ⟨s.dram, rfl⟩)
    (by rintro s t u ⟨d, rfl⟩ ⟨d', rfl⟩; exact ⟨d', rfl⟩) _ (fun s x => ⟨_, rfl⟩) _ s

theorem patternBytes_length (pat len : Nat) : (patternBytes pat len).length = len := by simp [patternBytes]

theorem State.fillRegion_inside (s : State) (base len pat i : Nat) (h : Memory.wf s.dram) (hi : i < len) :
    (s.fillRegion base len pat).dramByte (base + i) = BitVec.ofNat 8 (pat / 256 ^ (i % 8)) := by
  have hbyte := s.writeDram_byte base (base + i) (patternBytes pat len) h
  rw [patternBytes_length, if_pos ⟨Nat.le_add_right _ _, Nat.add_lt_add_left hi _⟩, Nat.add_sub_cancel_left] at hbyte
  refine hbyte.trans ?_
  rw [patternBytes, List.getD_eq_getElem?_getD, List.getElem?_map, List.getElem?_range hi]
  rfl

theorem State.fillRegion_outside (s : State) (base len pat a : Nat) (h : Memory.wf s.dram) (ha : a < base ∨ base + len ≤ a) :
    (s.fillRegion base len pat).dramByte a = s.dramByte a := by
  have hbyte := s.writeDram_byte base a (patternBytes pat len) h
  rw [patternBytes_length, if_neg (by omega)] at hbyte
  exact hbyte

/-! ### Patrol passes -/

/-- The patrol books of channels. -/
def SameScrub (s t : State) : Prop :=
  ∀ ch, (t.chan ch).scrubStart = (s.chan ch).scrubStart ∧ (t.chan ch).scrubPosts = (s.chan ch).scrubPosts

theorem SameScrub.refl (s : State) : SameScrub s s := fun _ => ⟨rfl, rfl⟩

theorem SameScrub.trans {s t u : State} (h : SameScrub s t) (h' : SameScrub t u) : SameScrub s u := fun ch =>
  ⟨(h' ch).1.trans (h ch).1, (h' ch).2.trans (h ch).2⟩

/-- Reading a channel after a change of one. -/
theorem State.chan_modChan (s : State) (i ch : Nat) (f : Channel → Channel) :
    (s.modChan i f).chan ch = if i = ch ∧ i < 32 then f (s.chan ch) else s.chan ch := by
  by_cases hi : i = ch
  · subst hi
    by_cases hlt : i < 32
    · rw [if_pos ⟨rfl, hlt⟩]
      exact getV_modV_self _ _ _ _ hlt
    · rw [if_neg fun h => hlt h.2]
      simp [State.chan, State.modChan, getV, List.getD_eq_getElem?_getD, Nat.not_lt.mp hlt]
  · rw [if_neg fun h => hi h.1]
    exact getV_modV_ne _ _ _ _ _ hi

theorem sameScrub_modChan (s : State) (i : Nat) (f : Channel → Channel)
    (hf : ∀ c : Channel, (f c).scrubStart = c.scrubStart ∧ (f c).scrubPosts = c.scrubPosts) : SameScrub s (s.modChan i f) := by
  intro ch
  rw [State.chan_modChan]
  split
  · exact hf _
  · exact ⟨rfl, rfl⟩

theorem sameScrub_issuePeriod (s : State) (ch p since : Nat) : SameScrub s (s.issuePeriod ch p since) :=
  eachIn_related SameScrub.refl SameScrub.trans _ (fun _ _ => eachIn_related SameScrub.refl SameScrub.trans _ (fun s pc => by
    split
    · exact sameScrub_modChan s ch _ fun _ => ⟨rfl, rfl⟩
    · exact .refl s) _ _) _ s

theorem Channel.transit_scrub (c : Channel) (m : Mode) (t : Nat) :
    (c.transit m t).scrubStart = c.scrubStart ∧ (c.transit m t).scrubPosts = c.scrubPosts := by
  unfold Channel.transit
  split
  · split <;> exact ⟨rfl, rfl⟩
  · split <;> exact ⟨rfl, rfl⟩
  · exact ⟨rfl, rfl⟩

theorem sameScrub_transitAll (s : State) (chs : List Nat) (m : Mode) : SameScrub s (s.transitAll chs m) :=
  eachIn_related SameScrub.refl SameScrub.trans _ (fun s ch => by
    refine SameScrub.trans (t := if m = .toMem ∧ (s.chan ch).mode = .proc then s.issueDue ch else s) ?_
      (sameScrub_modChan _ ch _ fun c => c.transit_scrub m _)
    split
    · exact sameScrub_issuePeriod s ch s.refreshPeriod 0
    · exact .refl s) chs s

theorem sameScrub_endOp (s : State) (o : LongOp) (st : OpSt) (status detail result : Nat) :
    SameScrub s (s.endOp o st status detail result) := by
  rw [State.endOp]
  dsimp only
  split
  · exact sameScrub_transitAll { s with ops := _, retained := _ } _ .toMem
  · exact .refl s

/-- Two states that differ in channels and counters alone. -/
def ChansCounters (s t : State) : Prop := ∃ v c, t = { s with chans := v, counters := c }

theorem ChansCounters.refl (s : State) : ChansCounters s s := ⟨s.chans, s.counters, rfl⟩

theorem ChansCounters.trans {s t u : State} (h : ChansCounters s t) (h' : ChansCounters t u) : ChansCounters s u := by
  obtain ⟨v, c, rfl⟩ := h
  obtain ⟨v', c', rfl⟩ := h'
  exact ⟨v', c', rfl⟩

theorem chansCounters_count (s : State) (set index num n : Nat) : ChansCounters s (s.count set index num n) := ⟨s.chans, _, rfl⟩

theorem chansCounters_setCounter (s : State) (set index num v : Nat) : ChansCounters s (s.setCounter set index num v) := ⟨s.chans, _, rfl⟩

theorem chansCounters_modChan (s : State) (i : Nat) (f : Channel → Channel) : ChansCounters s (s.modChan i f) := ⟨_, s.counters, rfl⟩

/-- Completed passes write channels and counters alone. -/
theorem chansCounters_scrubbed (s : State) (chs : List Nat) : ChansCounters s (eachIn chs State.scrubbed s) :=
  eachIn_related ChansCounters.refl ChansCounters.trans _
    (fun s ch => ((chansCounters_count s 3 ch 8 1).trans (chansCounters_modChan _ ch _)).trans (chansCounters_setCounter _ 8 ch 1 0)) chs s

theorem State.chan_scrubbed (s : State) (i ch : Nat) : (s.scrubbed i).chan ch =
    if i = ch ∧ i < 32 then { s.chan ch with scrubStart := 0, scrubPosts := 0 } else s.chan ch := by
  have hchans : (s.count 3 i 8 1).chan ch = s.chan ch := by rw [State.chan, State.count_chans, State.chan]
  rw [State.scrubbed, State.chan, State.setCounter_chans, ← State.chan, State.chan_modChan, hchans]

/-- A channel whose pass completes has no pass begun. -/
theorem State.scrubbed_clears (s : State) (chs : List Nat) (ch : Nat) (hlt : ch < 32) (h : ch ∈ chs ∨
    ((s.chan ch).scrubStart = 0 ∧ (s.chan ch).scrubPosts = 0)) :
    ((eachIn chs State.scrubbed s).chan ch).scrubStart = 0 ∧ ((eachIn chs State.scrubbed s).chan ch).scrubPosts = 0 := by
  induction chs generalizing s with
  | nil => exact h.resolve_left (List.not_mem_nil)
  | cons i chs ih =>
    rw [eachIn_cons]
    refine ih (s.scrubbed i) ?_
    rw [State.chan_scrubbed]
    by_cases hi : i = ch
    · rw [if_pos ⟨hi, hi ▸ hlt⟩]
      exact .inr ⟨rfl, rfl⟩
    · rw [if_neg fun hh => hi hh.1]
      exact h.imp_left fun hmem => (List.mem_cons.mp hmem).resolve_left (Ne.symm hi)

theorem ended_not_live (l : List LongOp) (h : Nat) : ∀ x ∈ l.filter (fun x => decide (x.handle ≠ h)), x.handle ≠ h :=
  fun _ hx => of_decide_eq_true (List.mem_filter.mp hx).2

/-- What a command that ends an operation leaves. -/
theorem State.hold_endOp {s u : State} (o : LongOp) (st : OpSt) (status detail result : Nat) (h1 : u.cfg = s.cfg) (h2 : u.pending = s.pending)
    (h3 : u.porst = s.porst) : ∃ v out, s.hold (u.endOp o st status detail result) =
      { u with ops := u.ops.filter (fun x => decide (x.handle ≠ o.handle)), retained := retain u.retained (o.ended st status detail result),
               chans := v, out := out, smp := (u.post 0x0401 4 7 o.handle status o.code).smp } ∧
      (u.formula.isSome = true ∨ o.holdsChannels = false → v = u.chans ∧ out = u.out) := by
  obtain ⟨v, out, hend, hkeep⟩ := u.endOp_writes o st status detail result
  refine ⟨v, out, ?_, hkeep⟩
  rw [hend]
  exact hold_of _ _ h1 h2 h3

/-- Settles O20. -/
theorem longOperationsEnd : Obligations.LongOperationsEnd := by
  unfold Obligations.LongOperationsEnd
  intro s h hs o ho hst hc hr ended posted whole
  have hrun (c : Instr) {code : Nat} {f : LongOp → State → State} (hexec : exec c s = act s (fun u => u.finishing h code f))
      (hcode : o.code = code) : exec c s = .next (s.hold (f whole s)) := by
    rw [hexec, act_awake s _ hs, State.finishing_of_ready f ho hcode hst hc hr]
  have hlive := ended_not_live s.ops o.handle
  refine ⟨fun hcode hwf => ?_, fun hcode hp => ?_, fun hcode hp => ?_, fun hcode => ?_, fun failing hcode => ?_, fun corrected uncorrectable hcode => ?_⟩
  · obtain ⟨v, out, hend, hkeep⟩ := State.hold_endOp (s := s) (u := s.fillRegion (o.p 8 8) (o.p 16 8) (o.p 24 8)) whole .done stOk 0 o.result
      rfl rfl rfl
    exact ⟨_, (hrun (.initRegionDone h) rfl hcode).trans (congrArg _ hend), ⟨hlive, _, getLast?_retain _ _, hcode⟩, rfl,
      fun i hi => s.fillRegion_inside _ _ _ i hwf hi, fun a ha => s.fillRegion_outside _ _ _ a hwf ha, fun hf => (hkeep (.inl hf)).1, rfl⟩
  · have hall : (!s.outPages.any (fun (p : OutPage) => decide (p.kind = 1) && decide (p.gen = o.result))) = true := by
      simpa using fun p hmem hk hg => hp p hmem ⟨hk, hg⟩
    have hrun := (hrun (.flaconWriteDone h) rfl hcode).trans (congrArg (fun u => Host.Outcome.next (s.hold u)) (when_of_true hall _ s))
    obtain ⟨v, out, hend, hkeep⟩ := State.hold_endOp (s := s) (u := s) whole .done stOk 0 o.result rfl rfl rfl
    obtain ⟨hv, hout⟩ := hkeep (.inr (by rw [LongOp.holdsChannels, hcode]; decide))
    rw [hv, hout] at hend
    exact ⟨_, hrun.trans (congrArg _ hend), ⟨hlive, _, getLast?_retain _ _, hcode⟩, rfl, rfl⟩
  · have hsome : (!s.outPages.any (fun (p : OutPage) => decide (p.kind = 1) && decide (p.gen = o.result))) = false := by simpa using hp
    exact (hrun (.flaconWriteDone h) rfl hcode).trans (congrArg (fun u => Host.Outcome.next (s.hold u)) (when_of_false hsome _ s))
  · intro rs first status
    obtain ⟨d, hd⟩ := s.copyRecords_writes (o.p 16 8) (o.p 8 8) (o.p 24 4 / 64)
    have hrun : exec (.blotterDumpDone h) s = .next (s.hold ((s.copyRecords (o.p 16 8) (o.p 8 8) (o.p 24 4 / 64)).endOp
      { o with done := rs.length } .done status 0 (first % 2 ^ 64 + rs.length % 2 ^ 64 * 2 ^ 64))) := hrun (.blotterDumpDone h) rfl hcode
    rw [hd] at hrun ⊢
    obtain ⟨v, out, hend, hkeep⟩ := State.hold_endOp (s := s) (u := { s with dram := d }) { o with done := rs.length } .done status 0
      (first % 2 ^ 64 + rs.length % 2 ^ 64 * 2 ^ 64) rfl rfl rfl
    exact ⟨_, hrun.trans (congrArg _ hend), ⟨hlive, _, getLast?_retain _ _, hcode⟩, rfl, rfl, fun hf => (hkeep (.inl hf)).1, rfl⟩
  · intro bad u
    exact ⟨hrun (.selfTestDone h failing) rfl hcode, ⟨(u.endOp_lists whole .done stOk 0 bad).1, _, (u.endOp_lists whole .done stOk 0 bad).2, hcode⟩,
      fun hbad => congrArg (fun b => eachIn ((List.range 11).filter (bit b)) State.fenceTested s) hbad⟩
  · have hrun := hrun (.scrubPassDone h corrected uncorrectable) rfl hcode
    have hclears := s.scrubbed_clears (s.opChannels whole)
    obtain ⟨v, c, hscrub⟩ := chansCounters_scrubbed s (s.opChannels whole)
    have hbooks := sameScrub_endOp (eachIn (s.opChannels whole) State.scrubbed s) whole .done stOk 0
      (corrected.toNat + uncorrectable.toNat * 2 ^ 32)
    have hcleared (ch : Nat) (hch : ch < channels s.cfg) (hbit : bit (o.p 8 4) ch = true) :
        ((s.hold ((eachIn (s.opChannels whole) State.scrubbed s).endOp whole .done stOk 0 (corrected.toNat + uncorrectable.toNat * 2 ^ 32))).chan
          ch).scrubStart = 0 ∧
        ((s.hold ((eachIn (s.opChannels whole) State.scrubbed s).endOp whole .done stOk 0 (corrected.toNat + uncorrectable.toNat * 2 ^ 32))).chan
          ch).scrubPosts = 0 := by
      have hmem : ch ∈ s.opChannels whole := by
        rw [State.opChannels, if_pos hcode]
        exact List.mem_filter.mpr ⟨(s.mem_channelList ch).mpr hch, hbit⟩
      obtain ⟨h1, h2⟩ := hclears ch (Nat.lt_of_lt_of_le hch (channels_le s.cfg)) (.inl hmem)
      exact ⟨(hbooks ch).1.trans h1, (hbooks ch).2.trans h2⟩
    rw [hscrub] at hrun hcleared
    obtain ⟨v', out, hend, -⟩ := State.hold_endOp (s := s) (u := { s with chans := v, counters := c }) whole .done stOk 0
      (corrected.toNat + uncorrectable.toNat * 2 ^ 32) rfl rfl rfl
    rw [hend] at hrun hcleared
    exact ⟨_, hrun, ⟨hlive, _, getLast?_retain _ _, hcode⟩, rfl, rfl, rfl, hcleared⟩

end Sys2Proof.Machine
end

section
/-! Proof of O21: FENCE_CLEAR. -/

namespace Sys2Proof.Machine

open Sys2Proof.Bits

/-! ### A request that is taken changes nothing that clearing a fence looks at -/

section
variable (u : State) (m : Fin 4) (code : Nat) (q : Req)

theorem repower_entered (i : Nat) : (u.entered m code q).repower i = (u.repower i).entered m code q := by
  have hneeded : (u.entered m code q).domainNeeded i = u.domainNeeded i := rfl
  have hfenced : (u.entered m code q).domainFenced i = u.domainFenced i := rfl
  rw [State.repower, State.repower, hneeded, hfenced]
  split <;> rfl

theorem sendTopo_entered (l : List Nat) : eachIn l State.sendTopo (u.entered m code q) = (eachIn l State.sendTopo u).entered m code q := by
  induction l generalizing u with
  | nil => rfl
  | cons p l ih => exact ih (u.sendTopo p)

theorem topoIfChanged_entered : (u.entered m code q).topoIfChanged = u.topoIfChanged.entered m code q := by
  have htopo : topoPayload (u.entered m code q) = topoPayload u := rfl
  have hlast : (u.entered m code q).fabric.lastTopo = u.fabric.lastTopo := rfl
  rw [State.topoIfChanged, State.topoIfChanged, htopo, hlast]
  split
  · rfl
  · rw [State.sendTopoAll]
    exact congrArg (fun v : State => v.modFabric (fun f => { f with lastTopo := topoPayload u })) (sendTopo_entered u m code q _)

theorem clearFence_entered (unit idx : Nat) : (u.entered m code q).clearFence unit idx = (u.clearFence unit idx).entered m code q := by
  unfold State.clearFence
  split
  · exact repower_entered (u.modStills (fun t => { t with fenced := t.fenced.erase idx, spare := idx })) m code q (4 + idx)
  · rfl
  · rfl
  · exact (congrArg State.topoIfChanged (repower_entered (u.modLink idx (fun l => { l.clear .down with retrain := u.present 2 })) m code q 2)).trans (topoIfChanged_entered _ m code q)
  · rfl
  · rfl
  · exact repower_entered { u with keyFenced := false, keyPresent := u.present 3 && u.run.setUp } m code q 3
  · rfl
  · rfl

end

/-! ### What clearing a fence keeps -/

/-- Two states with the same configuration, queue and PORST_N. -/
def SameHeld (s t : State) : Prop := t.cfg = s.cfg ∧ t.pending = s.pending ∧ t.porst = s.porst

theorem repower_held (s : State) (i : Nat) : SameHeld s (s.repower i) := by
  rw [State.repower]
  split <;> exact ⟨rfl, rfl, rfl⟩

theorem topoIfChanged_held (s : State) : SameHeld s s.topoIfChanged := by
  rw [State.topoIfChanged]
  split
  · exact ⟨rfl, rfl, rfl⟩
  · obtain ⟨ls, hls⟩ := s.sendTopoAll_writes
    rw [hls]
    exact ⟨rfl, rfl, rfl⟩

theorem clearFence_held (s : State) (unit idx : Nat) : SameHeld s (s.clearFence unit idx) := by
  unfold State.clearFence
  split
  · exact repower_held (s.modStills (fun t => { t with fenced := t.fenced.erase idx, spare := idx })) _
  · exact ⟨rfl, rfl, rfl⟩
  · exact ⟨rfl, rfl, rfl⟩
  · obtain ⟨h1, h2, h3⟩ := repower_held (s.modLink idx (fun l => { l.clear .down with retrain := s.present 2 })) 2
    obtain ⟨h4, h5, h6⟩ := topoIfChanged_held ((s.modLink idx (fun l => { l.clear .down with retrain := s.present 2 })).repower 2)
    exact ⟨h4.trans h1, h5.trans h2, h6.trans h3⟩
  · exact ⟨rfl, rfl, rfl⟩
  · exact ⟨rfl, rfl, rfl⟩
  · exact repower_held { s with keyFenced := false, keyPresent := s.present 3 && s.run.setUp } _
  · exact ⟨rfl, rfl, rfl⟩
  · exact ⟨rfl, rfl, rfl⟩

theorem repower_eq (s : State) (i : Nat) :
    s.repower i = if s.domainNeeded i = true ∧ s.domainFenced i = false then s.requestDom i else s := by
  rw [State.repower]
  exact if_congr (by simp) rfl rfl

theorem atomizerWork_eq_false_iff (s : State) (ch : Nat) :
    s.atomizerWork ch = false ↔ s.formula = none ∨ ∀ p ∈ s.form.programs, p.chmask.testBit ch = false := by
  simp only [State.atomizerWork, bit, Bool.and_eq_false_iff, Option.isSome_eq_false_iff, Option.isNone_iff_eq_none, List.any_eq_false,
    Bool.not_eq_true]

/-- Settles O21. -/
theorem fenceClear : Obligations.FenceClear := by
  unfold Obligations.FenceClear
  have hok : stOk < 65536 := by decide
  refine ⟨fun s m q ha => ?_, fun s idx => ?_⟩
  · intro unit idx cleared power
    have hclear (hf : s.unitFenced unit idx = true) (hc : s.clearable unit idx = true) : cleared (s.clearFence unit idx) := by
      have h1 : ¬ (!s.unitFenced unit idx) = true := by rw [hf]; decide
      have h2 : ¬ (!s.clearable unit idx) = true := by rw [hc]; decide
      obtain ⟨h3, h4, h5⟩ := clearFence_held s unit idx
      refine exec_answers (.fenceClear m q) cmdFenceClear m q s (s.clearFence unit idx) _ rfl ha (by decide) ?_ hok h3 h4 h5
      exact (if_neg h1).trans ((if_neg h2).trans (congrArg (fun u : State => u.say stOk) (clearFence_entered s m 0x0505 q unit idx)))
    refine ⟨fun hf => ?_, fun hf hc => ?_, fun hf hc => ?_⟩
    · have h1 : (!s.unitFenced unit idx) = true := by rw [hf]; decide
      exact exec_answers (.fenceClear m q) cmdFenceClear m q s s _ rfl ha (by decide) (if_pos h1) hok rfl rfl rfl
    · have h1 : ¬ (!s.unitFenced unit idx) = true := by rw [hf]; decide
      have h2 : (!s.clearable unit idx) = true := by rw [hc]; decide
      exact exec_answers (.fenceClear m q) cmdFenceClear m q s s _ rfl ha (by decide) ((if_neg h1).trans (if_pos h2)) (by decide) rfl rfl rfl
    · have hdone := hclear hf hc
      have hpower (t : State) (i : Nat) : t.repower i = power t i := repower_eq t i
      refine ⟨fun hu => ?_, fun hu => ?_, fun hu => ?_, fun hu => ?_, fun hu => ?_, fun hu => ?_, fun hu => ?_, fun hu => ?_⟩ <;>
        rw [hu] at hdone
      · exact hpower _ _ ▸ hdone
      · exact hdone
      · exact hdone
      · exact hpower _ _ ▸ hdone
      · exact hdone
      · exact hdone
      · exact hpower _ _ ▸ hdone
      · exact hdone
  · refine ⟨?_, ?_, ?_, Option.isNone_iff_eq_none, ?_, ?_⟩
    · simp [State.clearable, bit]
    · simp [State.clearable]
    · rw [← atomizerWork_eq_false_iff]
      simp [State.clearable]
    · simp [State.clearable]
    · simp [State.clearable]

end Sys2Proof.Machine
end

section
/-! Proofs of O22 and O23: ERRLOG_READ, COUNTER_READ, COUNTER_CLEAR and ATTEST; FW_ACTIVATE and FW_COMMIT. -/

namespace Sys2Proof.Machine

open Sys2Proof.Bits

/-! ### The counters that COUNTER_CLEAR leaves -/

/-- Whether a counter is that of a set, index and number. -/
def Counter.at (set index num : Nat) (c : Counter) : Bool := decide (c.set = set) && decide (c.index = index) && decide (c.num = num)

/-- A counter all of whose entries stay reads as before. -/
theorem findCounter_filter_kept (cs : List Counter) (p : Counter → Bool) (set index num : Nat)
    (h : ∀ c, c.at set index num = true → p c = true) : findCounter (cs.filter p) set index num = findCounter cs set index num := by
  have hfind : (cs.filter p).find? (Counter.at set index num) = cs.find? (Counter.at set index num) := by
    rw [List.find?_filter]
    refine congrArg (cs.find? ·) (funext fun c => ?_)
    cases hc : c.at set index num with
    | false => simp
    | true => simp [h c hc]
  exact congrArg (fun o : Option Counter => match o with | some c => (c.value, c.sat) | none => (0, false)) hfind

/-- A counter all of whose entries go reads 0. -/
theorem findCounter_filter_gone (cs : List Counter) (p : Counter → Bool) (set index num : Nat)
    (h : ∀ c, c.at set index num = true → p c = false) : findCounter (cs.filter p) set index num = (0, false) := by
  have hfind : (cs.filter p).find? (Counter.at set index num) = none := by
    rw [List.find?_filter, List.find?_eq_none]
    intro c _
    cases hc : c.at set index num with
    | false => simp
    | true => simp [h c hc]
  exact congrArg (fun o : Option Counter => match o with | some c => (c.value, c.sat) | none => (0, false)) hfind

theorem Counter.at_iff (c : Counter) (set index num : Nat) : c.at set index num = true ↔ c.set = set ∧ c.index = index ∧ c.num = num := by
  simp [Counter.at, and_assoc]

/-! ### The bytes of COUNTER_READ -/

theorem leBytes_length (n v : Nat) : (leBytes n v).length = n := by
  induction n generalizing v with
  | zero => rfl
  | succ n ih => exact congrArg (· + 1) (ih (v / 256))

theorem counterBytes_length_le (s : State) (set len : Nat) : (s.counterBytes set len).length ≤ len := by
  have hentry (k : Nat × Nat) : (s.counterEntry set k).length = 16 := leBytes_length _ _
  have hks := List.length_take_le (len / 16 - 1) (setCounters s.cfg set)
  rw [State.counterBytes]
  split
  · exact Nat.zero_le _
  · rw [List.length_append, leBytes_length, List.length_flatMap]
    simp only [hentry, List.map_const', List.sum_replicate, smul_eq_mul]
    omega

/-! ### ATTEST -/

theorem attestReport_entered (s : State) (m : Fin 4) (code : Nat) (q : Req) (c : List Byte) (d : Nat) :
    (s.entered m code q).attestReport c d = s.attestReport c d := by
  have hbody : (s.entered m code q).attestBody c d = s.attestBody c d := by
    have hfru : smFru (s.entered m code q) = smFru s := rfl
    rw [State.attestBody, State.attestBody, hfru]
    rfl
  rw [State.attestReport, State.attestReport, hbody]

theorem runAttest_some {s : State} {m : Nat} {q : BitVec 448} {x : Nat} (hx : s.fuses.secret = some x) : runAttest s m q =
    (s.writeDram (par q 40 8) (s.attestReport (parBytes q 8 32) (attestKey x)), some { Rsp.ok with body := res 8 4 296 }) := by
  rw [runAttest, hx]

theorem runAttest_none {s : State} {m : Nat} {q : BitVec 448} (hx : s.fuses.secret = none) : runAttest s m q = s.say stWrongState := by
  rw [runAttest, hx]

/-- Settles O22. -/
theorem logsCountersAttest : Obligations.LogsCountersAttest := by
  unfold Obligations.LogsCountersAttest
  have hok : stOk < 65536 := by decide
  refine ⟨fun s m q => ?_, fun s m q ha => ⟨fun x hx => ?_, fun hx => ?_⟩⟩
  · intro rs bs set
    refine ⟨fun ha => ?_, fun ha => ?_, counterBytes_length_le s _ _, fun ha => ⟨{ s with counters := s.counters.filter (fun c => !clears set c) },
      ?_, rfl, fun i n h8 => ?_, fun k i n hk => ?_, fun i n h8 hn => ?_, fun i n h8 hn => ?_⟩⟩
    · exact exec_answers (.errlogRead m q) cmdErrlogRead m q s (s.writeDram _ _) _ rfl ha (by decide) rfl hok rfl rfl rfl
    · exact exec_answers (.counterRead m q) cmdCounterRead m q s (s.writeDram _ _) _ rfl ha (by decide) rfl hok rfl rfl rfl
    · exact exec_answers (.counterClear m q) cmdCounterClear m q s { s with counters := _ } _ rfl ha (by decide) rfl hok rfl rfl rfl
    · refine findCounter_filter_gone _ _ _ _ _ fun c hc => ?_
      simp [clears, ((c.at_iff _ _ _).mp hc).1, h8]
    · refine findCounter_filter_kept _ _ _ _ _ fun c hc => ?_
      simp [clears, ((c.at_iff _ _ _).mp hc).1, hk]
    · refine findCounter_filter_kept _ _ _ _ _ fun c hc => ?_
      simp [clears, ((c.at_iff _ _ _).mp hc).1, ((c.at_iff _ _ _).mp hc).2.2, h8, hn]
    · refine findCounter_filter_gone _ _ _ _ _ fun c hc => ?_
      simp [clears, ((c.at_iff _ _ _).mp hc).1, ((c.at_iff _ _ _).mp hc).2.2, h8, hn]
  · have hrun := runAttest_some (s := s.entered m 0x0509 q) (m := m) (q := q.par) hx
    rw [attestReport_entered] at hrun
    generalize s.attestReport (parBytes q.par 8 32) (attestKey x) = report at hrun ⊢
    exact exec_answers (.attest m q) cmdAttest m q s (s.writeDram _ _) _ rfl ha (by decide) hrun hok rfl rfl rfl
  · exact exec_answers (.attest m q) cmdAttest m q s s _ rfl ha (by decide)
      (runAttest_none (s := s.entered m 0x0509 q) (m := m) (q := q.par) hx) (by decide) rfl rfl rfl

/-! ### FW_ACTIVATE and FW_COMMIT -/

theorem runFwActivate_loaded {s : State} {m : Nat} {q : BitVec 448} {i : Nat} (hi : s.loadedSlot = some i) (h0 : (s.codeSlot 0).st ≠ .probation)
    (h1 : (s.codeSlot 1).st ≠ .probation) (hfmt : mHandoverFmt (s.codeSlot i).manifest = 2) (hh : s.handingOver = false)
    (hcore : s.fw.coreOut (1 - s.fw.core.toNat) = false) : runFwActivate s m q =
    ({ s with fw := { s.fw with handover := .booting (slotIx i), standbyBoot := some (slotIx i), standby := none } }, some Rsp.ok) := by
  have hprob : ([0, 1].any (fun j => decide ((s.codeSlot j).st = SlotSt.probation))) = false := by simp [h0, h1]
  simp only [runFwActivate, hi, hprob, hfmt, hh, hcore, Bool.false_eq_true, if_false, ne_eq, not_true_eq_false]
  rfl

theorem runFwCommit_active {s : State} {m : Nat} {q : BitVec 448} {i : Fin 2} (hi : s.fw.running = some i)
    (hst : (s.codeSlot i.toNat).st = .active) (hbits : commitBits s.fuses (s.codeSlot i.toNat).manifest ≠ []) : runFwCommit s m q =
    (s.modFw (fun w => { w with commit := some { bits := commitBits s.fuses (s.codeSlot i.toNat).manifest, mbx := m, since := s.time } }),
      none) := by
  have hne : (commitBits s.fuses (s.codeSlot i.toNat).manifest).isEmpty = false := by simpa using hbits
  simp only [runFwCommit, hi, hst, hne, Bool.false_eq_true, if_false, ne_eq, not_true_eq_false, reduceCtorEq]

theorem runFwCommit_probation {s : State} {m : Nat} {q : BitVec 448} {i : Fin 2} (hi : s.fw.running = some i)
    (hst : (s.codeSlot i.toNat).st = .probation) : runFwCommit s m q = s.say fwProbation := by
  simp only [runFwCommit, hi, hst, if_true]

/-- Settles O23. -/
theorem firmwareActivateAndCommit : Obligations.FirmwareActivateAndCommit := by
  unfold Obligations.FirmwareActivateAndCommit
  intro s m q
  refine ⟨fun ha i hi h0 h1 hfmt hh hcore => ?_, fun ha hn => ?_, fun ha i hi hst => ?_, fun ha i hi hst => ?_⟩
  · exact exec_answers (.fwActivate m q) cmdFwActivate m q s { s with fw := _ } _ rfl ha (by decide)
      (runFwActivate_loaded (s := s.entered m 0x0602 q) (m := m) (q := q.par) hi h0 h1 hfmt hh hcore) (by decide) rfl rfl rfl
  · have hrun : runFwActivate (s.entered m 0x0602 q) m q.par = (s.entered m 0x0602 q).say fwNoImage := by
      have hentered : (s.entered m 0x0602 q).loadedSlot = none := hn
      simp only [runFwActivate, hentered]
    exact exec_answers (.fwActivate m q) cmdFwActivate m q s s _ rfl ha (by decide) hrun (by decide) rfl rfl rfl
  · intro bits c hbits
    rw [exec_accepted (.fwCommit m q) cmdFwCommit m q s rfl ha (by decide)]
    exact congrArg (fun r : Ran => Host.Outcome.next (s.hold (r.finish m cFwCommit q)))
      (runFwCommit_active (s := s.entered m cFwCommit q) (m := m) (q := q.par) hi hst hbits)
  · exact exec_answers (.fwCommit m q) cmdFwCommit m q s s _ rfl ha (by decide)
      (runFwCommit_probation (s := s.entered m cFwCommit q) (m := m) (q := q.par) hi hst) (by decide) rfl rfl rfl

end Sys2Proof.Machine
end

section
/-! Proofs of O24 and O25: the bypass of a channel in MEM mode; claims of aperture rows. -/

namespace Sys2Proof.Machine

open Sys2Proof.Bits

section
variable {s : State} {ch : Fin 32} {pc : Fin 2} {bank : Fin 32}

theorem chOwn_of_mem {c : Channel} (h : c.mode = .mem) : chOwn c = false := by simp [chOwn, h]

/-! ### Row commands that the bypass passes -/

section
variable (hp : Ported s ch) (ho : chOwn (s.chan ch) = false)
include hp ho

theorem exec_hostAct_passed (row : BitVec 16) (hc : s.claims ch pc bank row.toNat = false) : exec (.hostAct ch pc bank row) s =
    .next ((s.pass ch 1 pc bank row.toNat 0).modChan ch (fun c => { c with rows := dropBank c.rows pc bank ++ [(pc.toNat, bank.toNat, row.toNat)] })) := by
  change execHostAct ch pc bank row s = _
  rw [execHostAct, onPort_open _ _ _ hp, if_neg (by rw [hc]; decide), if_neg (by rw [ho]; decide)]
  rfl

theorem exec_hostPre_passed (hm : (s.chan ch).marked pc bank = false) : exec (.hostPre ch pc bank) s =
    .next ((s.pass ch 2 pc bank 0 0).modChan ch (fun c => { c with rows := dropBank c.rows pc bank })) := by
  change execHostPre ch pc bank s = _
  rw [execHostPre, onPort_open _ _ _ hp, if_neg (by rw [hm]; decide), if_neg (by rw [ho]; decide)]
  rfl

theorem exec_hostPrea_passed : exec (.hostPrea ch pc) s = .next ((s.pass ch 3 pc 0 0 0).modChan ch
    (fun c => { c with rows := dropPc c.rows pc, marks := dropPc c.marks pc, stale := dropPc c.stale pc })) := by
  change execHostPrea ch pc s = _
  rw [execHostPrea, onPort_open _ _ _ hp, if_neg (by rw [ho]; decide)]
  simp only [State.modChan, State.pass, State.suppress, modV_modV]
  rfl

theorem exec_hostRefresh_passed (all : Bool) : exec (.hostRefresh ch pc bank all) s =
    .next (s.pass ch (if all then 5 else 4) pc (if all then 0 else bank.toNat) 0 0) := by
  change execHostRefresh ch pc bank all s = _
  rw [execHostRefresh, onPort_open _ _ _ hp, if_neg (by rw [ho]; decide)]
  rfl

theorem exec_hostOtherRowCmd_passed (kind : BitVec 4) (hk : 7 ≤ kind.toNat) : exec (.hostOtherRowCmd ch kind pc) s =
    .next (s.pass ch kind.toNat pc 0 0 0) := by
  have hkind : otherRowKind kind = true := decide_eq_true hk
  change execHostOtherRowCmd ch kind pc s = _
  rw [execHostOtherRowCmd, onPort_open _ _ _ hp, when_of_true hkind, if_neg (by rw [ho]; decide)]
  rfl

end

/-! ### Columns of the core die -/

/-- A read of a row that the host opened. -/
theorem exec_hostRead_core (hp : Ported s ch) (ho : chOwn (s.chan ch) = false) (hm : (s.chan ch).marked pc bank = false) (col : Fin 32)
    (sev : BitVec 2) : exec (.hostRead ch pc bank col sev) s = .next (s.hold (s.coreRead ch pc bank col sev.toNat)) := by
  have hown : ¬ ((s.chan ch).marked pc bank || chOwn (s.chan ch)) = true := by simp [hm, ho]
  change execHostRead ch pc bank col sev s = _
  rw [execHostRead, onPort_open _ _ _ hp]
  dsimp only
  rw [bankRow_marks_of_not_marked hm]
  exact congrArg (fun u => Host.Outcome.next (s.hold u)) (if_neg hown)

theorem exec_hostWrite_core (hp : Ported s ch) (ho : chOwn (s.chan ch) = false) (hm : (s.chan ch).marked pc bank = false) (col : Fin 32)
    (data : BitVec 256) (mask : Word32) (pois : Bool) :
    exec (.hostWrite ch pc bank col data mask pois) s = .next (s.hold (s.coreWrite ch pc bank col data mask pois)) := by
  have hown : ¬ ((s.chan ch).marked pc bank || chOwn (s.chan ch)) = true := by simp [hm, ho]
  change execHostWrite ch pc bank col data mask pois s = _
  rw [execHostWrite, onPort_open _ _ _ hp]
  unfold State.hostWrite
  dsimp only
  rw [bankRow_marks_of_not_marked hm]
  exact congrArg (fun u => Host.Outcome.next (s.hold u)) (if_neg hown)

theorem exec_hostMrs_mem (hp : Ported s ch) (ho : chOwn (s.chan ch) = false) (arg : Mrs) : exec (.hostMrs ch arg) s =
    .next (s.hold (if s.porst then s.pass ch 6 arg.pc 0 0 arg.arg.toNat else (s.pass ch 6 arg.pc 0 0 arg.arg.toNat).modChan ch (fun c => { c with
      mrs := c.mrs.filter (fun x => decide (x.1 ≠ arg.arg.toNat / 256)) ++ [(arg.arg.toNat / 256, arg.arg.toNat % 256)] }))) := by
  change execHostMrs ch arg s = _
  rw [execHostMrs, onPort_open _ _ _ hp, State.hostMrs, if_neg (by rw [ho]; decide)]
  rfl

end

/-- What a read of an open row gives (R222, R299). -/
theorem State.coreRead_open (s : State) {ch pc bank row : Nat} (col sev : Nat) (h : bankRow (s.chan ch).rows pc bank = some row) :
    s.coreRead ch pc bank col sev = { s with out :=
      { ch := ch, ccp := some (17, pc, bank, col, 0), rdata := BitVec.ofNat 256 (leVal (s.dramBytes (columnAddr s.cfg ch pc bank row col) 32)),
        rvalid := true, rsev := if s.beatPoisoned (columnAddr s.cfg ch pc bank row col) then 2 else sev } } := by
  rw [State.coreRead, h]

theorem maskedBytes_length (old : List Byte) (d : BitVec 256) (mask : Word32) : (maskedBytes old d mask).length = old.length := by
  simp [maskedBytes]

theorem maskedBytes_getD (old : List Byte) (d : BitVec 256) (mask : Word32) (i : Nat) (hi : i < old.length) : (maskedBytes old d mask).getD i 0 =
    if mask.toNat.testBit i then BitVec.ofNat 8 (field d.toNat (8 * i) 8) else old.getD i 0 := by
  simp [maskedBytes, bit, List.getD_eq_getElem?_getD, hi]

theorem State.dramBytes_length (s : State) (a n : Nat) : (s.dramBytes a n).length = n := by simp [State.dramBytes]

theorem State.dramBytes_getD (s : State) (a n i : Nat) (hi : i < n) : (s.dramBytes a n).getD i 0 = s.dramByte (a + i) := by
  simp [State.dramBytes, List.getD_eq_getElem?_getD, hi]

/-- A masked write of a column, byte by byte. -/
theorem State.maskedWrite_byte (s : State) (a x : Nat) (d : BitVec 256) (mask : Word32) (h : Memory.wf s.dram) :
    readMem (writeMemList s.dram a (maskedBytes (s.dramBytes a 32) d mask)) x =
      if a ≤ x ∧ x < a + 32 ∧ mask.toNat.testBit (x - a) = true then BitVec.ofNat 8 (field d.toNat (8 * (x - a)) 8) else s.dramByte x := by
  rw [readMem_writeMemList _ _ _ _ h, maskedBytes_length, State.dramBytes_length]
  by_cases hx : a ≤ x ∧ x < a + 32
  · have hlt : x - a < 32 := by omega
    rw [if_pos hx, maskedBytes_getD _ _ _ _ (by rw [State.dramBytes_length]; exact hlt), State.dramBytes_getD _ _ _ _ hlt, Nat.add_sub_cancel' hx.1]
    simp only [hx, true_and]
  · rw [if_neg hx, if_neg fun hh => hx ⟨hh.1, hh.2.1⟩]
    rfl

/-- Memory after a masked write of a column. -/
structure ColumnWritten (s : State) (mem : List Host.Cell) (a : Nat) (data : BitVec 256) (mask : Word32) (pois : Bool) : Prop where
  sorted : Memory.wf mem
  outside : ∀ x, x < a ∨ a + 32 ≤ x → readMem mem x = s.dramByte x
  masked : ∀ i, i < 32 → mask.toNat.testBit i = false → readMem mem (a + i) = s.dramByte (a + i)
  written : ∀ i, i < 32 → mask.toNat.testBit i = true → pois = false → readMem mem (a + i) = BitVec.ofNat 8 (field data.toNat (8 * i) 8)

theorem columnWritten (s : State) (a : Nat) (d data : BitVec 256) (mask : Word32) (pois : Bool) (h : Memory.wf s.dram)
    (hd : pois = false → d = data) :
    ColumnWritten s (writeMemList s.dram a (maskedBytes (s.dramBytes a 32) d mask)) a data mask pois where
  sorted := writeMemList_sorted _ _ _ h
  outside x hx := (s.maskedWrite_byte a x d mask h).trans (if_neg (by omega))
  masked i hi hbit := by
    rw [s.maskedWrite_byte a (a + i) d mask h, Nat.add_sub_cancel_left, hbit, if_neg fun hh => Bool.false_ne_true hh.2.2]
  written i hi hbit hpois := by
    rw [s.maskedWrite_byte a (a + i) d mask h, Nat.add_sub_cancel_left, if_pos ⟨Nat.le_add_right a i, Nat.add_lt_add_left hi a, hbit⟩, hd hpois]

/-- A write to an open row (R299): the bytes that the mask selects. -/
theorem State.coreWrite_open (s : State) {ch pc bank row : Nat} (col : Nat) (data : BitVec 256) (mask : Word32) (pois : Bool)
    (h : bankRow (s.chan ch).rows pc bank = some row) (hwf : Memory.wf s.dram) : ∃ mem n ws,
      s.coreWrite ch pc bank col data mask pois =
        { s with dram := mem, poisonWords := ws, free := n, out := { ch := ch, ccp := some (18, pc, bank, col, 0), wd := some (data, mask, pois) } } ∧
      ColumnWritten s mem (columnAddr s.cfg ch pc bank row col) data mask pois ∧ ∀ w ∈ ws, w ∈ s.poisonWords := by
  have hmem := columnWritten s (columnAddr s.cfg ch pc bank row col) (if pois then freeBeat s.free else data) data mask pois hwf
    fun hpois => if_neg (by rw [hpois]; decide)
  simp only [State.coreWrite, h, State.writeDram]
  exact ⟨_, _, _, rfl, hmem, fun w hw => (List.mem_filter.mp hw).1⟩

/-- Settles O24. -/
theorem bypass : Obligations.Bypass := by
  unfold Obligations.Bypass
  refine ⟨fun s ch pc bank row hp hmode => ?_, fun s ch arg hp hmode => ?_, fun s ch pc bank col row hp hmode hm hrow => ?_⟩
  · have ho := chOwn_of_mem hmode
    exact ⟨exec_hostAct_passed hp ho row, exec_hostPre_passed hp ho, exec_hostPrea_passed hp ho, exec_hostRefresh_passed hp ho false,
      exec_hostRefresh_passed hp ho true, exec_hostOtherRowCmd_passed hp ho⟩
  · have hexec := exec_hostMrs_mem hp (chOwn_of_mem hmode) arg
    refine ⟨fun h => ?_, fun h => ?_⟩
    · rw [hexec, if_neg (by rw [h]; decide)]
      rfl
    · rw [hexec, if_pos h]
      rfl
  · intro a
    refine ⟨fun sev => ?_, fun data mask pois hwf => ?_⟩
    · rw [exec_hostRead_core hp (chOwn_of_mem hmode) hm, State.coreRead_open s col sev.toNat hrow]
      rfl
    · obtain ⟨mem, n, ws, hwrite, hmem, hws⟩ := s.coreWrite_open col data mask pois hrow hwf
      have hexec := exec_hostWrite_core hp (chOwn_of_mem hmode) hm col data mask pois
      rw [hwrite] at hexec
      exact ⟨_, hexec, rfl, hmem.sorted, hmem.outside, hmem.masked, hmem.written, hws, rfl⟩

/-! ### Claims -/

/-- A claimed read gives aperture data with severity 0 and stays from the core side (R301). -/
theorem State.claimedRead_out (s : State) (ch pc bank row col : Nat) : ∃ d n, s.claimedRead ch pc bank row col =
    { s with out := { ch := ch, rdata := d, rvalid := true }, free := n } ∧
    ∀ v, s.apertureRead (columnAddr s.cfg ch pc bank row col - s.form.hdr.aptBase) = some v → d = BitVec.ofNat 256 v := by
  rw [State.claimedRead]
  cases s.apertureRead (columnAddr s.cfg ch pc bank row col - s.form.hdr.aptBase) with
  | some v => exact ⟨_, s.free, rfl, fun w hw => congrArg _ (Option.some.inj hw)⟩
  | none => exact ⟨_, _, rfl, fun v hv => by cases hv⟩

theorem exec_hostRead_claimed {s : State} {ch : Fin 32} {pc : Fin 2} {bank : Fin 32} (hp : Ported s ch) {row : Nat}
    (hrow : bankRow (s.chan ch).marks pc bank = some row) (col : Fin 32) (sev : BitVec 2) :
    exec (.hostRead ch pc bank col sev) s = .next (s.hold (s.claimedRead ch pc bank row col)) := by
  change execHostRead ch pc bank col sev s = _
  rw [execHostRead, onPort_open _ _ _ hp]
  dsimp only
  rw [hrow]

/-- Settles O25. -/
theorem apertureClaims : Obligations.ApertureClaims := by
  unfold Obligations.ApertureClaims
  intro s ch pc bank hp
  refine ⟨fun row hl hf h0 h1 hbase hsize => ?_, fun row col sev hrow => ?_, fun hm => ?_⟩
  · have hclaims : s.claims ch pc bank row.toNat = true := by
      simp only [State.claims, inAperture, Bool.and_eq_true, decide_eq_true_eq]
      exact ⟨⟨⟨⟨hl, hf⟩, hbase, hsize⟩, h0⟩, h1⟩
    change execHostAct ch pc bank row s = _
    rw [execHostAct, onPort_open _ _ _ hp, if_pos hclaims]
    rfl
  · obtain ⟨d, n, hread, hd⟩ := s.claimedRead_out ch pc bank row col
    have hexec := exec_hostRead_claimed hp hrow col sev
    rw [hread] at hexec
    exact ⟨_, hexec, rfl, rfl, rfl, hd, rfl⟩
  · change execHostPre ch pc bank s = _
    rw [execHostPre, onPort_open _ _ _ hp]
    exact congrArg (fun u => Host.Outcome.next (s.hold u)) (if_pos hm)

end Sys2Proof.Machine
end

section
/-! Proof of O26: claimed writes of the aperture. -/

namespace Sys2Proof.Machine

open Sys2Proof.Bits

/-! ### Pages of a window -/

theorem Page.find_put (p : Page) (g : Nat) (d : BitVec 256) : (p.put g d).find g = some d := by
  have hnone : (p.gran.filter (fun e => decide (e.1 ≠ g))).find? (fun e => decide (e.1 = g)) = none := by
    rw [List.find?_eq_none]
    intro e he
    simpa using of_decide_eq_true (List.mem_filter.mp he).2
  rw [Page.find, Page.put, List.find?_append, hnone]
  simp

/-- A change of every page that keeps the running counts. -/
theorem Win.page_map (w : Win) (n : Nat) (f : Page → Page) (hf : ∀ p, (f p).num = p.num) :
    ({ w with pages := w.pages.map f } : Win).page n = (w.page n).map f := by
  rw [Win.page, Win.page, List.find?_map]
  refine congrArg (Option.map f) (congrArg (w.pages.find? ·) (funext fun p => ?_))
  rw [Function.comp, hf]

theorem Win.num_of_page {w : Win} {n : Nat} {p : Page} (h : w.page n = some p) : p.num = n := by simpa using List.find?_some h

/-- The granule that a write leaves in its page (R130). -/
theorem Win.write_find (w : Win) (n g : Nat) (d : BitVec 256) : ((w.write n g d).page n).bind (fun p => p.find g) = some d := by
  rw [Win.write]
  cases h : w.page n with
  | some p =>
    rw [Win.page_map w n _ fun p => by split <;> rfl, h, Option.map_some, if_pos (Win.num_of_page h)]
    exact p.find_put g d
  | none =>
    have hnone : w.pages.find? (fun p => decide (p.num = n)) = none := h
    rw [Win.page, List.find?_append, hnone]
    simp [Page.find]

/-- The time that a write notes changes no granule. -/
theorem Win.noteTime_find (w : Win) (n t g : Nat) : ((w.noteTime n t).page n).bind (fun p => p.find g) = (w.page n).bind (fun p => p.find g) := by
  rw [Win.noteTime, Win.page_map w n _ fun p => by split <;> rfl]
  cases w.page n with
  | none => rfl
  | some p =>
    rw [Option.map_some, Option.bind_some, Option.bind_some]
    split <;> rfl

/-! ### Landing -/

theorem State.creditViolation_dram (s : State) (w off : Nat) : (s.creditViolation w off).dram = s.dram := by
  obtain ⟨l, m, b, h⟩ := (s.count 2 w iCredit 1).error_writes
    { code := 0x0108, cls := .c, unit := 0x0005, index := w, shard := 0xFFFFFFFF, arg0 := off }
  rw [State.creditViolation, State.intakeError, h]
  rfl

/-- Bytes of an envelope are booked in the envelopes alone. -/
theorem State.bookAt_writes (s : State) (shard step bytes t : Nat) : ∃ v, s.bookAt shard step bytes t = { s with envs := v } := by
  unfold State.bookAt
  split
  · exact ⟨s.envs, rfl⟩
  · split
    · exact ⟨s.envs, rfl⟩
    · split
      · exact ⟨_, rfl⟩
      · split
        · exact ⟨_, rfl⟩
        · exact ⟨s.envs, rfl⟩

/-- The state in which a landing write has been booked. -/
def State.landBooked (s : State) (w : Nat) (e : WinEntry) (off : Nat) : State :=
  match (s.win w).holder ((s.win w).runningPage e.issued (off / 65536)) with
  | some l => if l.hdr.crcOk && decide (e.kind = 0) then s.bookArrival l.hdr.shard l.hdr.step 32 else s
  | none => s

theorem State.landBooked_writes (s : State) (w : Nat) (e : WinEntry) (off : Nat) : ∃ v, s.landBooked w e off = { s with envs := v } := by
  unfold State.landBooked
  split
  · split
    · exact s.bookAt_writes _ _ _ _
    · exact ⟨s.envs, rfl⟩
  · exact ⟨s.envs, rfl⟩

/-- A landing write that its page takes (R130). -/
theorem State.landWrite_taken (s : State) (w : Nat) (e : WinEntry) (aptOff off : Nat) (d : BitVec 256) (hf : (s.win w).fenced = false)
    (ht : (s.win w).takes ((s.win w).runningPage e.issued (off / 65536)) = true) :
    s.landWrite w e aptOff off d true = (s.landBooked w e off).modWin w (fun y =>
      if ((s.win w).holder ((s.win w).runningPage e.issued (off / 65536))).isNone then
        (y.write ((s.win w).runningPage e.issued (off / 65536)) (off % 65536 / 32) d).noteTime
          ((s.win w).runningPage e.issued (off / 65536)) (s.landBooked w e off).time
      else y.write ((s.win w).runningPage e.issued (off / 65536)) (off % 65536 / 32) d) := by
  have h1 : ¬ ((s.win w).fenced || !true) = true := by simp [hf]
  have h2 : ¬ (!(s.win w).takes ((s.win w).runningPage e.issued (off / 65536))) = true := by simp [ht]
  rw [State.landWrite, if_neg h1]
  exact if_neg h2

theorem State.landWrite_dram (s : State) (w : Nat) (e : WinEntry) (aptOff off : Nat) (d : BitVec 256) (full : Bool) :
    (s.landWrite w e aptOff off d full).dram = s.dram := by
  rw [State.landWrite]
  dsimp only
  split
  · exact s.creditViolation_dram w aptOff
  · split
    · exact s.creditViolation_dram w aptOff
    · obtain ⟨v, hv⟩ := s.landBooked_writes w e off
      have hdram : (s.landBooked w e off).dram = s.dram := by rw [hv]
      exact hdram

theorem State.win_modWin_self (s : State) (w : Nat) (f : Win → Win) (hw : w < s.wins.length) : (s.modWin w f).win w = f (s.win w) := by
  simp [State.win, State.modWin, modAt, List.getD_eq_getElem?_getD, hw]

/-- What a landing write leaves in its page. -/
theorem State.landWrite_find (s : State) (w : Nat) (e : WinEntry) (aptOff off : Nat) (d : BitVec 256) (hf : (s.win w).fenced = false)
    (hw : w < s.wins.length) (ht : (s.win w).takes ((s.win w).runningPage e.issued (off / 65536)) = true) :
    (((s.landWrite w e aptOff off d true).win w).page ((s.win w).runningPage e.issued (off / 65536))).bind
      (fun p => p.find (off % 65536 / 32)) = some d := by
  obtain ⟨v, hv⟩ := s.landBooked_writes w e off
  have hlen : w < (s.landBooked w e off).wins.length := by rw [hv]; exact hw
  have hwin : (s.landBooked w e off).win w = s.win w := by rw [hv]; rfl
  rw [s.landWrite_taken w e aptOff off d hf ht, State.win_modWin_self _ _ _ hlen, hwin]
  split
  · rw [Win.noteTime_find]
    exact Win.write_find _ _ _ _
  · exact Win.write_find _ _ _ _

/-! ### Claimed writes -/

section
variable {s : State} {ch : Fin 32} {pc : Fin 2} {bank : Fin 32} (hp : Ported s ch) {row : Nat}
  (hrow : bankRow (s.chan ch).marks pc bank = some row) (col : Fin 32) (data : BitVec 256) (mask : Word32) (pois : Bool)
include hp hrow

/-- A claimed write goes to the aperture (R301). -/
theorem exec_hostWrite_claimed : exec (.hostWrite ch pc bank col data mask pois) s = .next (s.hold
    ((s.suppress ch).apertureWrite State.relay (columnAddr s.cfg ch pc bank row col - s.form.hdr.aptBase) (if pois then 0 else data)
      (decide (mask = BitVec.allOnes 32)))) := by
  change execHostWrite ch pc bank col data mask pois s = _
  rw [execHostWrite, onPort_open _ _ _ hp]
  unfold State.hostWrite
  dsimp only
  rw [hrow]
  rfl

end

section
variable {relay : State → Packet → State} {s : State} {off : Nat} {d : BitVec 256} {full : Bool} {e : WinEntry} {w : Nat}

theorem State.apertureWrite_status (h : off < 2 ^ 20) : s.apertureWrite relay off d full = s.apertureDrop off := by
  rw [State.apertureWrite, if_pos h]

theorem State.apertureWrite_outside (h : windowsAt s.form off = []) : s.apertureWrite relay off d full = s.apertureDrop off := by
  rw [State.apertureWrite]
  split
  · rfl
  · rw [h]

theorem State.apertureWrite_window (h : 2 ^ 20 ≤ off) (hw : windowsAt s.form off = [(e, w)]) :
    s.apertureWrite relay off d full = s.windowWrite relay w e off d full := by
  rw [State.apertureWrite, if_neg (Nat.not_lt.mpr h), hw]

theorem State.windowWrite_egress (hk : e.kind = 2) :
    s.windowWrite relay w e off d full = if (s.win w).fenced then s.creditViolation w off else s.apertureDrop off := by
  rw [State.windowWrite, if_pos hk]

theorem State.windowWrite_grad (hk : e.kind = 0) :
    s.windowWrite relay w e off d full = (s.landWrite w e off (off - e.base) d full).gradProgress e w (2 * e.issued + 2) := by
  rw [State.windowWrite, if_neg (by rw [hk]; decide)]
  exact if_pos hk

end

theorem State.hold_apertureDrop (s : State) (ch off : Nat) : s.hold ((s.suppress ch).apertureDrop off) = (s.suppress ch).apertureDrop off := by
  obtain ⟨l, m, b, h⟩ := ((s.suppress ch).count 6 0 5 1).error_writes { code := 0x010A, cls := .c, unit := 0x000F, arg0 := off }
  rw [State.apertureDrop, h]
  rfl

/-- Settles O26. -/
theorem apertureWrites : Obligations.ApertureWrites := by
  unfold Obligations.ApertureWrites
  refine ⟨fun s ch pc bank col row data mask pois hp hrow => ?_, fun s ch pc bank col row data mask pois e w hp hrow => ?_⟩
  · intro off dropped
    have hexec := exec_hostWrite_claimed hp hrow col data mask pois
    refine ⟨fun h => ?_, fun e w hoff hw hk hf => ?_⟩
    · have hdrop : (s.suppress ch).apertureWrite State.relay off (if pois then 0 else data) (decide (mask = BitVec.allOnes 32)) =
          (s.suppress ch).apertureDrop off := by
        rcases h with h | h | ⟨e, w, hw, hk, hf⟩
        · exact State.apertureWrite_status h
        · exact State.apertureWrite_outside (s := s.suppress ch) h
        · by_cases hoff : off < 2 ^ 20
          · exact State.apertureWrite_status hoff
          · rw [State.apertureWrite_window (s := s.suppress ch) (Nat.not_lt.mp hoff) hw, State.windowWrite_egress hk]
            exact if_neg (Bool.eq_false_iff.mp hf)
      rw [hexec, hdrop, State.hold_apertureDrop]
      rfl
    · have hviolation : (s.suppress ch).apertureWrite State.relay off (if pois then 0 else data) (decide (mask = BitVec.allOnes 32)) =
          (s.suppress ch).creditViolation w off := by
        rw [State.apertureWrite_window (s := s.suppress ch) hoff hw, State.windowWrite_egress hk]
        exact if_pos hf
      rw [hexec, hviolation]
      rfl
  · intro off beat fuel landed hoff hw hk
    refine ⟨?_, State.landWrite_dram _ _ _ _ _ _ _, fun hmask hf hlt => ?_⟩
    · have hland : (s.suppress ch).apertureWrite State.relay off beat (decide (mask = BitVec.allOnes 32)) = landed.gradProgress e w fuel := by
        rw [State.apertureWrite_window (s := s.suppress ch) hoff hw, State.windowWrite_grad hk]
        rfl
      rw [exec_hostWrite_claimed hp hrow col data mask pois]
      exact congrArg (fun u => Host.Outcome.next (s.hold u)) hland
    · intro n ht
      have hfind := (s.suppress ch).landWrite_find w e off (off - e.base) beat hf hlt ht
      have hfull : decide (mask = BitVec.allOnes 32) = true := decide_eq_true hmask
      rw [← hfull] at hfind
      exact hfind

end Sys2Proof.Machine
end

section
/-! Proof of O1, O2, O5 and O29: a step, a tick, the reset state, and the writes of SMP registers (R10, R11, R306). -/

namespace Sys2Proof.Machine

open Sys2Proof.Bits

/-- Settles O1. -/
theorem stepRunsFrontCommand : Obligations.StepRunsFrontCommand := by
  unfold Obligations.StepRunsFrontCommand
  exact fun _ _ _ => rfl

theorem step_of_empty {s : State} (h : s.pending = []) : step s = .next (idle s) := by rw [step, h]

/-- Settles O2. -/
theorem emptyQueueIsATick : Obligations.EmptyQueueIsATick := by
  unfold Obligations.EmptyQueueIsATick
  intro s h
  rw [step_of_empty h, idle]
  exact ⟨fun hp => congrArg Host.Outcome.next (if_neg (Bool.eq_false_iff.mp hp)), fun hp => congrArg Host.Outcome.next (if_pos hp)⟩

/-- Settles O5. -/
theorem resetState : Obligations.ResetState := by
  unfold Obligations.ResetState
  exact ⟨fun _ => by decide +kernel, rfl, rfl, by decide +kernel, rfl, rfl, by decide +kernel, reset_memory, by decide +kernel,
    by decide +kernel, by decide +kernel⟩

/-! ### Fields of a number of which one is replaced -/

/-- The number with the field of n bits at bit k replaced. -/
def replaced (v k n w : Nat) : Nat := v - field v k n * 2 ^ k + w * 2 ^ k

theorem field_eq_mod_div (x k n : Nat) : field x k n = x % 2 ^ (k + n) / 2 ^ k := by
  rw [field, Nat.shiftRight_eq_div_pow, Nat.pow_add, Nat.mod_mul_right_div_self]

/-- A field below bit k is one of the low k bits. -/
theorem field_congr_mod {x y a n k : Nat} (h : a + n ≤ k) (hxy : x % 2 ^ k = y % 2 ^ k) : field x a n = field y a n := by
  have hd : 2 ^ (a + n) ∣ 2 ^ k := Nat.pow_dvd_pow 2 h
  rw [field_eq_mod_div, field_eq_mod_div, ← Nat.mod_mod_of_dvd x hd, ← Nat.mod_mod_of_dvd y hd, hxy]

/-- A field from bit k on is one of what stands above. -/
theorem field_congr_div {x y a n k : Nat} (h : k ≤ a) (hxy : x / 2 ^ k = y / 2 ^ k) : field x a n = field y a n := by
  obtain ⟨d, rfl⟩ := Nat.exists_eq_add_of_le h
  simp only [field, Nat.shiftRight_eq_div_pow, Nat.pow_add, ← Nat.div_div_eq_div_mul, hxy]

/-- A number is its low bits, a field, and what stands above. -/
theorem eq_parts (v k n : Nat) : v = v % 2 ^ k + field v k n * 2 ^ k + v / 2 ^ (k + n) * 2 ^ (k + n) := by
  have h1 := Nat.mod_add_div v (2 ^ k)
  have h2 := Nat.mod_add_div (v / 2 ^ k) (2 ^ n)
  rw [Nat.div_div_eq_div_mul, ← Nat.pow_add] at h2
  rw [field, Nat.shiftRight_eq_div_pow]
  calc v = v % 2 ^ k + 2 ^ k * (v / 2 ^ k) := h1.symm
    _ = v % 2 ^ k + 2 ^ k * (v / 2 ^ k % 2 ^ n + 2 ^ n * (v / 2 ^ (k + n))) := by rw [h2]
    _ = _ := by rw [Nat.pow_add]; ring

theorem replaced_eq (v k n w : Nat) : replaced v k n w = v % 2 ^ k + (w + v / 2 ^ (k + n) * 2 ^ n) * 2 ^ k := by
  have h := eq_parts v k n
  have hw : (w + v / 2 ^ (k + n) * 2 ^ n) * 2 ^ k = w * 2 ^ k + v / 2 ^ (k + n) * 2 ^ (k + n) := by rw [Nat.pow_add]; ring
  rw [replaced, hw]
  generalize v / 2 ^ (k + n) * 2 ^ (k + n) = hi at h ⊢
  generalize field v k n * 2 ^ k = mid at h ⊢
  generalize v % 2 ^ k = lo at h ⊢
  omega

theorem replaced_mod (v k n w : Nat) : replaced v k n w % 2 ^ k = v % 2 ^ k := by
  rw [replaced_eq, Nat.add_mul_mod_self_right, Nat.mod_mod]

theorem replaced_shift (v k n w : Nat) : replaced v k n w / 2 ^ k = w + v / 2 ^ (k + n) * 2 ^ n := by
  rw [replaced_eq, Nat.add_mul_div_right _ _ (Nat.two_pow_pos k), Nat.div_eq_of_lt (Nat.mod_lt _ (Nat.two_pow_pos k)), Nat.zero_add]

theorem field_replaced_same {v k n w : Nat} (h : w < 2 ^ n) : field (replaced v k n w) k n = w := by
  rw [field, Nat.shiftRight_eq_div_pow, replaced_shift, Nat.add_mul_mod_self_right, Nat.mod_eq_of_lt h]

theorem replaced_div {v k n w : Nat} (h : w < 2 ^ n) : replaced v k n w / 2 ^ (k + n) = v / 2 ^ (k + n) := by
  rw [Nat.pow_add, ← Nat.div_div_eq_div_mul, replaced_shift, Nat.add_mul_div_right _ _ (Nat.two_pow_pos n), Nat.div_eq_of_lt h, Nat.zero_add,
    Nat.pow_add]

theorem field_replaced_other {v k n w a m : Nat} (hw : w < 2 ^ n) (h : a + m ≤ k ∨ k + n ≤ a) :
    field (replaced v k n w) a m = field v a m := by
  rcases h with h | h
  · exact field_congr_mod h (replaced_mod v k n w)
  · exact field_congr_div h (replaced_div hw)

theorem replaced_lt {v k n w b : Nat} (hw : w < 2 ^ n) (hb : k + n ≤ b) (hv : v < 2 ^ b) : replaced v k n w < 2 ^ b := by
  obtain ⟨d, rfl⟩ := Nat.exists_eq_add_of_le hb
  rw [Nat.pow_add, mul_comm] at hv ⊢
  rw [← Nat.div_lt_iff_lt_mul (Nat.two_pow_pos _)] at hv ⊢
  rwa [replaced_div hw]

/-! ### The rows of a register write -/

section
variable {s : State} {addr : BitVec 16} {r : SmpReg} (w : Word32) (hs : Awake s)
include hs

theorem exec_registerWrite_none (h : smpReg addr.toNat = none) : exec (.registerWrite addr w) s = .next (s.answer 0 true) := by
  change act s (fun s => when s.smpOpen _ s) = _
  rw [act_when_smpOpen hs, h]
  rfl

theorem exec_registerWrite_some (h : smpReg addr.toNat = some r) : exec (.registerWrite addr w) s = .next (s.hold (s.writeReg r w.toNat)) := by
  change act s (fun s => when s.smpOpen _ s) = _
  rw [act_when_smpOpen hs, h]

end

theorem smpReg_mbxReq (m : Fin 4) (i : Fin 16) : smpReg (0x1000 + 0x100 * m.toNat + 4 * i.toNat) = some (.mbxReq m i) := by
  decide +revert

theorem smpReg_mbxStat (m : Fin 4) : smpReg (0x1084 + 0x100 * m.toNat) = some (.mbxStat m) := by decide +revert

/-- The request with word i replaced. -/
def reqWith (v : BitVec 512) (i : Nat) (w : Word32) : BitVec 512 := BitVec.ofNat 512 (replaced v.toNat (32 * i) 32 (w.toNat % 2 ^ 32))

theorem State.writeReq_eq (s : State) (m i : Nat) (w : Word32) :
    s.writeReq m i w.toNat = (s.modMbx m (fun b => { b with req := reqWith (s.mbx m).req i w })).answer 0 false := rfl

theorem reqWith_toNat (v : BitVec 512) (i : Fin 16) (w : Word32) : (reqWith v i w).toNat = replaced v.toNat (32 * i) 32 w.toNat := by
  have hw : w.toNat < 2 ^ 32 := w.isLt
  rw [reqWith, BitVec.toNat_ofNat, Nat.mod_eq_of_lt hw, Nat.mod_eq_of_lt (replaced_lt hw (by omega) v.isLt)]

/-- Settles O29. -/
theorem registerWrites : Obligations.RegisterWrites := by
  unfold Obligations.RegisterWrites
  intro s addr w hs
  refine ⟨exec_registerWrite_none w hs, fun r hr hro => ?_, fun m i ha => ?_, fun m ha => ?_, fun ha => ?_⟩
  · rw [exec_registerWrite_some w hs hr]
    simp only [List.mem_cons, List.not_mem_nil, or_false] at hro
    rcases hro with rfl | rfl | rfl | rfl | rfl | rfl <;> rfl
  · refine ⟨(s.modMbx m (fun b => { b with req := reqWith (s.mbx m).req i w })).answer 0 false, ?_, ?_, fun j hj => ?_, rfl, rfl, ?_,
      fun k hk => ?_, rfl⟩
    · rw [exec_registerWrite_some w hs (ha ▸ smpReg_mbxReq m i)]
      exact congrArg Host.Outcome.next (hold_modMbx_answer s m _ 0 false)
    · rw [mbx_answer, mbx_modMbx, reqWith_toNat]
      exact field_replaced_same w.isLt
    · have hne : (i : Nat) ≠ j := fun h => hj (Fin.ext h.symm)
      rw [mbx_answer, mbx_modMbx, reqWith_toNat]
      exact field_replaced_other w.isLt (by change 32 * (j : Nat) + 32 ≤ 32 * i ∨ 32 * (i : Nat) + 32 ≤ 32 * j; omega)
    · rw [mbx_answer, mbx_modMbx]
    · exact mbx_modMbx_ne s m k _ (fun h => hk (Fin.ext h.symm))
  · rw [exec_registerWrite_some w hs (ha ▸ smpReg_mbxStat m)]
    rfl
  · rw [exec_registerWrite_some w hs (r := .status) (by rw [ha]; rfl)]
    rfl

end Sys2Proof.Machine
end

section
/-! Proof of O31: the staging registers, the pointers of requests, and SM_EGR_ACK (R332, R246, R331). -/

namespace Sys2Proof.Machine

open Sys2Proof.Bits

theorem State.writeStage_admitted {s : State} (h : s.formula.isSome = true) (mib : Bool) (w : Nat) :
    s.writeStage mib w = s.answer 0 true := by rw [State.writeStage, if_pos h]

theorem State.writeStage_base {s : State} (h : s.formula = none) (w : Nat) : s.writeStage false w =
    (s.modSmp (fun m => { m with stageBase := BitVec.ofNat 20 w })).answer 0 (reservedBits .stageBase w) := by
  rw [State.writeStage, if_neg (by rw [h]; decide), if_neg Bool.false_ne_true]

theorem State.writeStage_mib {s : State} (h : s.formula = none) (w : Nat) : s.writeStage true w =
    (s.modSmp (fun m => { m with stageMib := BitVec.ofNat 21 w })).answer 0 (reservedBits .stageMib w) := by
  rw [State.writeStage, if_neg (by rw [h]; decide), if_pos rfl]

theorem exec_smStageWrite {s : State} (mib : Bool) (w : Word32) (h : Awake s) :
    exec (.smStageWrite mib w) s = .next (s.hold (s.writeStage mib w.toNat)) := act_when_smpOpen h _

theorem exec_smEgrAck {s : State} (v : Word32) (h : Awake s) : exec (.smEgrAck v) s = .next (s.hold (s.writeEgrAck v.toNat)) :=
  act_when_smpOpen h _

theorem State.pointerOk_iff (s : State) (p n : Nat) : s.pointerOk p n = true ↔ p % 64 = 0 ∧ s.stageStart ≤ p ∧
    p + n ≤ s.stageStart + s.stageLen ∧ p + n ≤ s.capacity := by
  simp [State.pointerOk, and_assoc]

/-! ### The acknowledge of an EGRESS window -/

theorem State.emissionCheck_none {s : State} (h : s.emission = none) : s.emissionCheck = s := by rw [State.emissionCheck, h]

theorem State.egressFree_none {s : State} (h : s.fabric.egrHeld = []) : s.egressFree = s := by
  have hsame : s.modFabric (fun f => { f with egrHeld := [] }) = s := by
    change { s with fabric := { s.fabric with egrHeld := [] } } = s
    rw [← h]
  rw [State.egressFree, h]
  exact ite_eq_left_iff.mpr (fun _ => hsame)

section
variable {s : State} {v : Nat}

/-- How far an acknowledge goes past what is consumed, modulo 2^24. -/
def Win.ahead (x : Win) (v : Nat) : Nat := (field v 0 24 + 2 ^ 24 - x.consumed % 2 ^ 24) % 2 ^ 24

/-- How far what is published goes past what is consumed, modulo 2^24. -/
def Win.lead (x : Win) : Nat := (x.returned % 2 ^ 24 + 2 ^ 24 - x.consumed % 2 ^ 24) % 2 ^ 24

theorem State.writeEgrAck_unpowered (h : s.present 1 = false) : s.writeEgrAck v = s.answer 0 true := by
  rw [State.writeEgrAck]
  exact if_pos (by rw [h]; rfl)

theorem State.writeEgrAck_taken (hp : s.present 1 = true) (ho : s.egressOpen (field v 24 8) = true)
    (hl : (s.win (field v 24 8)).ahead v ≤ (s.win (field v 24 8)).lead) : s.writeEgrAck v =
      ((s.modWin (field v 24 8) (fun x => { x with consumed := x.consumed + (s.win (field v 24 8)).ahead v })).emissionCheck.egressFree).answer 0 false := by
  have hboth : (s.egressOpen (field v 24 8) && decide ((s.win (field v 24 8)).ahead v ≤ (s.win (field v 24 8)).lead)) = true := by
    rw [ho, decide_eq_true hl]
    rfl
  rw [State.writeEgrAck]
  exact (if_neg (by rw [hp]; decide)).trans (if_pos hboth)

theorem State.writeEgrAck_refused (hp : s.present 1 = true)
    (hl : s.egressOpen (field v 24 8) = false ∨ (s.win (field v 24 8)).lead < (s.win (field v 24 8)).ahead v) :
    s.writeEgrAck v = (s.count 6 0 2 1).answer 0 true := by
  have hnot : ¬ (s.egressOpen (field v 24 8) && decide ((s.win (field v 24 8)).ahead v ≤ (s.win (field v 24 8)).lead)) = true := by
    rw [Bool.and_eq_true, decide_eq_true_iff]
    rintro ⟨ho, hle⟩
    rcases hl with h | h
    · rw [h] at ho
      cases ho
    · omega
  rw [State.writeEgrAck]
  exact (if_neg (by rw [hp]; decide)).trans (if_neg hnot)

end

/-- Settles O31. -/
theorem stagingAndEgress : Obligations.StagingAndEgress := by
  unfold Obligations.StagingAndEgress
  refine ⟨fun s w h => ⟨fun hf => ?_, fun hf => ?_, fun hf mib => ?_, State.pointerOk_iff s⟩,
    fun s v h => ⟨fun hp ho hl hem heg => ?_, fun hp ho hl => ?_, fun hp hl => ?_, fun hp => ?_⟩⟩
  · rw [exec_smStageWrite false w h, State.writeStage_base hf]
    rfl
  · rw [exec_smStageWrite true w h, State.writeStage_mib hf]
    rfl
  · rw [exec_smStageWrite mib w h, State.writeStage_admitted hf]
    rfl
  · rw [exec_smEgrAck v h, State.writeEgrAck_taken hp ho hl, State.emissionCheck_none (by exact hem), State.egressFree_none (by exact heg)]
    rfl
  · rw [exec_smEgrAck v h, State.writeEgrAck_taken hp ho hl]
    rfl
  · rw [exec_smEgrAck v h, State.writeEgrAck_refused hp hl]
    rfl
  · rw [exec_smEgrAck v h, State.writeEgrAck_unpowered hp]
    rfl

end Sys2Proof.Machine
end

section
/-! Proof of O32: a write of SM_LEVEL.REQ (R322, R329, Table 12-4). First what an error record leaves of the management port, and what requests
for the power of several domains do. -/

namespace Sys2Proof.Machine

open Sys2Proof.Bits

/-! ### Events -/

/-- An event enters the queue or is counted as dropped. -/
theorem State.post_writes (s : State) (code cat cls a0 a1 a2 : Nat) : ∃ ev dr,
    s.post code cat cls a0 a1 a2 = { s with smp := { s.smp with events := ev, dropped := dr } } := by
  rw [State.post, Smp.post]
  split
  · exact ⟨_, s.smp.dropped, rfl⟩
  · exact ⟨s.smp.events, _, rfl⟩

/-- Of the management port an error record writes the event queue alone (R379). -/
theorem State.error_posts (s : State) (e : ErrSpec) : ∃ l ev dr b,
    s.error e = { s with log := l, smp := { s.smp with events := ev, dropped := dr }, blotter := b } := by
  simp only [State.error]
  split_ifs
  · exact ⟨_, _, _, s.blotter, rfl⟩
  all_goals
    generalize (s.log.put e s.time 0).append _ = l
    obtain ⟨ev, dr, hp⟩ := State.post_writes { s with log := l } 0x0501 3 e.cls.code e.code (e.unit % 2 ^ 16 + 2 ^ 16 * e.index) s.log.rnum
    rw [hp]
  · obtain ⟨b, hb⟩ := State.blot_writes _ _
    exact ⟨_, _, _, b, hb⟩
  · exact ⟨_, _, _, s.blotter, rfl⟩

/-! ### Requests for power -/

theorem Dom.request_request (d : Dom) (t : Nat) : (d.request t).request t = d.request t := by
  unfold Dom.request
  split
  · exact if_neg (by simp)
  · rfl

/-- Each domain of a list is requested, and no other. -/
theorem dom_eachIn_requestDom (l : List Nat) (s : State) (i : Nat) (hl : ∀ j ∈ l, j < 13) :
    (eachIn l (fun s j => s.requestDom j) s).dom i = if i ∈ l then (s.dom i).request s.time else s.dom i := by
  induction l generalizing s with
  | nil => rfl
  | cons j l ih =>
    obtain ⟨hj, hl⟩ := List.forall_mem_cons.mp hl
    rw [eachIn_cons, ih (s.requestDom j) hl, show (s.requestDom j).time = s.time from rfl]
    by_cases hij : i = j
    · subst hij
      rw [dom_requestDom_self s hj, Dom.request_request, ite_self, if_pos List.mem_cons_self]
    · rw [dom_requestDom_ne s (Ne.symm hij)]
      simp [hij]

theorem eachIn_requestDom_writes (l : List Nat) (s : State) : ∃ d, eachIn l (fun s j => s.requestDom j) s = { s with doms := d } :=
  eachIn_related (R := fun s t => ∃ d, t = { s with doms := d }) (fun s => ⟨s.doms, rfl⟩)
    (by rintro s t u ⟨d, rfl⟩ ⟨d', rfl⟩; exact ⟨d', rfl⟩) _ (fun s j => ⟨_, rfl⟩) l s

theorem lt_of_mem_healthyStills {c : Cfg} {t : Stills} {i : Nat} (h : i ∈ healthyStills c t) : i < 9 := by
  have hlt := List.mem_range.mp (List.mem_filter.mp h).1
  cases c
  · exact hlt
  · exact Nat.lt_trans hlt (by decide)

theorem State.lt_of_mem_levelDomains {s : State} {lvl i : Nat} (h : i ∈ s.levelDomains lvl) : i < 13 := by
  have hstill : ∀ {l : List Nat}, (∀ j ∈ l, j < 9) → i ∈ l.map (fun j => 4 + j) → i < 13 := by
    intro l hl hi
    obtain ⟨j, hj, rfl⟩ := List.mem_map.mp hi
    have := hl j hj
    omega
  simp only [State.levelDomains, List.mem_append] at h
  rcases h with (h | h) | h
  · split at h
    · rw [List.mem_singleton.mp h]; decide
    · cases h
  · split at h
    · rcases List.mem_cons.mp h with rfl | h
      · decide
      · exact hstill (fun j hj => lt_of_mem_healthyStills (List.mem_of_mem_filter hj)) h
    · cases h
  · split at h
    · rcases List.mem_cons.mp h with rfl | h
      · decide
      · rcases List.mem_cons.mp h with rfl | h
        · decide
        · exact hstill (fun j hj => lt_of_mem_healthyStills hj) h
    · cases h

/-- The domains of a level that are not fenced are requested, and nothing else changes. -/
theorem State.requestLevel_doms (s : State) (lvl : Nat) :
    (∀ i ∈ s.levelDomains lvl, s.domainFenced i = false → (s.requestLevel lvl).dom i = (s.dom i).request s.time) ∧
      (∀ i, i ∉ s.levelDomains lvl ∨ s.domainFenced i = true → (s.requestLevel lvl).dom i = s.dom i) := by
  have hlt : ∀ i ∈ (s.levelDomains lvl).filter (fun i => !s.domainFenced i), i < 13 := fun i hi =>
    s.lt_of_mem_levelDomains (List.mem_of_mem_filter hi)
  refine ⟨fun i hi hf => ?_, fun i hi => ?_⟩
  · rw [State.requestLevel, dom_eachIn_requestDom _ s i hlt, if_pos (List.mem_filter.mpr ⟨hi, by rw [hf]; rfl⟩)]
  · rw [State.requestLevel, dom_eachIn_requestDom _ s i hlt, if_neg]
    rintro hmem
    obtain ⟨hin, hfree⟩ := List.mem_filter.mp hmem
    rcases hi with hi | hi
    · exact hi hin
    · rw [hi] at hfree
      cases hfree

theorem State.requestLevel_writes (s : State) (lvl : Nat) : ∃ d, s.requestLevel lvl = { s with doms := d } := eachIn_requestDom_writes _ s

/-! ### The cases of a write -/

/-- The request of a level, written and answered. -/
def State.levelAsked (s : State) (w : Nat) : State :=
  (s.modSmp (fun m => { m with req := field w 4 2, pendingLevel := decide (field w 4 2 ≠ m.level) })).answer 0 (reservedBits .level w)

section
variable {s : State} {w : Nat}

theorem State.writeLevel_disabled (h : s.smp.fuseDisabled = true) (hr : 0 < field w 4 2) :
    s.writeLevel w = (s.answer 0 (reservedBits .level w)).failRaise 2 := by
  rw [State.writeLevel]
  exact if_pos ⟨h, hr⟩

theorem State.writeLevel_enabled (h : s.smp.fuseDisabled = false) : s.writeLevel w =
    if s.fall then s.levelAsked w
    else if s.smp.level < field w 4 2 then (s.levelAsked w).startRaise
    else (s.levelAsked w).modFw (fun x => { x with fetching := false, fetch := [], fetchFail := none }) := by
  have hnot : ¬ (s.smp.fuseDisabled = true ∧ 0 < field w 4 2) := fun hd => by rw [h] at hd; cases hd.1
  rw [State.writeLevel]
  exact if_neg hnot

variable {t : State} (hd : t.smp.fuseDisabled = false) (hl : 1 ≤ t.smp.level)
include hd hl

theorem State.startRaise_fault {f : Nat} (h : t.raiseFault t.smp.req = some f) : t.startRaise = t.failRaise f := by
  rw [State.startRaise]
  rw [if_neg (Bool.eq_false_iff.mp hd), if_neg (Nat.ne_of_gt hl), h]

theorem State.startRaise_power (h : t.raiseFault t.smp.req = none) (hrom : t.fw.romMode = false) : t.startRaise = t.requestLevel t.smp.req := by
  rw [State.startRaise]
  rw [if_neg (Bool.eq_false_iff.mp hd), if_neg (Nat.ne_of_gt hl), h]
  exact if_neg (fun hx => by rw [hrom] at hx; cases hx.2)

theorem State.startRaise_rom (h : t.raiseFault t.smp.req = none) (hrom : t.fw.romMode = true) (h2 : 2 ≤ t.smp.req) : t.startRaise =
    if t.smp.stageMib = 0 then (t.bootCheck fwNoImage).failRaise 3
    else if t.fw.fetching then t
    else t.modFw (fun w => { w with fetching := true, fetch := [], fetchFail := none }) := by
  rw [State.startRaise]
  rw [if_neg (Bool.eq_false_iff.mp hd), if_neg (Nat.ne_of_gt hl), h]
  exact if_pos ⟨h2, hrom⟩

end

theorem exec_smLevelWrite {s : State} (w : Word32) (h : Awake s) : exec (.smLevelWrite w) s = .next (s.hold (s.writeLevel w.toNat)) :=
  act_when_smpOpen h _

/-- Settles O32. -/
theorem levelRequest : Obligations.LevelRequest := by
  unfold Obligations.LevelRequest
  intro s w hs req wrote asked
  rw [exec_smLevelWrite w hs]
  refine ⟨fun hd hf hle => ?_, fun hd hr => ?_, fun hd hf hl hlt f hfault => ?_, fun hd hf hl hlt hfault hrom => ?_, fun hd hf => ?_,
    fun hd hf hl hlt hfault hrom hz => ?_, fun hd hf hl hlt hfault hrom hz hfetch => ?_⟩
  · rw [State.writeLevel_enabled hd, if_neg (Bool.eq_false_iff.mp hf), if_neg (Nat.not_lt.mpr hle)]
    rfl
  · rw [State.writeLevel_disabled hd hr]
    rfl
  · rw [State.writeLevel_enabled hd, if_neg (Bool.eq_false_iff.mp hf), if_pos hlt, State.startRaise_fault (t := s.levelAsked w.toNat) hd hl hfault]
    rfl
  · rw [State.writeLevel_enabled hd, if_neg (Bool.eq_false_iff.mp hf), if_pos hlt,
      State.startRaise_power (t := s.levelAsked w.toNat) hd hl hfault hrom]
    obtain ⟨hreq, hkeep⟩ := (s.levelAsked w.toNat).requestLevel_doms req
    obtain ⟨d, hw⟩ := (s.levelAsked w.toNat).requestLevel_writes req
    have hheld : s.hold ((s.levelAsked w.toNat).requestLevel req) = (s.levelAsked w.toNat).requestLevel req := by rw [hw]; rfl
    exact ⟨_, congrArg Host.Outcome.next hheld, by rw [hw]; rfl, hreq, hkeep, by rw [hw]; rfl⟩
  · rw [State.writeLevel_enabled hd, if_pos hf]
    rfl
  · rw [State.writeLevel_enabled hd, if_neg (Bool.eq_false_iff.mp hf), if_pos hlt,
      State.startRaise_rom (t := s.levelAsked w.toNat) hd hl hfault hrom (Nat.lt_of_le_of_lt hl hlt)]
    obtain ⟨l, ev, dr, b, hcheck⟩ := asked.error_posts { code := 0x0708, cls := .c, unit := 0x000C, index := asked.recoverySlot, arg0 := fwNoImage }
    replace hcheck : asked.bootCheck fwNoImage = _ := hcheck
    refine ⟨congrArg (fun u => Host.Outcome.next (s.hold u)) (if_pos hz), rfl, ?_⟩
    rw [hcheck]
    rfl
  · rw [State.writeLevel_enabled hd, if_neg (Bool.eq_false_iff.mp hf), if_pos hlt,
      State.startRaise_rom (t := s.levelAsked w.toNat) hd hl hfault hrom (Nat.lt_of_le_of_lt hl hlt)]
    exact congrArg (fun u => Host.Outcome.next (s.hold u)) ((if_neg hz).trans (if_neg (Bool.eq_false_iff.mp hfetch)))

end Sys2Proof.Machine
end

section
/-! What ends with a service level: operations and requests (R350), the admission (R341) and the channels' modes (R22). Each end leaves
alone every field that the statement about it does not name. -/

namespace Sys2Proof.Machine

open Sys2Proof.Bits

/-! ### Channels on their way to MEM -/

/-- A channel after refreshes on the core side, and a TRANSIT to MEM if it was not in MEM. -/
def Channel.Turned (c d : Channel) : Prop :=
  ∃ m t n e r, d = { c with mode := m, since := t, refreshes := n, refabEnd := e, refreshed := r } ∧ (m = c.mode ∨ c.mode ≠ .mem ∧ m = .toMem)

theorem Channel.Turned.refl (c : Channel) : c.Turned c := ⟨_, _, _, _, _, rfl, .inl rfl⟩

theorem Channel.Turned.trans {c d e : Channel} (h : c.Turned d) (h' : d.Turned e) : c.Turned e := by
  obtain ⟨m, t, n, a, r, rfl, hm⟩ := h
  obtain ⟨m', t', n', a', r', rfl, hm'⟩ := h'
  refine ⟨m', t', n', a', r', rfl, ?_⟩
  rcases hm with rfl | ⟨hne, rfl⟩
  · exact hm'
  · rcases hm' with rfl | ⟨-, rfl⟩ <;> exact .inr ⟨hne, rfl⟩

/-- A channel is in MEM after it turned when it was before. -/
theorem Channel.Turned.mem_iff {c d : Channel} (h : c.Turned d) : d.mode = .mem ↔ c.mode = .mem := by
  obtain ⟨m, t, n, a, r, rfl, rfl | ⟨hne, rfl⟩⟩ := h
  · exact Iff.rfl
  · exact ⟨fun h => (by cases h), fun h => absurd h hne⟩

theorem Channel.Turned.marks {c d : Channel} (h : c.Turned d) : d.marks = c.marks := by
  obtain ⟨m, t, n, a, r, rfl, -⟩ := h
  rfl

/-- Every channel turned or stayed. -/
def ChansTurned (s t : State) : Prop := ∀ ch, (s.chan ch).Turned (t.chan ch)

theorem ChansTurned.of_chans {s t : State} (h : t.chans = s.chans) : ChansTurned s t := fun ch => by
  rw [State.chan, State.chan, h]
  exact .refl _

theorem ChansTurned.refl (s : State) : ChansTurned s s := .of_chans rfl

theorem ChansTurned.trans {s t u : State} (h : ChansTurned s t) (h' : ChansTurned t u) : ChansTurned s u := fun ch => (h ch).trans (h' ch)

theorem chansTurned_modChan (s : State) (i : Nat) (f : Channel → Channel) (h : ∀ c : Channel, c.Turned (f c)) : ChansTurned s (s.modChan i f) := fun ch => by
  rw [State.chan_modChan]
  split
  · exact h _
  · exact .refl _

theorem chansTurned_issueRefresh (s : State) (ch p pc bank : Nat) : ChansTurned s (s.issueRefresh ch p pc bank) :=
  chansTurned_modChan s ch _ (fun _ => ⟨_, _, _, _, _, rfl, .inl rfl⟩)

theorem chansTurned_issuePeriod (s : State) (ch p since : Nat) : ChansTurned s (s.issuePeriod ch p since) :=
  eachIn_related ChansTurned.refl ChansTurned.trans _ (fun _ _ => eachIn_related ChansTurned.refl ChansTurned.trans _ (fun s pc => by
    split
    · exact chansTurned_issueRefresh s ch p pc _
    · exact .refl s) _ _) _ s

theorem Channel.turned_toMem (c : Channel) (t : Nat) : c.Turned (c.transit .toMem t) := by
  rw [Channel.transit]
  split
  · exact .refl c
  next h => exact ⟨_, _, _, _, _, rfl, .inr ⟨fun hm => h (.inl hm), rfl⟩⟩

theorem chansTurned_toMem (s : State) (ch : Nat) : ChansTurned s (s.transit ch .toMem) := by
  rw [State.transit]
  split
  · exact (chansTurned_issuePeriod s ch s.refreshPeriod 0).trans (chansTurned_modChan _ _ _ (fun c => c.turned_toMem _))
  · exact chansTurned_modChan _ _ _ (fun c => c.turned_toMem _)

theorem chansTurned_allToMem (s : State) (l : List Nat) : ChansTurned s (s.transitAll l .toMem) :=
  eachIn_related ChansTurned.refl ChansTurned.trans _ (fun s ch => chansTurned_toMem s ch) l s

/-- A channel that is given back is in MEM or on its way. -/
theorem transit_toMem_mode (s : State) {ch : Nat} (h : ch < 32) :
    ((s.transit ch .toMem).chan ch).mode = .mem ∨ ((s.transit ch .toMem).chan ch).mode = .toMem := by
  have hback : ∀ (c : Channel) (t : Nat), (c.transit .toMem t).mode = .mem ∨ (c.transit .toMem t).mode = .toMem := fun c t => by
    rw [Channel.transit]
    split
    · assumption
    · exact .inr rfl
  rw [State.transit, State.chan_modChan, if_pos ⟨rfl, h⟩]
  exact hback _ _

theorem Channel.Turned.back {c d : Channel} (h : c.Turned d) (hc : c.mode = .mem ∨ c.mode = .toMem) : d.mode = .mem ∨ d.mode = .toMem := by
  obtain ⟨m, t, n, a, r, rfl, rfl | ⟨-, rfl⟩⟩ := h
  · exact hc
  · exact .inr rfl

/-- Every channel of a list that is given back is in MEM or on its way. -/
theorem transitAll_toMem_mode (l : List Nat) (s : State) {ch : Nat} (h : ch < 32) (hmem : ch ∈ l) :
    ((s.transitAll l .toMem).chan ch).mode = .mem ∨ ((s.transitAll l .toMem).chan ch).mode = .toMem := by
  induction l generalizing s with
  | nil => cases hmem
  | cons a l ih =>
    rw [State.transitAll, eachIn_cons]
    rcases List.mem_cons.mp hmem with rfl | hmem
    · exact (chansTurned_allToMem (s.transit ch .toMem) l ch).back (transit_toMem_mode s h)
    · exact ih _ hmem

theorem channelsToMem_mode (s : State) {ch : Nat} (h : ch < channels s.cfg) :
    (s.channelsToMem.chan ch).mode = .mem ∨ (s.channelsToMem.chan ch).mode = .toMem :=
  transitAll_toMem_mode s.channelList s (s.lt_of_mem_channelList ch ((s.mem_channelList ch).mpr h)) ((s.mem_channelList ch).mpr h)

theorem State.allMem_iff (s : State) : s.allMem = true ↔ ∀ ch, ch < channels s.cfg → (s.chan ch).mode = .mem := by
  simp [State.allMem, State.mem_channelList]

/-- Whether all channels are in MEM does not change when channels turn. -/
theorem ChansTurned.allMem {s t : State} (h : ChansTurned s t) (hc : t.cfg = s.cfg) : t.allMem = s.allMem := by
  rw [Bool.eq_iff_iff, State.allMem_iff, State.allMem_iff, hc]
  exact forall_congr' fun ch => forall_congr' fun _ => (h ch).mem_iff

/-! ### Ends of operations and requests -/

/-- What ends of operations and answers to requests may write. -/
def Booked (s t : State) : Prop :=
  ∃ ev dr mb ops ret v out mem pw fr lg bl sh ab em pg tm sl, t = { s with
    smp := { s.smp with events := ev, dropped := dr, mbx := mb }, ops := ops, retained := ret, chans := v, out := out, dram := mem,
    poisonWords := pw, free := fr, log := lg, blotter := bl, shards := sh, anchorBlocked := ab, emission := em, outPages := pg,
    run := { s.run with times := tm }, fw := { s.fw with slots := sl } }

theorem Booked.refl (s : State) : Booked s s := ⟨_, _, _, _, _, _, _, _, _, _, _, _, _, _, _, _, _, _, rfl⟩

theorem Booked.trans {s t u : State} (h : Booked s t) (h' : Booked t u) : Booked s u := by
  obtain ⟨_, _, _, _, _, _, _, _, _, _, _, _, _, _, _, _, _, _, rfl⟩ := h
  obtain ⟨_, _, _, _, _, _, _, _, _, _, _, _, _, _, _, _, _, _, rfl⟩ := h'
  exact ⟨_, _, _, _, _, _, _, _, _, _, _, _, _, _, _, _, _, _, rfl⟩

/-- A state after ends of operations and answers to requests: what they may have written, how the channels turned, and that no operation
began. -/
def Ended (s t : State) : Prop := Booked s t ∧ ChansTurned s t ∧ ∀ o ∈ t.ops, o ∈ s.ops

theorem Ended.refl (s : State) : Ended s s := ⟨.refl s, .refl s, fun _ h => h⟩

theorem Ended.trans {s t u : State} (h : Ended s t) (h' : Ended t u) : Ended s u :=
  ⟨h.1.trans h'.1, h.2.1.trans h'.2.1, fun o ho => h.2.2 o (h'.2.2 o ho)⟩

/-- A change that leaves channels and operations alone. -/
theorem Ended.of_booked {s t : State} (h : Booked s t) (hc : t.chans = s.chans) (ho : t.ops = s.ops) : Ended s t :=
  ⟨h, .of_chans hc, fun _ hm => ho ▸ hm⟩

theorem ended_eachIn {α : Type} (f : State → α → State) (h : ∀ s a, Ended s (f s a)) (l : List α) (s : State) : Ended s (eachIn l f s) :=
  eachIn_related Ended.refl Ended.trans f h l s

theorem ended_post (s : State) (code cat cls a0 a1 a2 : Nat) : Ended s (s.post code cat cls a0 a1 a2) := by
  obtain ⟨ev, dr, h⟩ := s.post_writes code cat cls a0 a1 a2
  rw [h]
  exact .of_booked ⟨ev, dr, _, _, _, _, _, _, _, _, _, _, _, _, _, _, _, _, rfl⟩ rfl rfl

theorem ended_error (s : State) (e : ErrSpec) : Ended s (s.error e) := by
  obtain ⟨l, ev, dr, b, h⟩ := s.error_posts e
  rw [h]
  exact .of_booked ⟨ev, dr, _, _, _, _, _, _, _, _, l, b, _, _, _, _, _, _, rfl⟩ rfl rfl

theorem ended_emissionEnd (s : State) (gen : Nat) (failed : Bool) (cause : Nat) : Ended s (s.emissionEnd gen failed cause) := by
  rw [State.emissionEnd]
  dsimp only
  refine (ended_post s 0x0303 2 7 gen (ofBool failed) cause).trans ?_
  generalize s.post 0x0303 2 7 gen (ofBool failed) cause = u
  obtain ⟨b, hb⟩ := u.blot_writes (blotRecord 0x07 (ofBool ((s.emission.map Emission.near).getD false) + 2 * ofBool failed) u.run.lastStep
    (gen % 2 ^ 32 + (s.emission.map Emission.holdEnd).getD 0 * 2 ^ 32 + (s.emission.map Emission.nearTime).getD 0 * 2 ^ 96 +
      (s.emission.map Emission.farTime).getD 0 * 2 ^ 160))
  rw [hb]
  split <;> exact .of_booked ⟨_, _, _, _, _, _, _, _, _, _, _, b, _, _, _, _, _, _, rfl⟩ rfl rfl

theorem ended_poisonWith (s : State) (i : Nat) (e : ErrSpec) : Ended s (s.poisonWith i e) :=
  Ended.trans (t := s.poison i) (.of_booked ⟨_, _, _, _, _, _, _, _, _, _, _, _, _, _, _, _, _, _, rfl⟩ rfl rfl) (ended_error _ e)

theorem ended_undefineDecant (s : State) (e : ShardEntry) (d : Desc) (parity : Nat) : Ended s (s.undefineDecant e d parity) :=
  ended_eachIn _ (fun s k => by
    dsimp only
    exact .of_booked ⟨_, _, _, _, _, _, _, _, _, _, _, _, _, _, _, _, _, _, rfl⟩ rfl rfl) _ s

theorem ended_cancelLeaves (s : State) (o : LongOp) : Ended s (s.cancelLeaves o) := by
  unfold State.cancelLeaves
  split_ifs
  · exact ended_emissionEnd s _ true 0
  · exact (ended_eachIn _ (fun s i => ended_poisonWith s i (shardPoisoned i 2)) s.ownedShards s).trans
      (.of_booked ⟨_, _, _, _, _, _, _, _, _, _, _, _, _, _, _, _, _, _, rfl⟩ rfl rfl)
  · exact ended_eachIn _ (fun s w => ended_undefineDecant s _ _ _) _ s
  · exact .of_booked ⟨_, _, _, _, _, _, _, _, _, _, _, _, _, _, _, _, _, _, rfl⟩ rfl rfl
  · obtain ⟨m, h⟩ := s.copyRecords_writes (o.p 16 8) (o.p 8 8) o.done
    rw [h]
    exact .of_booked ⟨_, _, _, _, _, _, _, m, _, _, _, _, _, _, _, _, _, _, rfl⟩ rfl rfl
  · exact .of_booked ⟨_, _, _, _, _, _, _, _, _, _, _, _, _, _, _, _, _, _, rfl⟩ rfl rfl
  · exact .refl s

theorem ended_endOp (s : State) (o : LongOp) (st : OpSt) (status detail result : Nat) : Ended s (s.endOp o st status detail result) := by
  rw [State.endOp]
  dsimp only
  refine Ended.trans (t := { s with
      ops := s.ops.filter (fun x => decide (x.handle ≠ o.handle)), retained := retain s.retained (o.ended st status detail result) })
    ⟨⟨_, _, _, _, _, _, _, _, _, _, _, _, _, _, _, _, _, _, rfl⟩, .of_chans rfl, fun _ h => (List.mem_filter.mp h).1⟩
    (Ended.trans ?_ (ended_post _ 0x0401 4 7 o.handle status o.code))
  split
  · obtain ⟨v, out, h⟩ := chansOut_transitAll _ _ _
    refine ⟨?_, chansTurned_allToMem _ _, ?_⟩
    · rw [h]
      exact ⟨_, _, _, _, _, v, out, _, _, _, _, _, _, _, _, _, _, _, rfl⟩
    · rw [h]
      exact fun _ hm => hm
  · exact .refl _

theorem ended_failOp (s : State) (o : LongOp) (status : Nat) : Ended s (s.failOp o status) :=
  (ended_cancelLeaves s o).trans (ended_endOp _ o .failed status 0 o.result)

theorem ended_levelLost (s : State) (level : Nat) : Ended s (s.levelLost level) := ended_eachIn _ (fun s o => ended_failOp s o _) _ s

theorem ended_modMbx (s : State) (m : Nat) (f : Mailbox → Mailbox) : Ended s (s.modMbx m f) :=
  .of_booked ⟨_, _, _, _, _, _, _, _, _, _, _, _, _, _, _, _, _, _, rfl⟩ rfl rfl

theorem ended_deliver (s : State) (m : Nat) (w : BitVec 512) : Ended s (s.deliver m w) := (ended_modMbx s m _).trans (ended_post _ _ _ _ _ _ _)

theorem ended_respond (s : State) (m : Nat) (sequenced : Bool) (r : Rsp) : Ended s (s.respond m sequenced r) := by
  rw [State.respond]
  split
  · exact (ended_modMbx s m _).trans (ended_deliver _ m _)
  · exact ended_deliver s m _

theorem ended_answerQueued (s : State) (m : Nat) (r : Rsp) : Ended s (s.answerQueued m r) := by
  rw [State.answerQueued]
  split_ifs
  · exact ended_deliver s m _
  · exact (ended_modMbx s m _).trans (ended_respond _ m true r)
  · exact ended_respond s m false r
  · exact ended_respond s m false r

theorem ended_requestsLost (s : State) : Ended s s.requestsLost :=
  ended_eachIn _ (fun s m => by
    split_ifs
    · exact ended_respond s m _ _
    · exact ended_answerQueued s m _
    · exact .refl s) _ s

theorem ended_answerEval (s : State) (status : Nat) : Ended s (s.answerEval status) :=
  ended_eachIn _ (fun s m => by
    split_ifs
    · exact ended_respond s m _ _
    · exact .refl s) _ s

/-! ### Operations that end with their level -/

theorem not_mem_ops_endOp (s : State) (o : LongOp) (st : OpSt) (status detail result : Nat) :
    ∀ x ∈ (s.endOp o st status detail result).ops, x.handle ≠ o.handle := (s.endOp_lists o st status detail result).1

/-- Operations that fail one after the other are live no more. -/
theorem failOps_ops (status : Nat) (l : List LongOp) (s : State) :
    ∀ x ∈ (eachIn l (fun s o => s.failOp o status) s).ops, x ∈ s.ops ∧ ∀ o ∈ l, x.handle ≠ o.handle := by
  induction l generalizing s with
  | nil => exact fun x hx => ⟨hx, fun o ho => by cases ho⟩
  | cons a l ih =>
    intro x hx
    obtain ⟨hin, hne⟩ := ih (s.failOp a status) x hx
    exact ⟨(ended_failOp s a status).2.2 x hin, List.forall_mem_cons.mpr ⟨not_mem_ops_endOp _ a _ _ _ _ x hin, hne⟩⟩

theorem failOps_all (status : Nat) (s : State) : (eachIn s.ops (fun s o => s.failOp o status) s).ops = [] :=
  List.eq_nil_iff_forall_not_mem.mpr fun x hx => by
    obtain ⟨hin, hne⟩ := failOps_ops status s.ops s x hx
    exact hne x hin rfl

theorem opLevel_pos (code : Nat) : 0 < opLevel code := by
  unfold opLevel
  split_ifs <;> decide

/-- No operation is live at S0. -/
theorem levelLost_zero_ops (s : State) : (s.levelLost 0).ops = [] := by
  have hall : s.ops.filter (fun o => decide (0 < opLevel o.code)) = s.ops :=
    List.filter_eq_self.mpr fun o _ => decide_eq_true (opLevel_pos o.code)
  rw [State.levelLost, hall]
  exact failOps_all _ s

/-! ### The end of an admission -/

theorem topoIfChanged_writes (s : State) : ∃ f, s.topoIfChanged = { s with fabric := f } := by
  rw [State.topoIfChanged]
  split
  · exact ⟨s.fabric, rfl⟩
  · obtain ⟨ls, h⟩ := s.sendTopoAll_writes
    rw [h]
    exact ⟨_, rfl⟩

theorem leave_writes (s : State) (v : Via) (k : Packet) : ∃ f, s.leave v k = { s with fabric := f } := by
  cases v with
  | carried => exact ⟨s.fabric, rfl⟩
  | link p =>
    simp only [State.leave]
    split
    · exact ⟨s.fabric, rfl⟩
    · exact ⟨_, rfl⟩

theorem egressLeave_writes (s : State) : ∃ f, s.egressLeave = { s with fabric := f } := by
  obtain ⟨f, h⟩ := eachIn_related (R := fun s t => ∃ f, t = { s with fabric := f }) (fun s => ⟨s.fabric, rfl⟩)
    (by rintro s t u ⟨d, rfl⟩ ⟨d', rfl⟩; exact ⟨d', rfl⟩) (fun s (h : HeldPkt) => s.leave h.via h.pkt) (fun s h => leave_writes s h.via h.pkt)
    s.fabric.egrHeld s
  rw [State.egressLeave, h]
  exact ⟨_, rfl⟩

/-- What the end of an admission writes. -/
theorem endAdmission_writes (s : State) : ∃ f t a, s.endAdmission =
    { s with
      formula := none, chans := mapV Channel.endClaims s.chans, bounds := [], waits := [], latest := [], shards := [], wins := [], envs := [],
      atmResults := [], emission := none, outPages := [], anchorBlocked := false, fabric := f, stills := t, atm := a,
      run := { s.run with anchored := false, stepBegin := false, arrived := false, stopping := false, eval := .closed, steps := [], cutNext := 0 } } := by
  obtain ⟨f, hf⟩ := egressLeave_writes s
  rw [State.endAdmission, hf]
  dsimp only
  obtain ⟨g, hg⟩ := topoIfChanged_writes _
  rw [hg]
  exact ⟨g, _, _, rfl⟩

end Sys2Proof.Machine
end

section
/-! Proof of O33: how a raise completes or fails (R31, R318, R329), and a lowering (R22, R30). -/

namespace Sys2Proof.Machine

open Sys2Proof.Bits

/-! ### The admission ends and the channels return to MEM -/

/-- What may have been written when the admission has ended and the channels return to MEM. -/
def ShutBook (s t : State) : Prop :=
  ∃ ev dr mb ops ret v out mem pw fr lg bl tm sl f st a, t = { s with
    smp := { s.smp with events := ev, dropped := dr, mbx := mb }, ops := ops, retained := ret, chans := v, out := out, dram := mem,
    poisonWords := pw, free := fr, log := lg, blotter := bl, fw := { s.fw with slots := sl }, fabric := f, stills := st, atm := a,
    formula := none, bounds := [], waits := [], latest := [], shards := [], wins := [], envs := [], atmResults := [], emission := none,
    outPages := [], anchorBlocked := false,
    run := { s.run with times := tm, anchored := false, stepBegin := false, arrived := false, stopping := false, eval := .closed, steps := [],
                        cutNext := 0 } }

/-- A state in which the admission has ended and the channels return to MEM. -/
structure Shut (s t : State) : Prop where
  book : ShutBook s t
  ops : ∀ o ∈ t.ops, o ∈ s.ops
  chans : ∀ ch, ch < channels s.cfg → (t.chan ch).marks = [] ∧ ((t.chan ch).mode = .mem ∨ (t.chan ch).mode = .toMem) ∧
    ((t.chan ch).mode = .mem ↔ (s.chan ch).mode = .mem)

theorem shut_of_ended {s u : State} (h : Ended s u) : Shut s u.endAdmission.channelsToMem := by
  obtain ⟨hbook, hturned, hops⟩ := h
  obtain ⟨f, t, a, hend⟩ := endAdmission_writes u
  obtain ⟨v, out, hchans⟩ := chansOut_transitAll u.endAdmission u.endAdmission.channelList .toMem
  have hcfg : u.cfg = s.cfg := by obtain ⟨_, _, _, _, _, _, _, _, _, _, _, _, _, _, _, _, _, _, rfl⟩ := hbook; rfl
  have hendcfg : u.endAdmission.cfg = s.cfg := by rw [hend]; exact hcfg
  refine ⟨?_, fun o ho => hops o ?_, fun ch hch => ?_⟩
  · obtain ⟨_, _, _, _, _, _, _, _, _, _, _, _, _, _, _, _, _, _, rfl⟩ := hbook
    rw [State.channelsToMem, hchans, hend]
    exact ⟨_, _, _, _, _, v, out, _, _, _, _, _, _, _, f, t, a, rfl⟩
  · rw [State.channelsToMem, hchans, hend] at ho
    exact ho
  · have hlt : ch < 32 := Nat.lt_of_lt_of_le hch (channels_le s.cfg)
    have hback := chansTurned_allToMem u.endAdmission u.endAdmission.channelList ch
    have hclaims : u.endAdmission.chan ch = (u.chan ch).endClaims := u.endAdmission_chan ⟨ch, hlt⟩
    refine ⟨?_, channelsToMem_mode u.endAdmission (hendcfg ▸ hch), ?_⟩
    · rw [State.channelsToMem, hback.marks, hclaims]
      rfl
    · rw [State.channelsToMem, hback.mem_iff, hclaims]
      exact (hturned ch).mem_iff

theorem Shut.allMem {s t : State} (h : Shut s t) : t.allMem = s.allMem := by
  have hcfg : t.cfg = s.cfg := by obtain ⟨_, _, _, _, _, _, _, _, _, _, _, _, _, _, _, _, _, rfl⟩ := h.book; rfl
  rw [Bool.eq_iff_iff, State.allMem_iff, State.allMem_iff, hcfg]
  exact forall_congr' fun ch => forall_congr' fun hch => (h.chans ch hch).2.2

/-! ### Levels -/

theorem setLevel_changed (s : State) (new cause : Nat) (h : s.smp.level ≠ new) (h0 : new ≠ 0) : s.setLevel new cause =
    ((s.modSmp (fun m => { m with level := new, pendingLevel := decide (new ≠ m.req) })).post 0x0105 0 7 new s.smp.level cause).topoIfChanged := by
  rw [State.setLevel]
  simp only [if_neg h, if_neg h0]

/-- A new level writes the management port, at S0 that the fuses are to be read again, and TOPO. -/
theorem setLevel_writes (s : State) (new cause : Nat) : ∃ ev dr f, s.setLevel new cause = { s with
    smp := { s.smp with level := new, pendingLevel := decide (new ≠ s.smp.req), events := ev, dropped := dr },
    fuses := { s.fuses with read := !decide (new = 0) && s.fuses.read }, fabric := f } := by
  rw [State.setLevel]
  dsimp only
  have hread : (if new = 0 then { s.modSmp (fun m => { m with level := new, pendingLevel := decide (new ≠ m.req) }) with
        fuses := { (s.modSmp (fun m => { m with level := new, pendingLevel := decide (new ≠ m.req) })).fuses with read := false } }
      else s.modSmp (fun m => { m with level := new, pendingLevel := decide (new ≠ m.req) })) = { s with
        smp := { s.smp with level := new, pendingLevel := decide (new ≠ s.smp.req) },
        fuses := { s.fuses with read := !decide (new = 0) && s.fuses.read } } := by
    split
    next h => simp [h, State.modSmp]
    next h => simp [h, State.modSmp]
  rw [hread]
  split
  · exact ⟨_, _, _, rfl⟩
  · obtain ⟨ev, dr, hp⟩ := State.post_writes { s with
      smp := { s.smp with level := new, pendingLevel := decide (new ≠ s.smp.req) }
      fuses := { s.fuses with read := !decide (new = 0) && s.fuses.read } } 0x0105 0 7 new s.smp.level cause
    obtain ⟨f, hf⟩ := topoIfChanged_writes (State.post { s with
      smp := { s.smp with level := new, pendingLevel := decide (new ≠ s.smp.req) }
      fuses := { s.fuses with read := !decide (new = 0) && s.fuses.read } } 0x0105 0 7 new s.smp.level cause)
    rw [hf, hp]
    exact ⟨ev, dr, f, rfl⟩

theorem lowerCheck_waits {s : State} (h : s.allMem = false ∨ s.fw.levelHold ≠ 1) : s.lowerCheck = s := by
  rw [State.lowerCheck, if_neg]
  rintro ⟨hhold, hall⟩
  rcases h with h | h
  · rw [h] at hall
    cases hall
  · exact h hhold

theorem lowerCheck_lowers {s : State} (hall : s.allMem = true) (hh : s.fw.levelHold = 1) :
    s.lowerCheck = (s.modFw (fun w => { w with levelHold := 0 })).setLevel (min s.smp.req s.smp.level) 0 := by
  rw [State.lowerCheck, if_pos ⟨hh, hall⟩]

theorem hold_levelChanged (s : State) (f : Smp → Smp) (code cat cls a0 a1 a2 : Nat) :
    s.hold ((s.modSmp f).post code cat cls a0 a1 a2).topoIfChanged = ((s.modSmp f).post code cat cls a0 a1 a2).topoIfChanged := by
  obtain ⟨g, hg⟩ := topoIfChanged_writes ((s.modSmp f).post code cat cls a0 a1 a2)
  rw [hg]
  rfl

/-! ### A raise -/

theorem clocks_all_iff (s : State) : s.channelList.all (fun c => clockOk (s.clocks.getD c 0)) = true ↔
    ∀ c, c < channels s.cfg → clockOk (s.clocks.getD c 0) = true := by
  rw [List.all_eq_true]
  exact forall_congr' fun c => by rw [State.mem_channelList]

section
variable {s : State} (hs : Awake s) (hp : s.smp.pendingLevel = true) (hf : s.fall = false)
include hs hp hf

theorem exec_levelRaiseDone (hlt : s.smp.level < s.smp.req) (hw : s.wrst = false) (hl : 1 ≤ s.smp.level) (hrom : s.fw.romMode = false)
    (hpres : s.levelPresent s.smp.req = true) (hfault : s.raiseFault s.smp.req = none) : exec .levelRaiseDone s = .next (s.hold
      (if s.channelList.all (fun c => clockOk (s.clocks.getD c 0)) then s.setLevel s.smp.req 0 else s.failRaise 1)) := by
  have h2 : 2 ≤ s.smp.req := Nat.lt_of_le_of_lt hl hlt
  have hready : (s.smp.pendingLevel && decide (s.smp.level < s.smp.req) && !s.fall && !s.wrst && decide (1 ≤ s.smp.level) &&
      !(decide (2 ≤ s.smp.req) && s.fw.romMode) && s.levelPresent s.smp.req) = true := by
    simp [hp, hlt, hf, hw, hl, hrom, hpres]
  change execLevelRaiseDone s = _
  rw [execLevelRaiseDone, act_awake s _ hs]
  dsimp only
  rw [when_of_true hready, hfault]
  dsimp only
  rw [decide_eq_true h2, Bool.true_and]
  cases s.channelList.all (fun c => clockOk (s.clocks.getD c 0)) <;> rfl

/-- The admission ends and the channels return to MEM on the way below S2. -/
def State.lowered (s : State) : State :=
  let t := ((s.levelLost s.smp.req).answerEval stLevelLost).endAdmission.channelsToMem
  if s.smp.req = 0 then t.requestsLost.modFw (fun w => { w with handover := .none, commit := none, heldQueue := [], stage := [] }) else t

theorem exec_levelLowerEffect (hlt : s.smp.req < s.smp.level) (hh : s.fw.levelHold = 0) (hb : s.atBoundary = true) :
    exec .levelLowerEffect s = .next (s.hold (if 2 ≤ s.smp.req then (s.levelLost s.smp.req).setLevel s.smp.req 0
      else (s.lowered.modFw (fun w => { w with levelHold := 1 })).lowerCheck)) := by
  have hready : (s.lowering && !s.fall && decide (s.fw.levelHold = 0) && s.atBoundary) = true := by
    simp [State.lowering, hp, hlt, hf, hh, hb]
  change execLevelLowerEffect s = _
  rw [execLevelLowerEffect, act_awake s _ hs]
  dsimp only
  rw [when_of_true hready]
  rfl

end

theorem levelLost_none {s : State} (h : s.ops = []) (level : Nat) : s.levelLost level = s := by
  rw [State.levelLost, h]
  rfl

/-! ### A lowering below S2 -/

/-- What holds of the state in which a lowering waits for the channels. -/
structure Lowered (s t : State) : Prop where
  formula : t.formula = none
  anchored : t.run.anchored = false
  level : t.smp.level = s.smp.level
  req : t.smp.req = s.smp.req
  allMem : t.allMem = s.allMem
  chans : ∀ ch, ch < channels s.cfg → (t.chan ch).marks = [] ∧ ((t.chan ch).mode = .mem ∨ (t.chan ch).mode = .toMem) ∧
    ((s.chan ch).mode = .mem → (t.chan ch).mode = .mem)

theorem Shut.lowered {s t : State} (h : Shut s t) : Lowered s t := by
  have hall := h.allMem
  obtain ⟨⟨_, _, _, _, _, _, _, _, _, _, _, _, _, _, _, _, _, rfl⟩, -, hchans⟩ := h
  exact ⟨rfl, rfl, rfl, rfl, hall, fun ch hch => ⟨(hchans ch hch).1, (hchans ch hch).2.1, (hchans ch hch).2.2.mpr⟩⟩

/-- Answers to requests keep it. -/
theorem Lowered.ended {s t u : State} (h : Lowered s t) (hu : Ended t u) : Lowered s u := by
  obtain ⟨hbook, hturned, -⟩ := hu
  have hcfg : u.cfg = t.cfg := by obtain ⟨_, _, _, _, _, _, _, _, _, _, _, _, _, _, _, _, _, _, rfl⟩ := hbook; rfl
  have hall := hturned.allMem hcfg
  have hchans : ∀ ch, ch < channels s.cfg → (u.chan ch).marks = [] ∧ ((u.chan ch).mode = .mem ∨ (u.chan ch).mode = .toMem) ∧
      ((s.chan ch).mode = .mem → (u.chan ch).mode = .mem) := fun ch hch => by
    obtain ⟨hm, hmode, hmem⟩ := h.chans ch hch
    exact ⟨(hturned ch).marks.trans hm, (hturned ch).back hmode, fun hs => (hturned ch).mem_iff.mpr (hmem hs)⟩
  obtain ⟨_, _, _, _, _, _, _, _, _, _, _, _, _, _, _, _, _, _, rfl⟩ := hbook
  exact ⟨h.formula, h.anchored, h.level, h.req, hall.trans h.allMem, hchans⟩

theorem Lowered.modFw {s t : State} (h : Lowered s t) (f : Firmware → Firmware) : Lowered s (t.modFw f) :=
  ⟨h.formula, h.anchored, h.level, h.req, h.allMem, h.chans⟩

theorem State.lowered_lowered (s : State) : Lowered s s.lowered := by
  have hshut : Shut s ((s.levelLost s.smp.req).answerEval stLevelLost).endAdmission.channelsToMem :=
    shut_of_ended ((ended_levelLost s _).trans (ended_answerEval _ _))
  rw [State.lowered]
  split
  · exact (hshut.lowered.ended (ended_requestsLost _)).modFw _
  · exact hshut.lowered

/-- A lowering that waits is complete at once when every channel is in MEM. -/
theorem Lowered.done {s t : State} (h : Lowered s t) (hlt : s.smp.req < s.smp.level) (hh : t.fw.levelHold = 1) (hall : s.allMem = true) :
    Lowered { s with smp := { s.smp with level := s.smp.req } } t.lowerCheck ∧ t.lowerCheck.fw.levelHold = 0 := by
  rw [lowerCheck_lowers (h.allMem.trans hall) hh, h.req, h.level, Nat.min_eq_left (Nat.le_of_lt hlt)]
  obtain ⟨ev, dr, f, hset⟩ := setLevel_writes (t.modFw (fun w => { w with levelHold := 0 })) s.smp.req 0
  rw [hset]
  exact ⟨⟨h.formula, h.anchored, rfl, h.req, h.allMem, h.chans⟩, rfl⟩

/-! ### The last channel enters MEM -/

theorem transitEnds_toMem {s : State} {ch : Nat} (hm : (s.chan ch).mode = .toMem) (ht : (s.chan ch).since + 120 ≤ s.time) :
    s.transitEnds ch false = s.enterMem ch := by
  have hmode : (s.chan ch).since + tMode ≤ s.time := by rw [tMode]; exact ht
  unfold State.transitEnds
  dsimp only
  rw [if_pos hmode, hm]
  exact if_neg Bool.false_ne_true

/-- The state in which a channel has entered MEM. -/
def State.enteredMem (s : State) (ch : Nat) : State :=
  ((s.issueSince ch (s.chan ch).since).issueDue ch).modChan ch
    (fun c => { c with mode := .mem, since := ((s.issueSince ch (s.chan ch).since).issueDue ch).time, catchup := 0, rows := [] })

theorem enteredMem_chansOut (s : State) (ch : Nat) : ChansOut s (s.enteredMem ch) :=
  ((chansOut_issuePeriod s ch _ _).trans (chansOut_issuePeriod _ ch _ 0)).trans ⟨_, _, rfl⟩

theorem ChansOut.cfg {s t : State} (h : ChansOut s t) : t.cfg = s.cfg := by
  obtain ⟨v, o, rfl⟩ := h
  rfl

theorem enteredMem_mem_iff (s : State) {ch : Nat} (hch : ch < 32) (j : Nat) :
    ((s.enteredMem ch).chan j).mode = .mem ↔ j = ch ∨ (s.chan j).mode = .mem := by
  have hturned : ChansTurned s ((s.issueSince ch (s.chan ch).since).issueDue ch) :=
    (chansTurned_issuePeriod s ch _ _).trans (chansTurned_issuePeriod _ ch _ 0)
  rw [State.enteredMem, State.chan_modChan]
  by_cases hj : ch = j
  · rw [if_pos ⟨hj, hch⟩]
    exact ⟨fun _ => .inl hj.symm, fun _ => rfl⟩
  · rw [if_neg (fun h => hj h.1), (hturned j).mem_iff]
    exact ⟨.inr, fun h => h.resolve_left (fun h => hj h.symm)⟩

theorem enterMem_eq (s : State) (ch : Nat) : s.enterMem ch = (s.enteredMem ch).loanCheck.lowerCheck.stopCheck := rfl

theorem loanCheck_closed {s : State} (h : s.loan.isOpen = false) : s.loanCheck = s := by
  rw [State.loanCheck, h]
  rfl

theorem stopCheck_none {s : State} (h : s.run.stopHold = none) : s.stopCheck = s := by rw [State.stopCheck, h]

/-- With no request waiting for the staging region nothing goes on (R398). -/
theorem stageResume_none {s : State} (h : s.fw.stage = []) : s.stageResume = s := by
  have hsame : s.modFw (fun w => { w with stage := [] }) = s := by
    change { s with fw := { s.fw with stage := [] } } = s
    rw [← h]
  rw [State.stageResume]
  split
  · rfl
  · rw [h]
    exact hsame

theorem exec_transitEnd {s : State} (ch : Fin 32) (stuck : Bool) (h : OnChannel s ch) :
    exec (.transitEnd ch stuck) s = .next (s.hold (s.transitEnds ch stuck).stageResume) := by
  change execTransitEnd ch stuck s = _
  rw [execTransitEnd, onChan_awake s ch _ h]

/-- Settles O33. -/
theorem levelChanges : Obligations.LevelChanges := by
  unfold Obligations.LevelChanges
  refine ⟨fun s hs hp hlt hf hw hl hrom hpres hfault => ⟨fun hc => ?_, fun hc => ?_⟩,
    fun s hs hp hlt hf hh hb => ⟨fun h2 hops => ?_, fun h2 => ?_⟩, fun s ch hon hh hloan hstop hstage hreq hm ht => ⟨fun hall => ?_, fun hsome => ?_⟩⟩
  · rw [exec_levelRaiseDone hs hp hf hlt hw hl hrom hpres hfault, if_pos ((clocks_all_iff s).mpr hc),
      setLevel_changed s _ 0 (Nat.ne_of_lt hlt) (by omega), hold_levelChanged]
    simp [State.modSmp]
  · rw [exec_levelRaiseDone hs hp hf hlt hw hl hrom hpres hfault, if_neg (fun h => hc ((clocks_all_iff s).mp h))]
    rfl
  · rw [exec_levelLowerEffect hs hp hf hlt hh hb, if_pos (by omega), levelLost_none hops,
      setLevel_changed s _ 0 (Nat.ne_of_gt hlt) (by omega), hold_levelChanged]
    simp [State.modSmp, h2]
  · rw [exec_levelLowerEffect hs hp hf hlt hh hb, if_neg (by omega)]
    have hlow := (s.lowered_lowered).modFw (fun w => { w with levelHold := 1 })
    refine ⟨_, rfl, ?_⟩
    cases hall : s.allMem with
    | true =>
      obtain ⟨hdone, hzero⟩ := hlow.done hlt rfl hall
      exact ⟨hdone.formula, hdone.anchored, hdone.chans, fun _ => ⟨hdone.level, hzero⟩, fun h => (by cases h)⟩
    | false =>
      rw [lowerCheck_waits (.inl (hlow.allMem.trans hall))]
      exact ⟨hlow.formula, hlow.anchored, hlow.chans, fun h => (by cases h), fun _ => ⟨hlow.level, rfl⟩⟩
  · have hmem : (s.enteredMem ch).allMem = true := (State.allMem_iff _).mpr fun j hj => (enteredMem_mem_iff s ch.isLt j).mpr (by
      by_cases hne : j = ch
      · exact .inl hne
      · exact .inr (hall j ((enteredMem_chansOut s ch).cfg ▸ hj) hne))
    obtain ⟨v, out, hbooks⟩ := enteredMem_chansOut s ch
    rw [exec_transitEnd ch false hon, transitEnds_toMem hm ht, enterMem_eq, loanCheck_closed (by rw [hbooks]; exact hloan),
      lowerCheck_lowers hmem (by rw [hbooks]; exact hh)]
    obtain ⟨ev, dr, f, hset⟩ := setLevel_writes ((s.enteredMem ch).modFw (fun w => { w with levelHold := 0 }))
      (min (s.enteredMem ch).smp.req (s.enteredMem ch).smp.level) 0
    rw [hset, stopCheck_none (by rw [hbooks]; exact hstop), stageResume_none (by rw [hbooks]; exact hstage), hbooks]
    exact ⟨_, rfl, Nat.min_eq_left hreq, rfl⟩
  · obtain ⟨j, hj, hne, hjm⟩ := hsome
    have hmem : (s.enteredMem ch).allMem = false := by
      rw [← Bool.not_eq_true, State.allMem_iff]
      intro h
      have hin := h j (by rw [(enteredMem_chansOut s ch).cfg]; exact hj)
      exact ((enteredMem_mem_iff s ch.isLt j).mp hin).elim hne hjm
    obtain ⟨v, out, hbooks⟩ := enteredMem_chansOut s ch
    rw [exec_transitEnd ch false hon, transitEnds_toMem hm ht, enterMem_eq, loanCheck_closed (by rw [hbooks]; exact hloan),
      lowerCheck_waits (.inl hmem), stopCheck_none (by rw [hbooks]; exact hstop), stageResume_none (by rw [hbooks]; exact hstage), hbooks]
    exact ⟨_, rfl, rfl, rfl⟩

end Sys2Proof.Machine
end

section
/-! Proof of O36 and O38: the wrapper's instructions (R313, R314, R327), and the clock check and the temperature sample (R316, R318, R355).
First what a class X fall leaves (R387). -/

namespace Sys2Proof.Machine

open Sys2Proof.Bits

/-! ### A class X fall -/

/-- What may have been written when a fall has begun. -/
def FallBook (s t : State) : Prop :=
  ∃ ev dr mb ret v out mem pw fr lg bl tm sl f st a, t = { s with
    smp := { s.smp with events := ev, dropped := dr, mbx := mb }, ops := [], retained := ret, chans := v, out := out, dram := mem,
    poisonWords := pw, free := fr, log := lg, blotter := bl, fabric := f, stills := st, atm := a, formula := none, bounds := [], waits := [],
    latest := [], shards := [], wins := [], envs := [], atmResults := [], emission := none, outPages := [], anchorBlocked := false,
    run := { s.run with times := tm, anchored := false, stepBegin := false, arrived := false, stopping := false, eval := .closed, steps := [],
                        cutNext := 0 },
    fw := { s.fw with slots := sl, handover := .none, commit := none, heldQueue := [], stage := [], fetching := false, fetch := [],
                      warmWait := false },
    fall := true, loan := { s.loan with isOpen := false, transferred := false } }

/-- A state in which a fall has begun. -/
structure Fallen (s t : State) : Prop where
  book : FallBook s t
  chans : ∀ ch, ch < channels s.cfg → (t.chan ch).marks = [] ∧ ((t.chan ch).mode = .mem ∨ (t.chan ch).mode = .toMem) ∧
    ((t.chan ch).mode = .mem ↔ (s.chan ch).mode = .mem)

/-- The marks of a fall. -/
def State.falling (s : State) : State :=
  let s := s.modFw (fun w => { w with
    handover := .none, commit := none, heldQueue := [], stage := [], fetching := false, fetch := [], warmWait := false })
  { s with fall := true, loan := { s.loan with isOpen := false, transferred := false } }

theorem startFall_eq (s : State) : s.startFall = (s.levelLost 0).requestsLost.endAdmission.channelsToMem.falling := rfl

theorem classX_begins {s : State} (e : ErrSpec) (h : s.fall = false) : s.classX e = (s.error e).startFall := by
  have hfall : (s.error e).fall = false := by
    obtain ⟨l, ev, dr, b, herr⟩ := s.error_posts e
    rw [herr]
    exact h
  unfold State.classX
  simp only [hfall, Bool.false_eq_true, if_false]

theorem classX_again {s : State} (e : ErrSpec) (h : s.fall = true) : s.classX e = s.error e := by
  have hfall : (s.error e).fall = true := by
    obtain ⟨l, ev, dr, b, herr⟩ := s.error_posts e
    rw [herr]
    exact h
  unfold State.classX
  simp only [hfall, if_true]

/-- A class X error outside a fall begins one. -/
theorem fallen_classX {s : State} (e : ErrSpec) (h : s.fall = false) : Fallen s (s.classX e) := by
  have hlost : Ended ((s.error e).levelLost 0) ((s.error e).levelLost 0).requestsLost := ended_requestsLost _
  have hshut : Shut s (((s.error e).levelLost 0).requestsLost).endAdmission.channelsToMem :=
    shut_of_ended ((ended_error s e).trans ((ended_levelLost _ 0).trans hlost))
  have hops : (((s.error e).levelLost 0).requestsLost).endAdmission.channelsToMem.ops = [] :=
    List.eq_nil_iff_forall_not_mem.mpr fun o ho => by
      have := (shut_of_ended hlost).ops o ho
      rw [levelLost_zero_ops] at this
      cases this
  rw [classX_begins e h, startFall_eq]
  generalize (((s.error e).levelLost 0).requestsLost).endAdmission.channelsToMem = u at hshut hops
  obtain ⟨⟨_, _, _, _, _, _, _, _, _, _, _, _, _, _, _, _, _, rfl⟩, -, hchans⟩ := hshut
  exact ⟨⟨_, _, _, _, _, _, _, _, _, _, _, _, _, _, _, _, by rw [← hops]; rfl⟩, hchans⟩

/-- What a class X error leaves, whether or not a fall was in progress. -/
structure Falling (s t : State) : Prop where
  fall : t.fall = true
  wir : t.wir = s.wir
  wrst : t.wrst = s.wrst
  porst : t.porst = s.porst
  cfg : t.cfg = s.cfg
  disc : t.disc = s.disc
  restart : t.fw.restart = s.fw.restart
  ended : s.fall = false → t.formula = none ∧ t.ops = []

theorem falling_classX (s : State) (e : ErrSpec) : Falling s (s.classX e) := by
  cases h : s.fall with
  | false =>
    obtain ⟨⟨_, _, _, _, _, _, _, _, _, _, _, _, _, _, _, _, hb⟩, -⟩ := fallen_classX e h
    rw [hb]
    exact ⟨rfl, rfl, rfl, rfl, rfl, rfl, rfl, fun _ => ⟨rfl, rfl⟩⟩
  | true =>
    obtain ⟨l, ev, dr, b, herr⟩ := s.error_posts e
    rw [classX_again e h, herr]
    exact ⟨h, rfl, rfl, rfl, rfl, rfl, rfl, fun hf => by rw [h] at hf; cases hf⟩

/-- During a fall no service level is in force. -/
theorem level_of_fall {s : State} (h : s.fall = true) : s.level = 0 := by rw [State.level, if_pos h]

/-! ### The wrapper -/

section
variable {s : State} {code : BitVec 4}

theorem exec_wrapperInstruction_locked (hl : s.fuses.locked 1 = true) (h : code.toNat = 3 ∨ code.toNat = 5) :
    exec (.wrapperInstruction code) s = .next { s with wir := 0, testPending := 0 } := by
  have hlocked : (s.fuses.locked 1 && (decide (code.toNat = 3) || decide (code.toNat = 5))) = true := by simp [hl, h]
  change execWrapperInstruction code s = _
  rw [execWrapperInstruction, hlocked, if_neg (fun hx => by cases hx.2), if_pos rfl]

theorem exec_wrapperInstruction_plain (h1 : code.toNat ≠ 1) (h3 : code.toNat ≠ 3) (h5 : code.toNat ≠ 5) :
    exec (.wrapperInstruction code) s = .next { s with wir := code.toNat, testPending := 0 } := by
  have hlocked : (s.fuses.locked 1 && (decide (code.toNat = 3) || decide (code.toNat = 5))) = false := by simp [h3, h5]
  change execWrapperInstruction code s = _
  rw [execWrapperInstruction, hlocked, if_neg (fun hx => by rcases hx.1 with h | h | h <;> contradiction), if_neg Bool.false_ne_true]

variable (h : code.toNat = 1 ∨ code.toNat = 3 ∨ code.toNat = 5) (hl : ¬ (s.fuses.locked 1 = true ∧ (code.toNat = 3 ∨ code.toNat = 5)))
include h hl

theorem exec_wrapperInstruction_test : exec (.wrapperInstruction code) s =
    if s.testing ∨ s.porst = true then .next (s.hold (s.enterTest code.toNat))
    else .next (s.hold { s.classX { code := 0x0712, cls := .x, unit := 0x000F, arg0 := code.toNat } with testPending := code.toNat }) := by
  have hlocked : (s.fuses.locked 1 && (decide (code.toNat = 3) || decide (code.toNat = 5))) = false := by
    rw [← Bool.not_eq_true]
    simpa using hl
  change execWrapperInstruction code s = _
  rw [execWrapperInstruction, hlocked]
  exact if_pos ⟨h, rfl⟩

end

/-- Settles O36. -/
theorem wrapperInstructions : Obligations.WrapperInstructions := by
  unfold Obligations.WrapperInstructions
  intro s code n locked
  refine ⟨rfl, fun h => exec_wrapperInstruction_locked h.1 h.2, fun h1 h3 h5 => ⟨exec_wrapperInstruction_plain h1 h3 h5, rfl⟩,
    fun hn hl ht hp => ?_, fun hn hl hp => ?_⟩
  · have hnone : ¬ (s.testing ∨ s.porst = true) := by simp [ht, hp]
    have hfall := falling_classX s { code := 0x0712, cls := .x, unit := 0x000F, arg0 := n }
    refine ⟨_, (exec_wrapperInstruction_test hn hl).trans (if_neg hnone), rfl, hfall.fall, level_of_fall hfall.fall, hfall.wir, hfall.ended⟩
  · have hcode : ¬ ((n = 3 ∨ n = 5) ∧ s.porst = false) := fun h => by rw [hp] at h; cases h.2
    have henter : s.enterTest n = { s with wir := n, testPending := 0 } := by rw [State.enterTest, if_neg hcode]
    rw [exec_wrapperInstruction_test hn hl, if_pos (.inr hp), henter]
    rfl

/-! ### Clocks -/

section
variable {s : State} {khz : List Word32} (hs : Awake s) (hlen : khz.length = channels s.cfg)
include hs hlen

theorem exec_clockCheck : exec (.clockCheck khz) s = .next (s.hold
    (if ({ s with clocks := khz.map BitVec.toNat } : State).level < 2 then { s with clocks := khz.map BitVec.toNat }
    else match (khz.map BitVec.toNat).zipIdx.find? (fun (x : Nat × Nat) => !clockOk x.1) with
      | some x => ({ s with clocks := khz.map BitVec.toNat } : State).classX { code := 0x0711, cls := .x, unit := 0x0002, index := x.2, arg0 := x.1 }
      | none => { s with clocks := khz.map BitVec.toNat })) := by
  change execClockCheck khz s = _
  rw [execClockCheck, act_awake s _ hs]
  exact congrArg (fun u => Host.Outcome.next (s.hold u)) (if_neg (not_not.mpr hlen))

end

/-- The first value of a list that fails a test. -/
theorem find?_zipIdx_first {p : Nat → Bool} {l : List Nat} {i : Nat} (hi : i < l.length) (hp : p (l.getD i 0) = true)
    (hbefore : ∀ j, j < i → p (l.getD j 0) = false) : l.zipIdx.find? (fun x => p x.1) = some (l.getD i 0, i) := by
  have hget : ∀ j (hj : j < l.zipIdx.length), l.zipIdx[j] = (l.getD j 0, j) := fun j hj => by
    rw [List.length_zipIdx] at hj
    simp [List.getD_eq_getElem?_getD, hj]
  refine List.find?_eq_some_iff_getElem.mpr ⟨hp, i, by rw [List.length_zipIdx]; exact hi, hget i _, fun j hj => ?_⟩
  rw [hget j]
  exact congrArg not (hbefore j hj)

/-- A sample is taken; where a re-read is due it starts when it can. -/
theorem exec_tempSample {s : State} {code : Byte} (hs : Awake s) : exec (.tempSample code) s = .next (s.hold
    (when (decide (1 ≤ s.level) && s.fuses.read && (!s.fuses.firstTemp || decide (code.toNat / 20 ≠ s.fuses.band)))
      (fun u => ({ u with fuses := { u.fuses with firstTemp := true, band := code.toNat / 20, due := true } } : State).fuseStart)
      (s.modSmp (fun m => { m with temp := code, tempKnown := true })))) := by
  change execTempSample code s = _
  rw [execTempSample, act_awake s _ hs]
  exact congrArg (fun u => Host.Outcome.next (s.hold u)) (if_neg (Bool.eq_false_iff.mp hs.2))

/-- Settles O38. -/
theorem clocksAndTemperature : Obligations.ClocksAndTemperature := by
  unfold Obligations.ClocksAndTemperature
  refine fun s hs => ⟨fun khz hlen => ⟨fun h => ?_, fun hlvl ch hch hbad hgood => ?_⟩, fun code => ⟨fun h => ?_, fun hl hr hb hp hc => ?_⟩⟩
  · rw [exec_clockCheck hs hlen]
    split
    · rfl
    next hlvl =>
      have hall := h.resolve_left hlvl
      have hnone : (khz.map BitVec.toNat).zipIdx.find? (fun (x : Nat × Nat) => !clockOk x.1) = none := by
        refine List.find?_eq_none.mpr fun x hx => ?_
        rw [List.all_eq_true.mp hall x.1 (List.fst_mem_of_mem_zipIdx hx)]
        decide
      rw [hnone]
      rfl
  · have hlow : ¬ ({ s with clocks := khz.map BitVec.toNat } : State).level < 2 := Nat.not_lt.mpr hlvl
    have hfirst := find?_zipIdx_first (p := fun x => !clockOk x) hch (by simp only [hbad]; rfl) (fun j hj => by simp only [hgood j hj]; rfl)
    rw [exec_clockCheck hs hlen, if_neg hlow, hfirst]
  · have hskip : ((decide (1 ≤ s.level)) && s.fuses.read && (!s.fuses.firstTemp || decide (code.toNat / 20 ≠ s.fuses.band))) = false := by
      rcases h with h | h | ⟨h, hb⟩
      · simp [h]
      · simp [h]
      · simp [h, show code.toNat / 20 = s.fuses.band from hb]
    rw [exec_tempSample hs]
    exact congrArg (fun u => Host.Outcome.next (s.hold u)) (when_of_false hskip _ _)
  · have htaken : ((decide (1 ≤ s.level)) && s.fuses.read && (!s.fuses.firstTemp || decide (code.toNat / 20 ≠ s.fuses.band))) = true := by
      simpa [hl, hr] using hb
    rw [exec_tempSample hs]
    refine (congrArg (fun u => Host.Outcome.next (s.hold u)) (when_of_true htaken _ _)).trans ?_
    have hstart : ∀ u : State, u.fuses.due = true → u.fusePass = none → u.fw.commit = none → u.fuseStart =
        { u with fuses := { u.fuses with due := false }, fusePass := some { word := 0, margin := 0 } } := fun u h1 h2 h3 => by
      rw [State.fuseStart, h3]
      exact if_pos (by simp [h1, h2])
    rw [hstart _ rfl (by exact hp) (by exact hc)]
    rfl

end Sys2Proof.Machine
end

section
/-! What the datapath leaves alone: steps, rounds, slots, captures, packets and the fences of units never write the resets, the levels, the
firmware's state, the fuses' values or what discovery found. -/

namespace Sys2Proof.Machine

-- One thread: the proofs below would take a stack each.
set_option Elab.async false

open Sys2Proof.Bits

/-! ### The frame -/

/-- What fences and the datapath leave alone: the management port but its events, the firmware but the fences of its slots, the fuses but
what is reported of them, discovery, the resets and the admitted Formula. -/
def State.frame (s : State) : Cfg × Bool × Bool × Discovery × Option Formula × Firmware × (Nat → SlotSt) × Fuses × Smp :=
  (s.cfg, s.wrst, s.fall, s.disc, s.formula, { s.fw with slots := Vector.replicate 2 {} }, fun i => (s.codeSlot i).st,
    { s.fuses with marginal := 0, stillOff := 0 }, { s.smp with events := [], dropped := 0 })

/-- Two states agree in the frame. -/
def Kept (s t : State) : Prop := t.frame = s.frame

theorem Kept.refl (s : State) : Kept s s := rfl

theorem Kept.trans {s t u : State} (h : Kept s t) (h' : Kept t u) : Kept s u := Eq.trans h' h

theorem kept_eachIn {α : Type} {f : State → α → State} (h : ∀ s a, Kept s (f s a)) (l : List α) (s : State) : Kept s (eachIn l f s) :=
  eachIn_related Kept.refl Kept.trans f h l s

section
variable {s t u : State} (h : Kept s t)
include h

/-- A write outside the frame. -/
theorem Kept.same (hu : u.frame = t.frame := by rfl) : Kept s u := Eq.trans hu h

theorem Kept.modShard (i : Nat) (f : Shard → Shard) : Kept s (t.modShard i f) := h.same

theorem Kept.modWin (w : Nat) (f : Win → Win) : Kept s (t.modWin w f) := h.same

theorem Kept.modRun (f : Run → Run) : Kept s (t.modRun f) := h.same

theorem Kept.modStep (n : Nat) (f : StepSt → StepSt) : Kept s (t.modStep n f) := h.same

theorem Kept.ite {p : Prop} [Decidable p] (hu : Kept s u) : Kept s (if p then t else u) := by
  split
  · exact h
  · exact hu

theorem Kept.post (code cat cls a0 a1 a2 : Nat) : Kept s (t.post code cat cls a0 a1 a2) := by
  obtain ⟨ev, dr, hp⟩ := t.post_writes code cat cls a0 a1 a2
  rw [hp]
  exact h.same

theorem Kept.error (e : ErrSpec) : Kept s (t.error e) := by
  obtain ⟨l, ev, dr, b, he⟩ := t.error_posts e
  rw [he]
  exact h.same

theorem Kept.blot (r : List Byte) : Kept s (t.blot r) := by
  obtain ⟨b, hb⟩ := t.blot_writes r
  rw [hb]
  exact h.same

theorem Kept.each {α : Type} {f : State → α → State} (hf : ∀ s a, Kept s (f s a)) (l : List α) : Kept s (eachIn l f t) :=
  h.trans (kept_eachIn hf l t)

end

theorem kept_blotPair (s : State) (a b : List Byte) : Kept s (s.blotPair a b) := by
  unfold State.blotPair
  split_ifs <;> exact rfl

theorem kept_countRecord (s : State) (num n : Nat) : Kept s (s.countRecord num n) := by
  unfold State.countRecord
  dsimp only
  split_ifs <;> exact rfl

theorem kept_countAll (s : State) (k : Counts) : Kept s (s.countAll k) := by
  have step : ∀ {t : State}, Kept s t → ∀ num n, Kept s (t.countRecord num n) := fun h num n => h.trans (kept_countRecord _ num n)
  exact step (step (step (step (step (step (step (step (step (step (step (.refl s) 1 _) 2 _) 3 _) 4 _) 5 _) 6 _) 7 _) 8 _) 9 _) 10 _) 11 _

/-! ### Packets -/

theorem kept_noRoute (s : State) (dst : Nat) : Kept s (s.noRoute dst) := ((Kept.refl s).same (u := s.count 4 2 11 1)).error _

theorem kept_appendBatch (s : State) (dst : Nat) (k : Packet) : Kept s (s.appendBatch dst k) := by
  unfold State.appendBatch
  extract_lets k' openB fits u
  have hu : Kept s u := Kept.ite (Kept.refl s).same (Kept.refl s).same
  split
  · exact hu
  · exact hu.same

theorem kept_routePacket (s : State) (k : Packet) : Kept s (s.routePacket k) := by
  unfold State.routePacket
  extract_lets r u
  have hu : Kept s u := kept_eachIn (fun s i => ((Kept.refl s).same (u := s.count 4 2 10 1)).error _) _ s
  split
  · exact hu.trans (kept_noRoute _ _)
  · extract_lets port
    split_ifs
    · exact hu.trans (kept_noRoute _ _)
    · exact hu.trans (kept_appendBatch _ _ k)
    · exact hu.trans (kept_appendBatch _ _ k)
    · exact hu.same

theorem kept_send (s : State) (type dst : Nat) (poison : Bool) (payload : List Byte) : Kept s (s.send type dst poison payload) := by
  unfold State.send
  split
  · exact .refl s
  · exact kept_routePacket s _

theorem Kept.send {s t : State} (h : Kept s t) (type dst : Nat) (poison : Bool) (payload : List Byte) : Kept s (t.send type dst poison payload) :=
  h.trans (kept_send t type dst poison payload)

theorem kept_sendData (s : State) (type dst gen part group noff : Nat) (bs : List Byte) :
    Kept s (s.sendData type dst gen part group noff bs) := kept_eachIn (fun s _ => kept_send s _ _ _ _) _ s

/-! ### Captures and emissions -/

theorem kept_emissionEnd (s : State) (gen : Nat) (failed : Bool) (cause : Nat) : Kept s (s.emissionEnd gen failed cause) := by
  unfold State.emissionEnd
  dsimp only
  exact (((Kept.refl s).post _ _ _ _ _ _).blot _).trans (by split <;> exact rfl)

theorem kept_queueFar (s : State) (gen shard : Nat) (paced : Bool) (ps : List OutPage) : Kept s (s.queueFar gen shard paced ps) := by
  unfold State.queueFar
  dsimp only
  split
  · exact rfl
  · exact (((Kept.refl s).error _).post _ _ _ _ _ _).trans (kept_emissionEnd _ gen true 8)

theorem kept_sendNear (s : State) (gen i : Nat) (d : Desc) (k : Nat) (el sc : List Byte) : Kept s (s.sendNear gen i d k el sc) := by
  unfold State.sendNear
  split
  · exact .refl s
  · split
    · exact .refl s
    · exact ((kept_sendData s _ _ _ _ _ _ _).trans (kept_sendData _ _ _ _ _ _ _ _)).same

theorem kept_finishCapture (s : State) (paced : Bool) : Kept s (s.finishCapture paced) := by
  unfold State.finishCapture
  split
  · exact .refl s
  · dsimp only
    split
    · exact .refl s
    · have hfar : ∀ f g n ps, Kept s (((s.modEmission f)).queueFar g n paced ps) := fun f g n ps =>
        ((Kept.refl s).same (u := s.modEmission f)).trans (kept_queueFar _ g n paced ps)
      split
      · split
        · exact hfar _ _ _ _
        · exact ((hfar _ _ _ _).trans (kept_sendData _ _ _ _ _ _ _ _)).send _ _ _ _
      · exact hfar _ _ _ _

theorem kept_capture (s : State) (paced : Bool) (i stream k : Nat) : Kept s (s.capture paced i stream k) := by
  unfold State.capture
  split
  · split
    · exact .refl s
    · split
      · exact .refl s
      · extract_lets t el sc u v w
        have hv : Kept s v := ((Kept.refl s).same (u := u)).each (fun x p => by
          split
          · exact kept_queueFar x _ _ _ _
          · exact .refl x) _
        have hw : Kept s w := Kept.ite (hv.trans (kept_sendNear _ _ _ _ _ _ _)) hv
        exact hw.trans (kept_finishCapture _ paced)
  · exact .refl s

theorem kept_beginEmission (s : State) (v : CutVals) (near paced : Bool) : Kept s (s.beginEmission v near paced) := by
  unfold State.beginEmission
  extract_lets l u v w
  have hu : Kept s u := rfl
  have hv : Kept u v := by
    simp only [v]
    split
    · exact (kept_sendData u _ _ _ _ _ _ _).same
    · exact .refl u
  exact ((hu.trans hv).each (fun x (y : Nat × Nat × Nat) => kept_capture x paced y.1 y.2.1 y.2.2) _).trans (kept_finishCapture _ paced)

/-! ### Rounds and cuts -/

theorem kept_envelope (s : State) (shard step reason : Nat) : Kept s (s.envelope shard step reason) := by
  unfold State.envelope
  split
  · exact .refl s
  · extract_lets u v
    have hu : Kept s u := rfl
    have hv : Kept s (u.post 0x0101 0 7 shard step reason) := hu.post _ _ _ _ _ _
    exact hv.same

theorem kept_scalarHeld (s : State) (shards : List Nat) (step : Nat) : Kept s (s.scalarHeld shards step) :=
  kept_eachIn (fun s i => kept_envelope s i step envScalar) _ s

theorem kept_mark (s : State) (n : Nat) (f : StepTimes → StepTimes) : Kept s (s.mark n f) := by
  unfold State.mark
  split
  · exact rfl
  · exact .refl s

theorem Kept.mark {s t : State} (h : Kept s t) (n : Nat) (f : StepTimes → StepTimes) : Kept s (t.mark n f) := h.trans (kept_mark t n f)

theorem kept_cutReturned (s : State) (n total : Nat) (poison : Bool) : Kept s (s.cutReturned n total poison) := by
  unfold State.cutReturned
  split
  · exact kept_scalarHeld s _ _
  · extract_lets own u v w x y z a
    have hu : Kept s u := rfl
    have hv : Kept s v := hu.mark n _
    split_ifs
    · exact hv.error _
    · have hx : Kept s x := (hv.same (u := w)).mark n _
      exact hx.trans (kept_beginEmission x _ _ _)
    · have hy : Kept s y := hv.same
      have hz : Kept s z := Kept.ite (hy.post _ _ _ _ _ _) hy
      have ha : Kept s a := hz.mark n _
      exact ha.same

/-- A use of a round's total that keeps the frame. -/
def KeptUse (use : State → Round → (Nat × Nat) → Bool → State) : Prop := ∀ s r v p, Kept s (use s r v p)

section
variable {use : State → Round → (Nat × Nat) → Bool → State} (huse : KeptUse use)
include huse

theorem kept_roundTotal (r : Round) (v : Nat × Nat) (poison : Bool) (s : State) : Kept s (s.roundTotal use r v poison) := by
  unfold State.roundTotal
  extract_lets u w
  have hw : Kept s w := ((Kept.refl s).same (u := u)).each (fun x c => kept_send x _ _ _ _) _
  exact hw.trans (huse w r v poison)

theorem kept_roundTry (kind step group : Nat) (s : State) : Kept s (s.roundTry use kind step group) := by
  unfold State.roundTry
  extract_lets r
  split
  · exact .refl s
  · split
    · exact .refl s
    · split
      · exact ((Kept.refl s).same (u := s.putRound _)).send _ _ _ _
      · exact kept_roundTotal huse r _ _ s

theorem kept_roundOwn (kind step group : Nat) (v : Nat × Nat) (s : State) : Kept s (s.roundOwn use kind step group v) := by
  unfold State.roundOwn
  extract_lets r
  split
  · exact .refl s
  · exact ((Kept.refl s).same (u := s.putRound _)).trans (kept_roundTry huse kind step group _)

end

theorem keptUse_cut : KeptUse useCut := fun s r v p => kept_cutReturned s r.step v.1 p

theorem kept_cutTry (s : State) (n : Nat) : Kept s (s.cutTry n) := by
  unfold State.cutTry
  extract_lets t
  split
  · exact ((Kept.refl s).same (u := s.modStep n _)).trans (kept_roundOwn keptUse_cut _ _ _ _ _)
  · exact .refl s

theorem keptUse_norm : KeptUse useNorm := by
  intro s r v p
  unfold useNorm
  extract_lets own bad u rec'
  split
  · exact kept_scalarHeld s _ _
  · have hu : Kept s u := Kept.ite ((Kept.refl s).post _ _ _ _ _ _) (.refl s)
    split
    · exact hu.each (fun x i => (Kept.refl x).modShard i _) _
    · exact hu

theorem kept_normTry (s : State) (n g : Nat) : Kept s (s.normTry n g) := by
  unfold State.normTry
  extract_lets own ok t q
  split_ifs
  · exact .refl s
  · exact .refl s
  · exact kept_roundOwn keptUse_norm _ _ _ _ s

theorem kept_normIdle (s : State) (n : Nat) : Kept s (s.normIdle n) := kept_eachIn (fun s _ => kept_normTry s _ _) _ s

/-! ### Slots and decisions -/

theorem kept_blotCompletion (s : State) (kind step : Nat) (r : List Byte) : Kept s (s.blotCompletion kind step r) := by
  unfold State.blotCompletion
  split
  · exact kept_blotPair s _ _
  · exact .refl s

theorem kept_skippedRecords (s : State) (n : Nat) : Kept s (s.skippedRecords n) :=
  kept_eachIn (fun s i => by
    split
    · exact .refl s
    · exact kept_eachIn (fun s p => kept_blotCompletion s _ _ _) _ s) _ s

theorem kept_captureGrad (s : State) (i n : Nat) (e : ShardEntry) (r : List Nat) : Kept s (s.captureGrad i n e r) := by
  unfold State.captureGrad
  split
  · extract_lets bs u v
    split
    · exact rfl
    · have hu : Kept s u := ((Kept.refl s).same (u := s.count 6 0 6 1)).error _
      have hv : Kept s v := Kept.ite hu hu.same
      exact hv.same
  · exact .refl s

theorem kept_lateArrival (s : State) (i step at' : Nat) : Kept s (s.lateArrival i step at') := by
  unfold State.lateArrival
  split
  · exact .refl s
  · split
    · exact .refl s
    · split
      · exact kept_envelope s _ _ _
      · exact .refl s

theorem kept_intakeError (s : State) (w num code arg shard : Nat) : Kept s (s.intakeError w num code arg shard) :=
  ((Kept.refl s).same (u := s.count 2 w num 1)).error _

theorem kept_acceptCheck (s : State) (w : Nat) (l : Landed) : Kept s (s.acceptCheck w l).1 := by
  unfold State.acceptCheck
  extract_lets h
  split
  · exact (kept_intakeError s _ _ _ _ _).same
  · split
    · extract_lets u
      have hu : Kept s u := Kept.ite (kept_intakeError s _ _ _ _ _) (((Kept.refl s).same (u := s.count 2 w iDuplicate 1)).error _)
      exact hu.same
    · exact ((((((Kept.refl s).modWin w _).modShard _ _).modStep _ _).modRun _).modShard _ _).trans (kept_lateArrival _ _ _ _)

theorem kept_promote (s : State) (i : Nat) : Kept s (s.promote i) := by
  unfold State.promote
  exact kept_eachIn (fun s (p : Nat × Landed) => kept_acceptCheck s p.1 p.2) _ s

/-- The books of a slot that closes (R78, R141). -/
def State.bookSlot (s : State) (i : Nat) (skip : Bool) (e : ShardEntry) (t : Slot) : State :=
  let h := s.shard i
  let s := s.countAll t.counts
  let s := match t.result with
    | some r => if s.owns e && !skip then s.captureGrad i t.step e r else s
    | none => s
  let kept := if s.owns e && !skip && s.digestStep t.step then t.result.map (fun r => (t.step, r)) else none
  let track := e.wtrack && !skip && !s.shardBad i
  let hist := match track, t.eMax with
    | true, some x => (x :: h.whist).take 16
    | _, _ => h.whist
  let w := if !track then h.w
    else if s.owns e then nextW s.form.consts.wxH s.form.consts.wxM hist h.w
    else (Config.freeNat s.free % 254 : Nat) - 126
  let s := if track && !s.owns e then s.tickFree else s
  s.modShard i (fun x => { x with
    gKept := if kept.isSome then kept else x.gKept, whist := hist, w := w,
    rcvdPast := x.rcvdPast ++ t.rcvd.map (fun (p : Nat × Nat) => (t.step, p.1, p.2)) })

/-- The intake step of a shard advances (R133). -/
def State.advanceIntake (s : State) (i : Nat) : State :=
  (s.modShard i (fun x => { x with slot := none, intakeStep := x.intakeStep + 1, taken := [] })).promote i

theorem closeSlot_none {s : State} {i : Nat} (skip : Bool) (h : shardEntry s.form i = none) : s.closeSlot i skip = s := by
  rw [State.closeSlot, h]

theorem closeSlot_empty {s : State} {i : Nat} (skip : Bool) {e : ShardEntry} (h : shardEntry s.form i = some e) (hs : (s.shard i).slot = none) :
    s.closeSlot i skip = s.advanceIntake i := by
  rw [State.closeSlot, h]
  dsimp only
  rw [hs]
  rfl

theorem closeSlot_open {s : State} {i : Nat} (skip : Bool) {e : ShardEntry} {t : Slot} (h : shardEntry s.form i = some e)
    (hs : (s.shard i).slot = some t) : s.closeSlot i skip = (s.bookSlot i skip e t).advanceIntake i := by
  rw [State.closeSlot, h]
  dsimp only
  rw [hs]
  rfl

theorem kept_bookSlot (s : State) (i : Nat) (skip : Bool) (e : ShardEntry) (t : Slot) : Kept s (s.bookSlot i skip e t) := by
  unfold State.bookSlot
  extract_lets h u v kept track hist w x
  have hu : Kept s u := kept_countAll s _
  have hv : Kept s v := by
    simp only [v]
    split
    · exact Kept.ite (hu.trans (kept_captureGrad _ _ _ _ _)) hu
    · exact hu
  have hx : Kept s x := Kept.ite hv.same hv
  exact hx.same

theorem kept_advanceIntake (s : State) (i : Nat) : Kept s (s.advanceIntake i) :=
  ((Kept.refl s).same (u := s.modShard i _)).trans (kept_promote _ i)

theorem kept_closeSlot (s : State) (i : Nat) (skip : Bool) : Kept s (s.closeSlot i skip) := by
  cases he : shardEntry s.form i with
  | none => rw [closeSlot_none skip he]; exact .refl s
  | some e =>
    cases hs : (s.shard i).slot with
    | none => rw [closeSlot_empty skip he hs]; exact kept_advanceIntake s i
    | some t => rw [closeSlot_open skip he hs]; exact (kept_bookSlot s i skip e t).trans (kept_advanceIntake _ i)

theorem kept_digests (s : State) (i n : Nat) (e : ShardEntry) (skipped : Bool) : Kept s (s.digests i n e skipped) := by
  unfold State.digests
  extract_lets g w0 w1
  split
  · exact .refl s
  · exact kept_eachIn (fun s j => (Kept.refl s).blot _) _ s

theorem kept_skipDigest (s : State) (i n : Nat) : Kept s (s.skipDigest i n) := by
  unfold State.skipDigest
  split
  · exact .refl s
  · exact Kept.ite (.refl s) (kept_digests s _ _ _ _)

theorem kept_skipStep (s : State) (n nf : Nat) : Kept s (s.skipStep n nf) := by
  unfold State.skipStep
  extract_lets a b c d e f g
  have ha : Kept s a := rfl
  have hb : Kept s b := ha.trans (kept_skippedRecords a n)
  have hc : Kept s c := hb.each (fun x i => kept_skipDigest x i n) _
  have hd : Kept s d := hc.each (fun x i => (Kept.refl x).modShard i _) _
  have he : Kept s e := hd.each (fun x i => Kept.ite (kept_closeSlot x i true) (.refl x)) _
  have hf : Kept s f := he.mark n _
  exact (hf.blot _).trans (kept_cutTry g n)

theorem kept_decideStep (s : State) (n nf : Nat) (skipped : Bool) : Kept s (s.decideStep n nf skipped) := by
  unfold State.decideStep
  extract_lets lg u a b c
  split
  · exact .refl s
  · have hc : Kept s c := (((Kept.refl s).modRun _).modStep n _).modRun _
    split
    · exact hc.trans (kept_skipStep c n nf)
    · exact Kept.trans (Kept.ite (hc.trans (kept_normIdle c n)) hc) (kept_cutTry _ n)

theorem keptUse_count : KeptUse useCount := fun s _ _ _ => Kept.ite (kept_scalarHeld s _ _) (kept_decideStep s _ _ _)

theorem kept_countTry (s : State) (n : Nat) : Kept s (s.countTry n) := by
  unfold State.countTry
  extract_lets t
  split
  · exact ((Kept.refl s).same (u := s.modStep n _)).trans (kept_roundOwn keptUse_count _ _ _ _ _)
  · exact .refl s

theorem kept_sendPoisoned (s : State) (i step : Nat) (e : ShardEntry) : Kept s (s.sendPoisoned i step e) := by
  unfold State.sendPoisoned
  split
  · exact kept_eachIn (fun s j => kept_send s _ _ _ _) _ s
  · exact .refl s

theorem kept_poisonSlot (s : State) (i : Nat) : Kept s (s.poisonSlot i) := by
  unfold State.poisonSlot
  split
  · exact .refl s
  · extract_lets n
    split
    · exact .refl s
    · exact ((kept_sendPoisoned s _ _ _).trans (kept_closeSlot _ i false)).trans (kept_countTry _ n)

theorem kept_poisonQuiet (s : State) (i : Nat) : Kept s (s.poisonQuiet i) := by
  unfold State.poisonQuiet
  extract_lets a b c
  have ha : Kept s a := rfl
  have hb : Kept s b := ha.each (fun x k => kept_eachIn (fun x st => kept_capture x false i st k) _ x) _
  have hc : Kept s c := hb.trans (kept_poisonSlot b i)
  split
  · exact hc.trans (kept_normTry c _ _)
  · exact hc

/-! ### Programs -/

theorem kept_programEnd (s : State) (prog n : Nat) (before : Bool) : Kept s (s.programEnd prog n before) := by
  unfold State.programEnd
  split
  · exact .refl s
  · extract_lets a b c d e
    have ha : Kept s a := rfl
    have hb : Kept s b := ha.trans (kept_blotCompletion a _ _ _)
    have hc : Kept s c := hb.trans (kept_countAll b _)
    have hd : Kept s d := Kept.ite hc (hc.mark n _)
    have he : Kept s e := Kept.ite hd.same hd
    exact he.trans (kept_cutTry e n)

theorem kept_channelsDone (s : State) (p : AtmProgram) (n mask : Nat) : Kept s (s.channelsDone p n mask) := by
  unfold State.channelsDone
  extract_lets before was a b
  have hb : Kept s b := rfl
  exact Kept.ite (hb.trans (kept_programEnd b _ _ _)) hb

end Sys2Proof.Machine
end

section
/-! Proof of O34, O39 and O40: the end of a fall (R30, R313, R320, R387), the ROM start (R352, R353, R359) and the warm reset (R320, R366,
R367). First the fences of units and the boot read of the fuses, then the boots. -/

namespace Sys2Proof.Machine

open Sys2Proof.Bits

/-! ### What the frame says -/

section
variable {s t : State} (h : Kept s t)
include h

theorem Kept.cfg : t.cfg = s.cfg := congrArg (fun x => x.1) h

theorem Kept.wrst : t.wrst = s.wrst := congrArg (fun x => x.2.1) h

theorem Kept.fall : t.fall = s.fall := congrArg (fun x => x.2.2.1) h

theorem Kept.disc : t.disc = s.disc := congrArg (fun x => x.2.2.2.1) h

theorem Kept.formula : t.formula = s.formula := congrArg (fun x => x.2.2.2.2.1) h

theorem Kept.fw : { t.fw with slots := Vector.replicate 2 {} } = { s.fw with slots := Vector.replicate 2 {} } := congrArg (fun x => x.2.2.2.2.2.1) h

theorem Kept.slot (i : Nat) : (t.codeSlot i).st = (s.codeSlot i).st := congrFun (congrArg (fun x => x.2.2.2.2.2.2.1) h) i

theorem Kept.fuses : { t.fuses with marginal := 0, stillOff := 0 } = { s.fuses with marginal := 0, stillOff := 0 } :=
  congrArg (fun x => x.2.2.2.2.2.2.2.1) h

theorem Kept.smp : { t.smp with events := [], dropped := 0 } = { s.smp with events := [], dropped := 0 } :=
  congrArg (fun x => x.2.2.2.2.2.2.2.2) h

end

/-! ### Fences of units -/

theorem Kept.of_chansOut {s t : State} (h : ChansOut s t) : Kept s t := by
  obtain ⟨v, o, rfl⟩ := h
  exact rfl

theorem kept_fenceChannel (s : State) (ch : Nat) : Kept s (s.fenceChannel ch) := by
  unfold State.fenceChannel
  extract_lets a b c d e
  have hc : Kept s c := ((Kept.of_chansOut (chansOut_transit s ch .toMem)).same (u := b)).same
  split
  · exact .refl s
  · split
    · exact hc
    · have hd : Kept s d := hc.same
      have he : Kept s e := Kept.ite (hd.each (fun x i => Kept.ite (.refl x) (kept_poisonQuiet x i)) _) hd
      refine he.each (fun x w => ?_) _
      exact ((Kept.refl x).same (u := x.modResult w.1.prog w.2 _)).trans (kept_channelsDone _ w.1 w.2 _)

theorem kept_moveStill (s : State) (k : Nat) : Kept s (s.moveStill k) := by
  unfold State.moveStill
  split
  · extract_lets run a b hit c
    have ha : Kept s a := rfl
    have hb : Kept s b := Kept.ite ha.same ha
    have hc : Kept s c := hb.each (fun x p => kept_envelope x _ _ _) _
    exact hc.same
  · exact rfl

theorem kept_dropStill (s : State) (i : Nat) : Kept s (s.dropStill i) := by
  unfold State.dropStill
  extract_lets ks a
  have ha : Kept s a := rfl
  split
  · exact .refl s
  · exact ha.each (fun x k => kept_moveStill x k) _

theorem kept_fenceStillBy (s : State) (i : Nat) (mk : Nat → Nat → ErrSpec) : Kept s (s.fenceStillBy i mk) := by
  unfold State.fenceStillBy
  extract_lets ks a lost
  have ha : Kept s a := kept_dropStill s i
  split
  · exact (Kept.refl s).error _
  · clear_value lost
    cases lost with
    | some k => exact ha.error _
    | none => exact ha.error _

theorem codeSlot_modFw_slots (s : State) (v : Vector CodeSlot 2) (i : Nat) :
    (s.modFw (fun w => { w with slots := v })).codeSlot i = getV v i {} := rfl

theorem kept_fenceSlot (s : State) (j : Nat) :
    Kept s (s.modFw (fun f => { f with slots := modV f.slots j (fun c => { c with fenced := true }) })) := by
  have hslots : (fun i => (getV (modV s.fw.slots j (fun c => { c with fenced := true })) i {}).st) = fun i => (getV s.fw.slots i {}).st := by
    funext i
    by_cases hij : j = i
    · subst hij
      by_cases hj : j < 2
      · rw [getV_modV_self _ _ _ _ hj]
      · have hnone : s.fw.slots[j]? = none := Vector.getElem?_eq_none (Nat.not_lt.mp hj)
        simp [getV, modV, List.getD_eq_getElem?_getD, hnone]
    · rw [getV_modV_ne _ _ _ _ _ hij]
  exact congrArg (fun g : Nat → SlotSt => (s.cfg, s.wrst, s.fall, s.disc, s.formula, { s.fw with slots := Vector.replicate 2 {} }, g,
    { s.fuses with marginal := 0, stillOff := 0 }, { s.smp with events := [], dropped := 0 })) hslots

theorem kept_fenceRepair (s : State) (w : Nat) (u : Nat × Nat) : Kept s (s.fenceRepair w u) := by
  unfold State.fenceRepair
  extract_lets e
  split_ifs
  · exact ((Kept.refl s).same (u := { s with fuses := { s.fuses with stillOff := Nat.lor s.fuses.stillOff (2 ^ u.2) } })).trans (kept_fenceStillBy _ _ _)
  · exact kept_fenceStillBy s _ _
  · exact ((kept_fenceChannel s _).same (u := (s.fenceChannel u.2).modChan u.2 _)).error e
  · exact (kept_fenceSlot s u.2).error e

theorem kept_reportMarginal (s : State) (w cls again : Nat) (units : List (Nat × Nat)) : Kept s (s.reportMarginal w cls again units) := by
  unfold State.reportMarginal
  extract_lets a f b
  have ha : Kept s a := ((Kept.refl s).post 0x0616 5 7 w cls again).same
  have hb : Kept s b := ha.same
  split
  · exact hb.error _
  · exact hb.each (fun x u => kept_fenceRepair x w u) _

theorem kept_reportBoot (s : State) (fs : List FuseReads) : Kept s (s.reportBoot fs) := by
  unfold State.reportBoot
  refine kept_eachIn (fun x w => ?_) _ s
  split
  · exact Kept.ite (kept_reportMarginal x _ _ _ _) (.refl x)
  · exact .refl x

/-- The fuses latched and the stack discovered (R355, R359). -/
def State.latched (s : State) (fs : List FuseReads) : State :=
  { s with fuses := { latchFuses fs s.fuses with marginal := 0 }, disc := discover s.cfg fs, fusePass := none }

theorem kept_unfenceSlots (s : State) :
    Kept s (s.modFw (fun w => { w with slots := mapV (fun (c : CodeSlot) => { c with fenced := false }) w.slots })) := by
  have hslots : (fun i => (getV (mapV (fun (c : CodeSlot) => { c with fenced := false }) s.fw.slots) i {}).st) =
      fun i => (getV s.fw.slots i {}).st := by
    funext i
    by_cases hi : i < 2
    · rw [getV_mapV _ _ _ _ hi]
    · have hnone : s.fw.slots[i]? = none := Vector.getElem?_eq_none (Nat.not_lt.mp hi)
      simp [getV, mapV, List.getD_eq_getElem?_getD, hnone]
  exact congrArg (fun g : Nat → SlotSt => (s.cfg, s.wrst, s.fall, s.disc, s.formula, { s.fw with slots := Vector.replicate 2 {} }, g,
    { s.fuses with marginal := 0, stillOff := 0 }, { s.smp with events := [], dropped := 0 })) hslots

theorem kept_bootRead (s : State) (fs : List FuseReads) : Kept (s.latched fs) (s.bootRead fs) := by
  unfold State.bootRead
  extract_lets a f b c d e
  have hc : Kept (s.latched fs) c := kept_unfenceSlots (s.latched fs)
  have hd : Kept (s.latched fs) d := hc.each (fun x i => kept_dropStill x i) _
  have he : Kept (s.latched fs) e := hd.each (fun x i => (kept_fenceChannel x i).same) _
  exact he.trans (kept_reportBoot e fs)

/-! ### The cores (R352) -/

/-- A core that fails its self-check. -/
def State.failCore (s : State) (i : Nat) : State :=
  (s.modFw (fun w => { w with coreFenced := setV w.coreFenced i true })).error { code := 0x0701, cls := .f, unit := 0x0006, index := i, arg0 := 2 }

theorem failCore_writes (s : State) (i : Nat) : ∃ l ev dr b, s.failCore i =
    { s with log := l, smp := { s.smp with events := ev, dropped := dr }, blotter := b, fw := { s.fw with coreFenced := setV s.fw.coreFenced i true } } := by
  obtain ⟨l, ev, dr, b, h⟩ := State.error_posts (s.modFw (fun w => { w with coreFenced := setV w.coreFenced i true }))
    { code := 0x0701, cls := .f, unit := 0x0006, index := i, arg0 := 2 }
  exact ⟨l, ev, dr, b, h⟩

/-- The cores that are fenced after their self-checks. -/
def coresOut (r : RomStart) (v : Vector Bool 2) : Vector Bool 2 :=
  let v := if r.core0 then v else setV v 0 true
  if r.core1 then v else setV v 1 true

theorem startCores_eq (s : State) (r : RomStart) : s.startCores r =
    (let u := if r.core0 then s else s.failCore 0
     let u := if r.core1 then u else u.failCore 1
     u.modFw (fun w => { w with core := if w.coreOut 0 then 1 else 0 })) := rfl

/-- The self-checks write the fences of the cores, the active core, and records. -/
theorem startCores_writes (s : State) (r : RomStart) : ∃ l ev dr b, s.startCores r =
    { s with log := l, smp := { s.smp with events := ev, dropped := dr }, blotter := b,
             fw := { s.fw with coreFenced := coresOut r s.fw.coreFenced, core := if getV (coresOut r s.fw.coreFenced) 0 false then 1 else 0 } } := by
  have hfail : ∀ (ok : Bool) (i : Nat) (u : State), ∃ l ev dr b, (if ok then u else u.failCore i) =
      { u with log := l, smp := { u.smp with events := ev, dropped := dr }, blotter := b,
               fw := { u.fw with coreFenced := if ok then u.fw.coreFenced else setV u.fw.coreFenced i true } } := fun ok i u => by
    cases ok with
    | true => exact ⟨_, _, _, _, rfl⟩
    | false =>
      obtain ⟨l, ev, dr, b, h⟩ := failCore_writes u i
      exact ⟨l, ev, dr, b, h⟩
  rw [startCores_eq]
  dsimp only
  obtain ⟨l, ev, dr, b, h0⟩ := hfail r.core0 0 s
  obtain ⟨l', ev', dr', b', h1⟩ := hfail r.core1 1 (if r.core0 then s else s.failCore 0)
  rw [h1, h0]
  exact ⟨l', ev', dr', b', rfl⟩

section
variable {r : RomStart} {v : Vector Bool 2} (h0 : getV v 0 false = false) (h1 : getV v 1 false = false)

theorem getV_setV_self {α : Type} {n : Nat} (w : Vector α n) (i : Nat) (a d : α) (h : i < n) : getV (setV w i a) i d = a :=
  getV_modV_self w i _ d h

theorem getV_setV_ne {α : Type} {n : Nat} (w : Vector α n) (i j : Nat) (a d : α) (h : i ≠ j) : getV (setV w i a) j d = getV w j d :=
  getV_modV_ne w i j _ d h

include h0 in
theorem coresOut_zero : getV (coresOut r v) 0 false = !r.core0 := by
  unfold coresOut
  cases r.core0 <;> cases r.core1 <;> simp [getV_setV_self, getV_setV_ne, h0]

include h1 in
theorem coresOut_one : getV (coresOut r v) 1 false = !r.core1 := by
  unfold coresOut
  cases r.core0 <;> cases r.core1 <;> simp [getV_setV_self, getV_setV_ne, h1]

end

/-! ### Boots -/

/-- What the boot of an image may write: the firmware's state and events. -/
def BootWrites (s t : State) : Prop :=
  ∃ sl rm run sb sd fb so ps f ev dr, t = { s with smp := { s.smp with events := ev, dropped := dr }, fw := { s.fw with
    slots := sl, romMode := rm, running := run, standbyBoot := sb, standby := sd, fallback := fb, soloBoot := so, pendingStage := ps, fetch := f } }

theorem BootWrites.refl (s : State) : BootWrites s s := ⟨_, _, _, _, _, _, _, _, _, _, _, rfl⟩

theorem BootWrites.trans {s t u : State} (h : BootWrites s t) (h' : BootWrites t u) : BootWrites s u := by
  obtain ⟨_, _, _, _, _, _, _, _, _, _, _, rfl⟩ := h
  obtain ⟨_, _, _, _, _, _, _, _, _, _, _, rfl⟩ := h'
  exact ⟨_, _, _, _, _, _, _, _, _, _, _, rfl⟩

theorem bootWrites_post (s : State) (code cat cls a0 a1 a2 : Nat) : BootWrites s (s.post code cat cls a0 a1 a2) := by
  obtain ⟨ev, dr, h⟩ := s.post_writes code cat cls a0 a1 a2
  rw [h]
  exact ⟨_, _, _, _, _, _, _, _, _, ev, dr, rfl⟩

theorem bootWrites_modCode (s : State) (i : Nat) (f : CodeSlot → CodeSlot) : BootWrites s (s.modCode i f) :=
  ⟨_, _, _, _, _, _, _, _, _, _, _, rfl⟩

theorem bootWrites_bootSlot (s : State) (i : Nat) (st : SlotSt) (cause : Nat) : BootWrites s (s.bootSlot i st cause) := by
  unfold State.bootSlot
  extract_lets a b
  have hb : BootWrites s b := ⟨_, _, _, _, _, _, _, _, _, _, _, rfl⟩
  exact hb.trans (bootWrites_post b _ _ _ _ _ _)

theorem bootWrites_warmTry (l : List Nat) (s : State) : BootWrites s (s.warmTry l) := by
  induction l generalizing s with
  | nil => exact ⟨_, _, _, _, _, _, _, _, _, _, _, rfl⟩
  | cons i rest ih =>
    rw [State.warmTry]
    split
    · exact bootWrites_bootSlot s i _ 1
    · exact (bootWrites_modCode s i _).trans (ih _)

theorem bootWrites_warmBoot (s : State) : BootWrites s s.warmBoot := by
  unfold State.warmBoot
  extract_lets old cands a
  have ha : BootWrites s a := by
    simp only [a]
    split
    · split
      · exact bootWrites_modCode s _ _
      · exact .refl s
    · exact .refl s
  clear_value a
  split
  · exact ha.trans (bootWrites_warmTry _ a)
  · have hb : BootWrites s (a.modFw (fun w => { w with pendingStage := none, fetch := [] })) :=
      ha.trans ⟨_, _, _, _, _, _, _, _, _, _, _, rfl⟩
    split
    · exact (hb.trans (bootWrites_post _ _ _ _ _ _ _)).trans (bootWrites_warmTry _ _)
    · exact (((hb.trans (bootWrites_modCode _ _ _)).trans (bootWrites_post _ _ _ _ _ _ _)).trans (bootWrites_bootSlot _ _ _ _)).trans
        ⟨_, _, _, _, _, _, _, _, _, _, _, rfl⟩

/-- What the beginning of a raise may write. -/
def RaiseWrites (s t : State) : Prop :=
  ∃ rq pl fl ev dr dm lg bl a b c, t = { s with
    smp := { s.smp with req := rq, pendingLevel := pl, fail := fl, events := ev, dropped := dr }, doms := dm, log := lg, blotter := bl,
    fw := { s.fw with fetching := a, fetch := b, fetchFail := c } }

theorem raiseWrites_startRaise (s : State) : RaiseWrites s s.startRaise := by
  unfold State.startRaise
  extract_lets lvl
  split
  · exact ⟨_, _, _, _, _, _, _, _, _, _, _, rfl⟩
  · split
    · exact ⟨_, _, _, _, _, _, _, _, _, _, _, rfl⟩
    · split
      · exact ⟨_, _, _, _, _, _, _, _, _, _, _, rfl⟩
      · split
        · split
          · obtain ⟨l, ev, dr, b, h⟩ : ∃ l ev dr b, s.bootCheck fwNoImage = _ := State.error_posts _ _
            rw [h]
            exact ⟨_, _, _, ev, dr, _, l, b, _, _, _, rfl⟩
          · split <;> exact ⟨_, _, _, _, _, _, _, _, _, _, _, rfl⟩
        · obtain ⟨d, h⟩ := s.requestLevel_writes lvl
          rw [h]
          exact ⟨_, _, _, _, _, d, _, _, _, _, _, rfl⟩

/-- S1 is entered: the level, and what a raise beyond it begins (R329). -/
theorem enterS1_writes (s : State) : ∃ rq pl fl ev dr dm lg bl f a b c, s.enterS1 = { s with
    smp := { s.smp with level := 1, req := rq, pendingLevel := pl, fail := fl, events := ev, dropped := dr }, doms := dm, log := lg, blotter := bl,
    fabric := f, fw := { s.fw with fetching := a, fetch := b, fetchFail := c } } ∧
    (s.smp.req ≤ 1 → rq = s.smp.req ∧ pl = (s.smp.pendingLevel && decide (s.smp.req ≠ 1))) := by
  obtain ⟨ev, dr, f, h⟩ := setLevel_writes s 1 0
  have hentered : (s.setLevel 1 0).modSmp (fun m => { m with pendingLevel := s.smp.pendingLevel && decide (m.req ≠ 1) }) = { s with
      smp := { s.smp with level := 1, pendingLevel := s.smp.pendingLevel && decide (s.smp.req ≠ 1), events := ev, dropped := dr }
      fabric := f } := by
    rw [h]
    rfl
  have henter : s.enterS1 = if 1 < s.smp.req then
      ((s.setLevel 1 0).modSmp (fun m => { m with pendingLevel := s.smp.pendingLevel && decide (m.req ≠ 1) })).startRaise
    else (s.setLevel 1 0).modSmp (fun m => { m with pendingLevel := s.smp.pendingLevel && decide (m.req ≠ 1) }) := by
    unfold State.enterS1
    extract_lets u
    have hreq : u.smp.req = s.smp.req := by rw [show u = _ from hentered]
    rw [hreq]
  rw [henter, hentered]
  split
  next hreq =>
    obtain ⟨rq, pl, fl, ev', dr', dm, lg, bl, a, b, c, hr⟩ := raiseWrites_startRaise { s with
      smp := { s.smp with level := 1, pendingLevel := s.smp.pendingLevel && decide (s.smp.req ≠ 1), events := ev, dropped := dr }
      fabric := f }
    rw [hr]
    exact ⟨rq, pl, fl, ev', dr', dm, lg, bl, f, a, b, c, rfl, fun hle => absurd hreq (Nat.not_lt.mpr hle)⟩
  · exact ⟨_, _, _, _, _, _, _, _, _, _, _, _, rfl, fun _ => ⟨rfl, rfl⟩⟩

/-! ### A start without a warm boot -/

theorem disable_writes (s : State) : ∃ dm b fp, s.disable = { s with
    smp := { s.smp with fuseDisabled := true, req := 0, fail := 2, pendingLevel := false }, doms := dm, fuses := { s.fuses with read := b },
    fusePass := fp } := by
  unfold State.disable
  extract_lets u
  unfold State.powerDown
  split
  · exact ⟨_, _, _, rfl⟩
  · exact ⟨_, _, _, rfl⟩

/-- With no code slot held nothing is tried. -/
theorem warmCandidates_none {s : State} (hr : s.fw.running = none) (he : ∀ i < 2, (s.codeSlot i).st = .empty) : s.warmCandidates = [] := by
  have h0 := he 0 (by decide)
  have h1 := he 1 (by decide)
  simp [State.warmCandidates, hr, h0, h1]

theorem disabled_latchFuses_marginal (fs : List FuseReads) (f : Fuses) (so : Nat) :
    ({ latchFuses fs f with marginal := 0, stillOff := so } : Fuses).disabled = (latchFuses fs f).disabled := rfl

end Sys2Proof.Machine
end

section
/-! Proof of O39: the ROM start (R352, R353). -/

namespace Sys2Proof.Machine

open Sys2Proof.Bits

/-! ### The boot read -/

section
variable {s u : State} {fs : List FuseReads} (h : Kept (s.latched fs) u)
include h

theorem Kept.latched_core : u.fw.core = s.fw.core := by
  have heq := congrArg Firmware.core h.fw
  exact heq

theorem Kept.latched_running : u.fw.running = s.fw.running := by
  have heq := congrArg Firmware.running h.fw
  exact heq

theorem Kept.latched_restart : u.fw.restart = s.fw.restart := by
  have heq := congrArg Firmware.restart h.fw
  exact heq

theorem Kept.latched_pendingStage : u.fw.pendingStage = s.fw.pendingStage := by
  have heq := congrArg Firmware.pendingStage h.fw
  exact heq

theorem Kept.latched_fetch : u.fw.fetch = s.fw.fetch := by
  have heq := congrArg Firmware.fetch h.fw
  exact heq

theorem Kept.latched_disabled : u.fuses.disabled = (latchFuses fs s.fuses).disabled := by
  have heq := congrArg Fuses.disabled h.fuses
  exact heq

theorem Kept.latched_read : u.fuses.read = true := by
  have heq := congrArg Fuses.read h.fuses
  exact heq

theorem Kept.latched_level : u.smp.level = s.smp.level := by
  have heq := congrArg Smp.level h.smp
  exact heq

theorem Kept.latched_req : u.smp.req = s.smp.req := by
  have heq := congrArg Smp.req h.smp
  exact heq

end

/-! ### The ROM start -/

/-- The firmware's state at a ROM start, before the self-checks. -/
def State.romStarting (s : State) : State := s.modFw (fun w => { w with
  standby := none, standbyBoot := none, handover := .none, fetching := false, fetchFail := none, fallback := none, dualSettings := false })

theorem noCore_startCores {s : State} (r : RomStart) (h0 : s.fw.coreOut 0 = false) (h1 : s.fw.coreOut 1 = false) :
    (s.startCores r).noCore = (!r.core0 && !r.core1) := by
  obtain ⟨l, ev, dr, b, h⟩ := startCores_writes s r
  rw [h]
  exact congrArg₂ and (coresOut_zero h0) (coresOut_one h1)

theorem startCores_core {s : State} (r : RomStart) (h0 : s.fw.coreOut 0 = false) : (s.startCores r).fw.core = 0 ↔ r.core0 = true := by
  obtain ⟨l, ev, dr, b, h⟩ := startCores_writes s r
  have hcore : (s.startCores r).fw.core = if r.core0 then 0 else 1 := by
    rw [h]
    dsimp only
    rw [coresOut_zero h0]
    cases r.core0 <;> rfl
  rw [hcore]
  cases r.core0 <;> decide

theorem exec_romBoot {s : State} (r : RomStart) (hs : Awake s) (hp : s.present 0 = true) (hr : s.fuses.read = false) (hw : s.wrst = false)
    (hf : s.fall = false) (hl : 1 ≤ s.smp.req) : exec (.romBoot r) s = .next (s.hold
      (if (s.romStarting.startCores r).noCore then (s.romStarting.startCores r).classX { code := 0x0714, cls := .x, unit := 0x000F }
      else if ((s.romStarting.startCores r).bootRead r.fuses).fuses.disabled then ((s.romStarting.startCores r).bootRead r.fuses).disable
      else (((s.romStarting.startCores r).bootRead r.fuses).warmTry ((s.romStarting.startCores r).bootRead r.fuses).warmCandidates).enterS1)) := by
  have hready : (s.present 0 && !s.fuses.read && !s.porst && !s.wrst && !s.fall && decide (1 ≤ s.smp.req)) = true := by
    simp [hp, hr, hs.2, hw, hf, hl]
  change execRomBoot r s = _
  rw [execRomBoot, act_awake s _ hs, when_of_true hready]
  rfl

/-- Settles O39. -/
theorem startFromRom : Obligations.StartFromRom := by
  unfold Obligations.StartFromRom
  intro s r hs hp hread hw hf hform hreq hrun hempty h0 h1
  have hnone := noCore_startCores (s := s.romStarting) r h0 h1
  have hcore := startCores_core (s := s.romStarting) r h0
  obtain ⟨l, ev, dr, b, hcores⟩ := startCores_writes s.romStarting r
  have hkept := kept_bootRead (s.romStarting.startCores r) r.fuses
  have hexec := exec_romBoot r hs hp hread hw hf hreq
  by_cases hno : (s.romStarting.startCores r).noCore = true
  · rw [if_pos hno] at hexec
    have hfall := (falling_classX (s.romStarting.startCores r) { code := 0x0714, cls := .x, unit := 0x000F }).fall
    refine ⟨_, hexec, fun _ _ => ⟨hfall, level_of_fall hfall⟩, fun hc => ?_⟩
    rw [hnone] at hno
    rcases hc with hc | hc <;> simp [hc] at hno
  · rw [if_neg hno] at hexec
    have hbooted : ¬ (r.core0 = false ∧ r.core1 = false) := by
      rw [hnone] at hno
      rintro ⟨hc0, hc1⟩
      simp [hc0, hc1] at hno
    generalize (s.romStarting.startCores r).bootRead r.fuses = u at hkept hexec
    have hdisc : u.disc = discover s.cfg r.fuses := hkept.disc.trans (by rw [hcores]; rfl)
    have hcoreu : u.fw.core = 0 ↔ r.core0 = true := by rw [hkept.latched_core]; exact hcore
    have hfuses : (s.romStarting.startCores r).fuses = s.fuses := by rw [hcores]; rfl
    have hlevel : u.smp.level = s.smp.level := hkept.latched_level.trans (by rw [hcores]; rfl)
    have hdis : u.fuses.disabled = (latchFuses r.fuses s.fuses).disabled := by rw [hkept.latched_disabled, hfuses]
    rw [← hdis]
    cases hd : u.fuses.disabled with
    | true =>
      obtain ⟨dm, rd, fp, h⟩ := disable_writes u
      rw [hd, if_pos rfl, h] at hexec
      exact ⟨_, hexec, fun hc0 hc1 => absurd ⟨hc0, hc1⟩ hbooted, fun _ => ⟨hdisc, hcoreu, fun _ => ⟨rfl, rfl, rfl, hlevel⟩, fun h => (by cases h)⟩⟩
    | false =>
      have hrunu : u.fw.running = none := hkept.latched_running.trans (by rw [hcores]; exact hrun)
      have hslots : ∀ i < 2, (u.codeSlot i).st = .empty := fun i hi => (hkept.slot i).trans (by
        rw [State.latched, hcores]
        exact hempty i hi)
      rw [hd, if_neg Bool.false_ne_true, warmCandidates_none hrunu hslots, State.warmTry] at hexec
      obtain ⟨rq, pl, fl, ev', dr', dm, lg, bl, f, x, y, z, h, -⟩ := enterS1_writes (u.modFw (fun w => { w with romMode := true, running := none }))
      rw [h] at hexec
      exact ⟨_, hexec, fun hc0 hc1 => absurd ⟨hc0, hc1⟩ hbooted, fun _ => ⟨hdisc, hcoreu, fun h => (by cases h), fun _ => ⟨hkept.latched_read, rfl, rfl, rfl⟩⟩⟩

end Sys2Proof.Machine
end

section
/-! Proof of O40 and O34: the warm reset (R320, R366, R367) and the end of a fall (R30, R313, R387). -/

namespace Sys2Proof.Machine

open Sys2Proof.Bits

/-! ### The warm start -/

/-- The state at a restart of the MC, before the self-checks. -/
def State.restarting (s : State) : State :=
  { s with wrst := false, fw := { s.fw with
    restart := none, standby := none, standbyBoot := none, handover := .none, fetching := false, fetch := [], fetchFail := none, fallback := none,
    dualSettings := false, commit := none } }

theorem mcRestart_eq {s : State} (r : RomStart) (hp : s.present 0 = true) : s.mcRestart r =
    if (s.restarting.startCores r).noCore then (s.restarting.startCores r).classX { code := 0x0714, cls := .x, unit := 0x000F }
    else if ((s.restarting.startCores r).bootRead r.fuses).fuses.disabled then ((s.restarting.startCores r).bootRead r.fuses).disable
    else ((s.restarting.startCores r).bootRead r.fuses).warmStart := by
  unfold State.mcRestart
  extract_lets a b c d e
  have hpres : ¬ (!b.present 0) = true := by
    rw [show b.present 0 = true from hp]
    decide
  rw [if_neg hpres, show e = (s.restarting.startCores r).bootRead r.fuses from rfl, show d = s.restarting.startCores r from rfl]

theorem warmStart_waits {s : State} (h : s.fw.short = true) : s.warmStart = s.modFw (fun w => { w with warmWait := true }) := by
  rw [State.warmStart, if_pos h]

/-- A warm boot enters S1. -/
structure WarmBooted (s t : State) : Prop where
  level : t.smp.level = 1
  fuses : t.fuses = s.fuses
  disc : t.disc = s.disc
  wrst : t.wrst = s.wrst
  restart : t.fw.restart = s.fw.restart
  warmWait : t.fw.warmWait = false
  req : s.smp.req ≤ 1 → t.smp.req = 1 ∧ t.smp.pendingLevel = false

theorem warmBooted_warmStart {s : State} (h : s.fw.short = false) : WarmBooted s s.warmStart := by
  have hstart : s.warmStart = ((s.modFw (fun w => { w with warmWait := false })).warmBoot.modSmp (fun m => { m with req := max 1 m.req })).enterS1 := by
    rw [State.warmStart, if_neg (Bool.eq_false_iff.mp h)]
  obtain ⟨_, _, _, _, _, _, _, _, _, _, _, hboot⟩ := bootWrites_warmBoot (s.modFw (fun w => { w with warmWait := false }))
  rw [hstart, hboot]
  generalize hu : State.modSmp _ _ = u
  obtain ⟨rq, pl, fl, ev', dr', dm, lg, bl, f, x, y, z, henter, hreq⟩ := enterS1_writes u
  rw [henter]
  subst hu
  refine ⟨rfl, rfl, rfl, rfl, rfl, rfl, fun hle => ?_⟩
  have hmax : max 1 s.smp.req = 1 := Nat.max_eq_left hle
  obtain ⟨hrq, hpl⟩ := hreq (by change max 1 s.smp.req ≤ 1; rw [hmax])
  refine ⟨hrq.trans hmax, hpl.trans ?_⟩
  change (s.smp.pendingLevel && decide (max 1 s.smp.req ≠ 1)) = false
  rw [hmax]
  exact Bool.and_false _

/-- What a restart of the MC leaves. -/
structure Restarted (s : State) (r : RomStart) (t : State) : Prop where
  wrst : t.wrst = false
  restart : t.fw.restart = none
  booted : (s.restarting.startCores r).noCore = false → t.disc = discover s.cfg r.fuses ∧
    ((latchFuses r.fuses s.fuses).disabled = false → ∃ u, Kept ((s.restarting.startCores r).latched r.fuses) u ∧ t = u.warmStart)

theorem restarted_mcRestart {s : State} (r : RomStart) (hp : s.present 0 = true) : Restarted s r (s.mcRestart r) := by
  rw [mcRestart_eq r hp]
  obtain ⟨l, ev, dr, b, hcores⟩ := startCores_writes s.restarting r
  have hwrst : (s.restarting.startCores r).wrst = false := by rw [hcores]; rfl
  have hrestart : (s.restarting.startCores r).fw.restart = none := by rw [hcores]; rfl
  have hcfg : (s.restarting.startCores r).cfg = s.cfg := by rw [hcores]; rfl
  have hfuses : (s.restarting.startCores r).fuses = s.fuses := by rw [hcores]; rfl
  have hkept := kept_bootRead (s.restarting.startCores r) r.fuses
  generalize hv : s.restarting.startCores r = v at hwrst hrestart hcfg hfuses hkept
  cases hno : v.noCore with
  | true =>
    have hfall := falling_classX v { code := 0x0714, cls := .x, unit := 0x000F }
    exact ⟨hfall.wrst.trans hwrst, hfall.restart.trans hrestart, fun h => by rw [hv, hno] at h; cases h⟩
  | false =>
    rw [if_neg Bool.false_ne_true]
    generalize v.bootRead r.fuses = u at hkept
    have hdisc : u.disc = discover s.cfg r.fuses := hkept.disc.trans (congrArg (fun c => discover c r.fuses) hcfg)
    have hdis : u.fuses.disabled = (latchFuses r.fuses s.fuses).disabled := by rw [hkept.latched_disabled, hfuses]
    cases hd : u.fuses.disabled with
    | true =>
      obtain ⟨dm, rd, fp, h⟩ := disable_writes u
      rw [if_pos rfl, h]
      exact ⟨hkept.wrst.trans hwrst, hkept.latched_restart.trans hrestart, fun _ => ⟨hdisc, fun hf => by rw [← hdis, hd] at hf; cases hf⟩⟩
    | false =>
      rw [if_neg Bool.false_ne_true]
      have hsome : u.warmStart.disc = u.disc ∧ u.warmStart.wrst = u.wrst ∧ u.warmStart.fw.restart = u.fw.restart := by
        cases hshort : u.fw.short with
        | true => rw [warmStart_waits hshort]; exact ⟨rfl, rfl, rfl⟩
        | false => exact ⟨(warmBooted_warmStart hshort).disc, (warmBooted_warmStart hshort).wrst, (warmBooted_warmStart hshort).restart⟩
      obtain ⟨h1, h2, h3⟩ := hsome
      exact ⟨h2.trans (hkept.wrst.trans hwrst), h3.trans (hkept.latched_restart.trans hrestart), fun _ => ⟨h1.trans hdisc, fun _ => ⟨u, hv.symm ▸ hkept, rfl⟩⟩⟩

theorem exec_wrstNAssert {s : State} (hs : Awake s) : exec .wrstNAssert s = .next (s.hold
    (if s.wrst then s.modFw (fun w => { w with restart := none })
    else { s.classX { code := 0x0713, cls := .x, unit := 0x000F } with wrst := true, fusePass := none })) := by
  change execWrstNAssert s = _
  rw [execWrstNAssert, act_awake s _ hs]
  exact congrArg (fun u => Host.Outcome.next (s.hold u)) (if_neg (Bool.eq_false_iff.mp hs.2))

theorem exec_wrstNRelease {s : State} (r : RomStart) (hs : Awake s) (hw : s.wrst = true) : exec (.wrstNRelease r) s = .next (s.hold
    (if s.fall then s.modFw (fun w => { w with restart := some r }) else s.mcRestart r)) := by
  change execWrstNRelease r s = _
  rw [execWrstNRelease, act_awake s _ hs, when_of_true hw]

/-- Settles O40. -/
theorem warmReset : Obligations.WarmReset := by
  unfold Obligations.WarmReset
  refine fun s r hs => ⟨fun hw => ?_, fun hw => ?_, fun hw hf => ?_, fun hw hf hp hform h0 h1 => ?_⟩
  · have hfall := falling_classX s { code := 0x0713, cls := .x, unit := 0x000F }
    refine ⟨_, (exec_wrstNAssert hs).trans (congrArg (fun u => Host.Outcome.next (s.hold u)) (if_neg (Bool.eq_false_iff.mp hw))), rfl, hfall.fall,
      level_of_fall hfall.fall, rfl, hfall.ended⟩
  · rw [exec_wrstNAssert hs, if_pos hw]
    rfl
  · rw [exec_wrstNRelease r hs hw, if_pos hf]
    rfl
  · have hdone := restarted_mcRestart r hp
    refine ⟨_, (exec_wrstNRelease r hs hw).trans (congrArg (fun u => Host.Outcome.next (s.hold u)) (if_neg (Bool.eq_false_iff.mp hf))), hdone.wrst,
      fun hc => ?_⟩
    have hnone : (s.restarting.startCores r).noCore = false := by
      rw [noCore_startCores (s := s.restarting) r h0 h1]
      rcases hc with hc | hc <;> simp [hc]
    obtain ⟨hdisc, hboot⟩ := hdone.booted hnone
    refine ⟨hdisc, fun hdis => ?_⟩
    obtain ⟨u, hkept, ht⟩ := hboot hdis
    obtain ⟨l, ev, dr, b, hcores⟩ := startCores_writes s.restarting r
    have hstage : u.fw.pendingStage = s.fw.pendingStage := hkept.latched_pendingStage.trans (by rw [hcores]; rfl)
    have hfetch : u.fw.fetch = [] := hkept.latched_fetch.trans (by rw [hcores]; rfl)
    have hlevel : u.smp.level = s.smp.level := hkept.latched_level.trans (by rw [hcores]; rfl)
    have hreq : u.smp.req = s.smp.req := hkept.latched_req.trans (by rw [hcores]; rfl)
    rw [ht]
    refine ⟨?_, fun hns => ?_, fun p hsome hpos => ?_⟩
    · cases hshort : u.fw.short with
      | true => rw [warmStart_waits hshort]; exact hkept.latched_read
      | false => exact (congrArg Fuses.read (warmBooted_warmStart hshort).fuses :).trans hkept.latched_read
    · have hshort : u.fw.short = false := by rw [Firmware.short, hstage, hns]
      have hw := warmBooted_warmStart hshort
      exact ⟨hw.level, fun hle => hw.req (hreq.le.trans hle)⟩
    · have hshort : u.fw.short = true := by
        rw [Firmware.short, hstage, hsome, hfetch]
        exact decide_eq_true hpos
      rw [warmStart_waits hshort]
      exact ⟨hlevel, rfl, hfetch⟩

/-! ### The end of a fall -/

/-- The level is 0 and the fall is over. -/
def State.fallZero (s : State) : State :=
  ({ (s.modSmp (fun m => { m with req := 0, fellX := true })).setLevel 0 1 with fall := false } : State).modSmp
    (fun m => { m with pendingLevel := false })

/-- After a warm reset every domain but PD-AON and PD-MC goes down. -/
def State.fallOff (s : State) : State := if s.wrst then eachIn ((List.range 12).map (· + 1)) (fun s i => s.powerDown i) s else s

theorem fallZero_writes (s : State) : ∃ ev dr f, s.fallZero = { s with
    smp := { s.smp with level := 0, req := 0, fellX := true, pendingLevel := false, events := ev, dropped := dr }
    fuses := { s.fuses with read := false }
    fabric := f
    fall := false } := by
  obtain ⟨ev, dr, f, h⟩ := setLevel_writes (s.modSmp (fun m => { m with req := 0, fellX := true })) 0 1
  rw [State.fallZero, h]
  exact ⟨_, _, _, rfl⟩

theorem setLevel_zero {s : State} (cause : Nat) (h : s.smp.level ≠ 0) : ∃ f, s.setLevel 0 cause = { s with
    smp := Smp.post { s.smp with level := 0, pendingLevel := decide (0 ≠ s.smp.req) } (mkEvent 0x0105 0 7 0 s.smp.level cause s.time)
    fuses := { s.fuses with read := false }
    fabric := f } := by
  rw [State.setLevel]
  dsimp only
  rw [if_pos (rfl : 0 = 0), if_neg h]
  exact topoIfChanged_writes _

theorem Smp.post_pendingLevel (m : Smp) (e : Event) (b : Bool) : { m.post e with pendingLevel := b } = Smp.post { m with pendingLevel := b } e := by
  by_cases h : m.events.length < 256
  · rw [Smp.post, Smp.post, if_pos h, if_pos h]
  · rw [Smp.post, Smp.post, if_neg h, if_neg h]

theorem smp_fallZero {s : State} (h : s.smp.level ≠ 0) : s.fallZero.smp =
    ((s.modSmp (fun m => { m with level := 0, req := 0, fellX := true, pendingLevel := false })).post 0x0105 0 7 0 s.smp.level 1).smp := by
  obtain ⟨f, hf⟩ := setLevel_zero (s := s.modSmp (fun m => { m with req := 0, fellX := true })) 1 h
  rw [State.fallZero, hf, State.post]
  exact Smp.post_pendingLevel _ _ false

theorem fallDone_eq (s : State) : s.fallDone =
    if s.fallZero.fallOff.testPending ≠ 0 then s.fallZero.fallOff.enterTest s.fallZero.fallOff.testPending
    else match s.fallZero.fallOff.fw.restart with
      | some r => s.fallZero.fallOff.mcRestart r
      | none => s.fallZero.fallOff := rfl

/-- What a power-down of a domain other than PD-MC may write. -/
def OffWrites (s t : State) : Prop := ∃ d f k e, t = { s with doms := d, fabric := f, keyPresent := k, entropy := e }

theorem offWrites_powerDown (s : State) {i : Nat} (h : i ≠ 0) : OffWrites s (s.powerDown i) := by
  rw [State.powerDown]
  split
  · unfold State.domainOff
    extract_lets a
    rw [if_neg h]
    split
    · exact ⟨_, _, _, _, rfl⟩
    · split
      · exact ⟨_, _, _, _, rfl⟩
      · exact ⟨_, _, _, _, rfl⟩
  · exact ⟨_, _, _, _, rfl⟩

theorem OffWrites.trans {s t u : State} (h : OffWrites s t) (h' : OffWrites t u) : OffWrites s u := by
  obtain ⟨d, f, k, e, rfl⟩ := h
  obtain ⟨d', f', k', e', rfl⟩ := h'
  exact ⟨d', f', k', e', rfl⟩

/-- The books of a domain whose power is switched off. -/
def Dom.off (d : Dom) (time : Nat) : Dom :=
  if d.req && d.ack then { d with present := false, req := false, since := time, slow := false } else d

theorem Dom.off_off (d : Dom) (time : Nat) : (d.off time).off time = d.off time := by
  cases h : d.req && d.ack <;> simp [Dom.off, h]

theorem doms_domainOff (s : State) (i : Nat) : (s.domainOff i).doms = (s.modDom i (fun d => { d with present := false })).doms := by
  unfold State.domainOff
  extract_lets a
  by_cases h0 : i = 0
  · rw [if_pos h0]
  · rw [if_neg h0]
    by_cases h2 : i = 2
    · rw [if_pos h2]; rfl
    · rw [if_neg h2]
      by_cases h3 : i = 3
      · rw [if_pos h3]
      · rw [if_neg h3]

theorem dom_powerDown_self (s : State) {i : Nat} (hi : i < 13) : (s.powerDown i).dom i = (s.dom i).off s.time := by
  rw [State.powerDown, Dom.off]
  split
  · rw [State.dom, State.modDom, doms_domainOff, State.modDom, modV_modV]
    exact getV_modV_self _ _ _ _ hi
  · rfl

theorem dom_powerDown_ne (s : State) {i j : Nat} (h : j ≠ i) : (s.powerDown j).dom i = s.dom i := by
  rw [State.powerDown]
  split
  · rw [State.dom, State.modDom, doms_domainOff, State.modDom, modV_modV]
    exact getV_modV_ne _ _ _ _ _ h
  · rfl

theorem dom_eachIn_powerDown (l : List Nat) (s : State) (i : Nat) (hl : ∀ j ∈ l, j ≠ 0 ∧ j < 13) :
    (eachIn l (fun s j => s.powerDown j) s).dom i = if i ∈ l then (s.dom i).off s.time else s.dom i := by
  induction l generalizing s with
  | nil => rfl
  | cons j l ih =>
    obtain ⟨⟨hj0, hj⟩, hl⟩ := List.forall_mem_cons.mp hl
    have htime : (s.powerDown j).time = s.time := by
      obtain ⟨d, f, k, e, h⟩ := offWrites_powerDown s hj0
      rw [h]
    rw [eachIn_cons, ih (s.powerDown j) hl, htime]
    by_cases hij : i = j
    · subst hij
      rw [dom_powerDown_self s hj, Dom.off_off, ite_self, if_pos List.mem_cons_self]
    · rw [dom_powerDown_ne s (Ne.symm hij)]
      simp [hij]

theorem offDomains_lt {j : Nat} (h : j ∈ (List.range 12).map (· + 1)) : j ≠ 0 ∧ j < 13 := by
  obtain ⟨k, hk, rfl⟩ := List.mem_map.mp h
  have := List.mem_range.mp hk
  exact ⟨Nat.succ_ne_zero k, by omega⟩

theorem offWrites_fallOff (s : State) : OffWrites s s.fallOff := by
  have hlist : ∀ (l : List Nat) (s : State), (∀ j ∈ l, j ≠ 0 ∧ j < 13) → OffWrites s (eachIn l (fun s j => s.powerDown j) s) := by
    intro l
    induction l with
    | nil => exact fun s _ => ⟨_, _, _, _, rfl⟩
    | cons j l ih => exact fun s hl => (offWrites_powerDown s (hl j List.mem_cons_self).1).trans (ih _ (fun k hk => hl k (List.mem_cons_of_mem j hk)))
  rw [State.fallOff]
  split
  · exact hlist _ s (fun j => offDomains_lt)
  · exact ⟨_, _, _, _, rfl⟩

theorem dom_fallOff_zero (s : State) : s.fallOff.dom 0 = s.dom 0 := by
  rw [State.fallOff]
  split
  · rw [dom_eachIn_powerDown _ s 0 (fun j => offDomains_lt), if_neg (fun h => (offDomains_lt h).1 rfl)]
  · rfl

theorem dom_fallOff_off {s : State} {i : Nat} (hw : s.wrst = true) (h1 : 1 ≤ i) (hi : i < 13) (hr : (s.dom i).req = true) (ha : (s.dom i).ack = true) :
    (s.fallOff.dom i).req = false ∧ (s.fallOff.dom i).present = false := by
  have hmem : i ∈ (List.range 12).map (· + 1) := List.mem_map.mpr ⟨i - 1, List.mem_range.mpr (by omega), by omega⟩
  rw [State.fallOff, if_pos hw, dom_eachIn_powerDown _ s i (fun j => offDomains_lt), if_pos hmem, Dom.off, hr, ha, Bool.and_true, if_pos rfl]
  exact ⟨rfl, rfl⟩

/-- What stands before a test instruction or a restart of the MC takes effect. -/
theorem fallOff_writes (s : State) : ∃ ev dr f d k e, s.fallZero.fallOff = { s with
    smp := { s.smp with level := 0, req := 0, fellX := true, pendingLevel := false, events := ev, dropped := dr }
    fuses := { s.fuses with read := false }
    fabric := f
    fall := false
    doms := d
    keyPresent := k
    entropy := e } := by
  obtain ⟨ev, dr, f, hz⟩ := fallZero_writes s
  obtain ⟨d, f', k, e, ho⟩ := offWrites_fallOff s.fallZero
  rw [ho, hz]
  exact ⟨_, _, _, _, _, _, rfl⟩

theorem dom_fallZero (s : State) (i : Nat) : s.fallZero.dom i = s.dom i := by
  obtain ⟨ev, dr, f, h⟩ := fallZero_writes s
  rw [h]
  rfl

theorem fallDone_test {s : State} (h : s.testPending ≠ 0) : s.fallDone = s.fallZero.fallOff.enterTest s.testPending := by
  obtain ⟨ev, dr, f, d, k, e, ho⟩ := fallOff_writes s
  have htest : s.fallZero.fallOff.testPending = s.testPending := by rw [ho]
  rw [fallDone_eq, htest, if_pos h]

theorem fallDone_restart {s : State} {r : RomStart} (h : s.testPending = 0) (hr : s.fw.restart = some r) : s.fallDone = s.fallZero.fallOff.mcRestart r := by
  obtain ⟨ev, dr, f, d, k, e, ho⟩ := fallOff_writes s
  have htest : s.fallZero.fallOff.testPending = 0 := by rw [ho]; exact h
  have hrestart : s.fallZero.fallOff.fw.restart = some r := by rw [ho]; exact hr
  rw [fallDone_eq, htest, if_neg (not_not_intro rfl), hrestart]

theorem fallDone_stays {s : State} (h : s.testPending = 0) (hr : s.fw.restart = none) : s.fallDone = s.fallZero.fallOff := by
  obtain ⟨ev, dr, f, d, k, e, ho⟩ := fallOff_writes s
  have htest : s.fallZero.fallOff.testPending = 0 := by rw [ho]; exact h
  have hrestart : s.fallZero.fallOff.fw.restart = none := by rw [ho]; exact hr
  rw [fallDone_eq, htest, if_neg (not_not_intro rfl), hrestart]

theorem fallOff_of_noReset {s : State} (h : s.wrst = false) : s.fallZero.fallOff = s.fallZero := by
  obtain ⟨ev, dr, f, hz⟩ := fallZero_writes s
  have hw : s.fallZero.wrst = false := by rw [hz]; exact h
  rw [State.fallOff, if_neg (Bool.eq_false_iff.mp hw)]

theorem exec_fallComplete {s : State} (hs : Awake s) (hf : s.fall = true) (hm : s.allMem = true) : exec .fallComplete s = .next (s.hold s.fallDone) := by
  change execFallComplete s = _
  rw [execFallComplete, act_awake s _ hs, hf, hm]
  exact congrArg (fun u => Host.Outcome.next (s.hold u)) (when_of_true rfl _ s)

/-- What the wipe before WS_INTEST_SCAN and WS_MBIST leaves. -/
theorem wipe_leaves (s : State) : s.wipe.keyPresent = false ∧ s.wipe.run = {} ∧ (∀ m < 4, s.wipe.mbx m = {}) ∧ s.wipe.wins = [] ∧
    ∀ i < 2, s.wipe.codeSlot i = {} := by
  refine ⟨rfl, rfl, fun m _ => ?_, rfl, fun i _ => ?_⟩
  · exact getV_replicate 4 m ({} : Mailbox)
  · exact getV_replicate 2 i ({} : CodeSlot)

/-- Settles O34. -/
theorem fall : Obligations.Fall := by
  unfold Obligations.Fall
  refine fun s hs => ⟨fun e hf => ?_, fun hf hm hl ht hw hr => ?_, fun hf hm ht hw hr => ?_, fun r hf hm ht hw hr hp => ?_, fun hf hm ht => ?_⟩
  · obtain ⟨hbook, hchans⟩ := fallen_classX e hf
    have hfall : (s.classX e).fall = true := (falling_classX s e).fall
    obtain ⟨hform, hops⟩ := (falling_classX s e).ended hf
    refine ⟨hfall, level_of_fall hfall, hform, hops, ?_, fun ch hch => (hchans ch hch).2.1⟩
    obtain ⟨_, _, _, _, _, _, _, _, _, _, _, _, _, _, _, _, hb⟩ := hbook
    rw [hb]
  · have hexec := exec_fallComplete hs hf hm
    rw [fallDone_stays ht hr, fallOff_of_noReset hw] at hexec
    obtain ⟨ev, dr, f, hz⟩ := fallZero_writes s
    refine ⟨_, hexec, ?_, ?_, smp_fallZero hl, ?_⟩
    · rw [hz]; rfl
    · rw [hz]; rfl
    · rw [hz]; rfl
  · have hexec := exec_fallComplete hs hf hm
    rw [fallDone_stays ht hr] at hexec
    obtain ⟨ev, dr, f, d, k, e, ho⟩ := fallOff_writes s
    have hwz : s.fallZero.wrst = true := by
      obtain ⟨ev, dr, f, hz⟩ := fallZero_writes s
      rw [hz]
      exact hw
    refine ⟨_, hexec, by rw [ho]; rfl, by rw [ho]; exact hw, by rw [ho]; rfl, by rw [ho]; rfl, by rw [ho]; rfl, ?_, fun i h1 hi hreq hack => ?_⟩
    · exact (dom_fallOff_zero _).trans (dom_fallZero s 0)
    · exact dom_fallOff_off hwz h1 hi (by rw [dom_fallZero]; exact hreq) (by rw [dom_fallZero]; exact hack)
  · have hexec := exec_fallComplete hs hf hm
    rw [fallDone_restart ht hr] at hexec
    have hpres : s.fallZero.fallOff.present 0 = true := by
      rw [State.present, dom_fallOff_zero, dom_fallZero]
      exact hp
    obtain ⟨hwrst, hrestart, hboot⟩ := restarted_mcRestart r hpres
    refine ⟨_, hexec, hwrst, hrestart, fun hc => ?_⟩
    obtain ⟨ev, dr, f, d, k, e, ho⟩ := fallOff_writes s
    have hnone : (s.fallZero.fallOff.restarting.startCores r).noCore = false := by
      obtain ⟨l, ev', dr', b, hcores⟩ := startCores_writes s.fallZero.fallOff.restarting r
      have h0 : s.fallZero.fallOff.restarting.fw.coreOut 0 = false := by rw [ho]; exact hc.2
      rw [hcores]
      exact (congrArg₂ and ((coresOut_zero h0).trans (congrArg not hc.1)) rfl).trans (Bool.false_and _)
    rw [show s.cfg = s.fallZero.fallOff.cfg by rw [ho]]
    exact (hboot hnone).1
  · have hexec := exec_fallComplete hs hf hm
    have htest : s.testPending ≠ 0 := by omega
    rw [fallDone_test htest] at hexec
    obtain ⟨ev, dr, f, d, k, e, ho⟩ := fallOff_writes s
    have hporst : s.fallZero.fallOff.porst = false := by rw [ho]; exact hs.2
    refine ⟨_, hexec, ?_, rfl, rfl, fun h1 => ?_⟩
    · rcases ht with ht | ht | ht <;> rw [ht] <;> rfl
    · have hcode : (s.testPending = 3 ∨ s.testPending = 5) ∧ s.fallZero.fallOff.porst = false := ⟨by omega, hporst⟩
      rw [State.enterTest, if_pos hcode]
      exact wipe_leaves _

end Sys2Proof.Machine
end

section
/-! Proof of O41 and O42: TRANSITs and segments (R18, R19, R22, R163), refreshes on the core side and the catch-up (R164, R165, R295). -/

namespace Sys2Proof.Machine

open Sys2Proof.Bits

/-! ### The books of refreshes -/

/-- What refreshes of period p on a channel may write: its books, in which the refreshes of that period stay, and the outputs. -/
structure Issued (ch p : Nat) (s t : State) : Prop where
  out : ChansOut s t
  others : ∀ j, j ≠ ch → t.chan j = s.chan j
  books : ∃ n e r, t.chan ch = { s.chan ch with refreshes := n, refabEnd := e, refreshed := r }
  kept : ∀ pc b, (pc, b, p) ∈ (s.chan ch).refreshed → (pc, b, p) ∈ (t.chan ch).refreshed

theorem Issued.refl (ch p : Nat) (s : State) : Issued ch p s s := ⟨.refl s, fun _ _ => rfl, ⟨_, _, _, rfl⟩, fun _ _ h => h⟩

theorem Issued.trans {ch p : Nat} {s t u : State} (h : Issued ch p s t) (h' : Issued ch p t u) : Issued ch p s u := by
  refine ⟨h.out.trans h'.out, fun j hj => (h'.others j hj).trans (h.others j hj), ?_, fun pc b hm => h'.kept pc b (h.kept pc b hm)⟩
  obtain ⟨n, e, r, hb⟩ := h.books
  obtain ⟨n', e', r', hb'⟩ := h'.books
  exact ⟨n', e', r', by rw [hb', hb]⟩

theorem Issued.time {ch p : Nat} {s t : State} (h : Issued ch p s t) : t.time = s.time := by
  obtain ⟨v, o, rfl⟩ := h.out
  rfl

theorem refreshPeriod_chansOut {s t : State} (h : ChansOut s t) : t.refreshPeriod = s.refreshPeriod := by
  obtain ⟨v, o, rfl⟩ := h
  rfl

theorem refreshTime_chansOut {s t : State} (h : ChansOut s t) (p pc b : Nat) : t.refreshTime p pc b = s.refreshTime p pc b := by
  obtain ⟨v, o, rfl⟩ := h
  rfl

theorem refreshOwed_of_mem {s : State} {ch p since pc b : Nat} (h : (pc, b, p) ∈ (s.chan ch).refreshed) : s.refreshOwed ch p since pc b = false := by
  rw [State.refreshOwed, List.contains_iff_mem.mpr h]
  exact Bool.and_false _

/-- A refresh that is not owed is not owed after others. -/
theorem Issued.settled {ch p : Nat} {s t : State} (h : Issued ch p s t) {since pc b : Nat} (ho : s.refreshOwed ch p since pc b = false) :
    t.refreshOwed ch p since pc b = false := by
  by_cases hm : (pc, b, p) ∈ (s.chan ch).refreshed
  · exact refreshOwed_of_mem (h.kept pc b hm)
  · rw [State.refreshOwed, List.contains_eq_mem, decide_eq_false hm, Bool.not_false, Bool.and_true] at ho
    have htime : t.time = s.time := h.time
    rw [State.refreshOwed, refreshTime_chansOut h.out, htime, ho]
    exact Bool.false_and _

theorem issued_issueRefresh (s : State) {ch : Nat} (hch : ch < 32) (p pc b : Nat) :
    Issued ch p s (s.issueRefresh ch p pc b) ∧ (pc, b, p) ∈ ((s.issueRefresh ch p pc b).chan ch).refreshed := by
  have hself : (s.issueRefresh ch p pc b).chan ch = { s.chan ch with
      refreshes := (s.chan ch).refreshes + 1
      refabEnd := if s.perBank then (s.chan ch).refabEnd else s.time + s.disc.tRfcAb
      refreshed := (s.chan ch).refreshed.filter (fun x => decide (p ≤ x.2.2 + 1)) ++ [(pc, b, p)] } := getV_modV_self _ _ _ _ hch
  refine ⟨⟨⟨_, _, rfl⟩, fun j hj => getV_modV_ne _ _ _ _ _ (Ne.symm hj), ⟨_, _, _, hself⟩, fun pc' b' hm => ?_⟩, ?_⟩
  · rw [hself]
    exact List.mem_append_left _ (List.mem_filter.mpr ⟨hm, decide_eq_true (Nat.le_succ p)⟩)
  · rw [hself]
    exact List.mem_append_right _ List.mem_cons_self

/-- A loop establishes, for every member, what its turn establishes and what the other turns keep. -/
theorem eachIn_establishes {α : Type} {R : State → State → Prop} {P : α → State → Prop} (hrefl : ∀ s, R s s)
    (htrans : ∀ {s t u}, R s t → R t u → R s u) (f : State → α → State) (hf : ∀ s a, R s (f s a)) (hp : ∀ s a, P a (f s a))
    (hmono : ∀ {s t} a, R s t → P a s → P a t) (l : List α) (s : State) : ∀ a ∈ l, P a (eachIn l f s) := by
  induction l generalizing s with
  | nil => exact fun a ha => (by cases ha)
  | cons b l ih =>
    intro a ha
    rcases List.mem_cons.mp ha with rfl | ha
    · exact hmono a (eachIn_related hrefl htrans f hf l _) (hp s a)
    · exact ih (f s b) a ha

/-- One turn of the loop over the refreshes of a period. -/
def State.issueOwed (s : State) (ch p since b pc : Nat) : State := if s.refreshOwed ch p since pc b then s.issueRefresh ch p pc b else s

theorem issued_issueOwed (s : State) {ch : Nat} (hch : ch < 32) (p since b pc : Nat) :
    Issued ch p s (s.issueOwed ch p since b pc) ∧ (s.issueOwed ch p since b pc).refreshOwed ch p since pc b = false := by
  rw [State.issueOwed]
  cases h : s.refreshOwed ch p since pc b with
  | true => exact ⟨(issued_issueRefresh s hch p pc b).1, refreshOwed_of_mem (issued_issueRefresh s hch p pc b).2⟩
  | false => exact ⟨.refl ch p s, h⟩

theorem issuePeriod_eq (s : State) (ch p since : Nat) : s.issuePeriod ch p since =
    eachIn (List.range 32) (fun s b => eachIn [0, 1] (fun s pc => s.issueOwed ch p since b pc) s) s := rfl

theorem issued_issuePeriod (s : State) {ch : Nat} (hch : ch < 32) (p since : Nat) : Issued ch p s (s.issuePeriod ch p since) ∧
    ∀ pc b, pc < 2 → b < 32 → (s.issuePeriod ch p since).refreshOwed ch p since pc b = false := by
  have hturn : ∀ (s : State) (b : Nat), Issued ch p s (eachIn [0, 1] (fun s pc => s.issueOwed ch p since b pc) s) := fun s b =>
    eachIn_related (Issued.refl ch p) Issued.trans _ (fun s pc => (issued_issueOwed s hch p since b pc).1) _ s
  have hdone : ∀ (s : State) (b : Nat), ∀ pc ∈ [0, 1],
      (eachIn [0, 1] (fun s pc => s.issueOwed ch p since b pc) s).refreshOwed ch p since pc b = false := fun s b =>
    eachIn_establishes (P := fun pc s => s.refreshOwed ch p since pc b = false) (Issued.refl ch p) Issued.trans _
      (fun s pc => (issued_issueOwed s hch p since b pc).1) (fun s pc => (issued_issueOwed s hch p since b pc).2) (fun _ h ho => h.settled ho) _ s
  rw [issuePeriod_eq]
  refine ⟨eachIn_related (Issued.refl ch p) Issued.trans _ hturn _ s, fun pc b hpc hb => ?_⟩
  have hall := eachIn_establishes (P := fun b s => ∀ pc ∈ [0, 1], s.refreshOwed ch p since pc b = false) (Issued.refl ch p) Issued.trans _ hturn hdone
    (fun _ h ho pc hpc => h.settled (ho pc hpc)) (List.range 32) s
  refine hall b (List.mem_range.mpr hb) pc ?_
  simp only [List.mem_cons, List.not_mem_nil, or_false]
  omega

/-- No refresh of the current period is due on a channel. -/
def State.quiet (s : State) (ch : Nat) : Prop := ∀ pc b, pc < 2 → b < 32 → s.refreshDue ch pc b = false

theorem quiet_issueDue (s : State) {ch : Nat} (hch : ch < 32) : (s.issueDue ch).quiet ch := by
  obtain ⟨hi, hd⟩ := issued_issuePeriod s hch s.refreshPeriod 0
  intro pc b hpc hb
  rw [State.refreshDue, show (s.issueDue ch).refreshPeriod = s.refreshPeriod from refreshPeriod_chansOut hi.out]
  exact hd pc b hpc hb

/-- What decides which refreshes are due. -/
theorem State.quiet.same {s t : State} {ch : Nat} (h : s.quiet ch) (htime : t.time = s.time) (hadmit : t.admitTime = s.admitTime)
    (hform : t.formula = s.formula) (hdisc : t.disc = s.disc) (hbooks : (t.chan ch).refreshed = (s.chan ch).refreshed) : t.quiet ch := by
  have hcad : t.cadence = s.cadence := by rw [State.cadence, State.cadence, hform, hdisc]
  have hbank : t.perBank = s.perBank := by rw [State.perBank, State.perBank, hform, hdisc]
  have hat : ∀ pc b, t.refreshAt pc b = s.refreshAt pc b := fun pc b => by rw [State.refreshAt, State.refreshAt, hbank, hcad, hdisc]
  have hper : t.refreshPeriod = s.refreshPeriod := by rw [State.refreshPeriod, State.refreshPeriod, htime, hadmit, hcad]
  intro pc b hpc hb
  have hdue := h pc b hpc hb
  rw [State.refreshDue, State.refreshOwed, State.refreshTime] at hdue ⊢
  rw [hper, hat, htime, hadmit, hcad, hbooks]
  exact hdue

/-! ### TRANSITs -/

theorem transit_toProc_of_mem {c : Channel} (t : Nat) (hm : c.mode = .mem) (hf : c.fenced = false) :
    c.transit .toProc t = { c with mode := .toProc, since := t, rows := [] } := by
  rw [Channel.transit, hm, hf]
  rfl

theorem transit_toMem_of_proc {c : Channel} (t : Nat) (hm : c.mode = .proc) : c.transit .toMem t = { c with mode := .toMem, since := t } := by
  rw [Channel.transit, hm]
  rfl

theorem State.transit_toProc (s : State) (ch : Nat) : s.transit ch .toProc = s.modChan ch (fun c => c.transit .toProc s.time) := by
  rw [State.transit, if_neg (fun h => by cases h.1)]

theorem State.transit_toMem_idle {s : State} {ch : Nat} (h : (s.chan ch).mode ≠ .proc) :
    s.transit ch .toMem = s.modChan ch (fun c => c.transit .toMem s.time) := by
  rw [State.transit, if_neg (fun hc => h hc.2)]

theorem State.transit_toMem_proc {s : State} {ch : Nat} (h : (s.chan ch).mode = .proc) :
    s.transit ch .toMem = (s.issueDue ch).modChan ch (fun c => c.transit .toMem (s.issueDue ch).time) := by
  rw [State.transit, if_pos ⟨rfl, h⟩]

theorem modChan_modChan (s : State) (ch : Nat) (f g : Channel → Channel) : (s.modChan ch f).modChan ch g = s.modChan ch (fun c => g (f c)) := by
  rw [State.modChan, State.modChan, modV_modV]
  rfl

theorem State.quiet.modChan {s : State} {ch : Nat} (h : s.quiet ch) (f : Channel → Channel) (hf : ∀ c : Channel, (f c).refreshed = c.refreshed) :
    (s.modChan ch f).quiet ch := by
  refine h.same rfl rfl rfl rfl ?_
  rw [State.chan_modChan]
  split
  · exact hf _
  · rfl

theorem Channel.transit_refreshed (c : Channel) (m : Mode) (t : Nat) : (c.transit m t).refreshed = c.refreshed := by
  unfold Channel.transit
  split <;> [split; split; skip] <;> rfl

theorem Channel.transit_segIdx (c : Channel) (m : Mode) (t : Nat) : (c.transit m t).segIdx = c.segIdx := by
  unfold Channel.transit
  split <;> [split; split; skip] <;> rfl

/-- A channel leaves PROC: the refreshes that are due go out first. -/
theorem State.leaveProc {s : State} {ch : Nat} (hch : ch < 32) (hm : (s.chan ch).mode = .proc) : ChansOut s (s.transit ch .toMem) ∧
    (∃ n e r, (s.transit ch .toMem).chan ch = { s.chan ch with mode := .toMem, since := s.time, refreshes := n, refabEnd := e, refreshed := r }) ∧
    (s.transit ch .toMem).quiet ch ∧ ∀ j, j ≠ ch → (s.transit ch .toMem).chan j = s.chan j := by
  obtain ⟨hi, -⟩ := issued_issuePeriod s hch s.refreshPeriod 0
  obtain ⟨n, e, r, hb⟩ := hi.books
  have hquiet := quiet_issueDue s hch
  refine ⟨chansOut_transit s ch .toMem, ?_, ?_, ?_⟩ <;> rw [State.transit_toMem_proc hm]
  · have hmode : ((s.issueDue ch).chan ch).mode = .proc := by rw [State.issueDue, hb]; exact hm
    refine ⟨n, e, r, ?_⟩
    rw [State.chan_modChan, if_pos ⟨rfl, hch⟩, transit_toMem_of_proc _ hmode, State.issueDue, hb, hi.time]
  · exact hquiet.modChan _ (fun c => c.transit_refreshed _ _)
  · intro j hj
    rw [State.chan_modChan, if_neg (fun h => hj h.1.symm)]
    exact hi.others j hj

theorem exec_segmentBoundary {s : State} {ch : Fin 32} {x : Segment} (hon : OnChannel s ch)
    (hx : (segmentsOf s.form ch)[(s.chan ch).segIdx]? = some x) (ha : s.run.anchored = true) (he : s.evalIdle = true)
    (ht : s.tickTime x.start ≤ s.time) : exec (.segmentBoundary ch) s = .next (s.hold
      ((s.transit ch (if x.proc then .toProc else .toMem)).modChan ch (fun c => { c with segIdx := c.segIdx + 1 }))) := by
  change execSegmentBoundary ch s = _
  rw [execSegmentBoundary, onChan_awake s ch _ hon, hx]
  exact congrArg (fun u => Host.Outcome.next (s.hold u)) (when_of_true (by simp [ha, he, ht]) _ s)

theorem exec_segmentBoundary_early {s : State} {ch : Fin 32} {x : Segment} (hon : OnChannel s ch)
    (hx : (segmentsOf s.form ch)[(s.chan ch).segIdx]? = some x) (ht : s.time < s.tickTime x.start) : exec (.segmentBoundary ch) s = .next s := by
  change execSegmentBoundary ch s = _
  rw [execSegmentBoundary, onChan_awake s ch _ hon, hx]
  exact congrArg (fun u => Host.Outcome.next (s.hold u)) (when_of_false (by simp [Nat.not_le.mpr ht]) _ s)

/-! ### The end of a TRANSIT -/

theorem transitEnds_toProc {s : State} {ch : Nat} (hm : (s.chan ch).mode = .toProc) (ht : (s.chan ch).since + 120 ≤ s.time)
    (he : s.run.eval ≠ .closing) : s.transitEnds ch false = s.enterProc ch := by
  have hmode : (s.chan ch).since + tMode ≤ s.time := by rw [tMode]; exact ht
  unfold State.transitEnds
  dsimp only
  rw [if_pos hmode, hm]
  exact (if_neg Bool.false_ne_true).trans (if_neg (fun h => he h.1))

theorem transitEnds_stuck {s : State} {ch : Nat} (hm : (s.chan ch).mode = .toProc ∨ (s.chan ch).mode = .toMem)
    (ht : (s.chan ch).since + 120 ≤ s.time) : s.transitEnds ch true = s.stuck ch := by
  have hmode : (s.chan ch).since + tMode ≤ s.time := by rw [tMode]; exact ht
  unfold State.transitEnds
  dsimp only
  rw [if_pos hmode]
  rcases hm with hm | hm <;> rw [hm] <;> rfl

theorem transitEnds_early {s : State} {ch : Nat} (stuck : Bool) (ht : s.time < (s.chan ch).since + 120) : s.transitEnds ch stuck = s := by
  have hmode : ¬ (s.chan ch).since + tMode ≤ s.time := by rw [tMode]; exact Nat.not_le.mpr ht
  unfold State.transitEnds
  exact if_neg hmode

theorem lowerCheck_writes (s : State) : ∃ n m f g, s.lowerCheck = { s with fw := { s.fw with levelHold := n }, smp := m, fuses := f, fabric := g } := by
  rw [State.lowerCheck]
  split
  · obtain ⟨ev, dr, f, h⟩ := setLevel_writes (s.modFw (fun w => { w with levelHold := 0 })) (min s.smp.req s.smp.level) 0
    rw [h]
    exact ⟨_, _, _, _, rfl⟩
  · exact ⟨_, _, _, _, rfl⟩

theorem loanCheck_writes (s : State) : ∃ l, s.loanCheck = { s with loan := l } := by
  rw [State.loanCheck]
  split <;> exact ⟨_, rfl⟩

theorem stopCheck_writes (s : State) : ∃ r m, s.stopCheck = { s with run := r, smp := m } := by
  rw [State.stopCheck]
  split
  · exact ⟨_, _, rfl⟩
  · split
    · exact ⟨_, _, rfl⟩
    · exact ⟨_, _, rfl⟩

/-- What the checks at a channel's entry into MEM may write. -/
theorem enterMem_writes (s : State) (ch : Nat) : ∃ l n m f g r, s.enterMem ch = { s.enteredMem ch with
    loan := l, fw := { (s.enteredMem ch).fw with levelHold := n }, smp := m, fuses := f, fabric := g, run := r } := by
  rw [enterMem_eq]
  generalize s.enteredMem ch = u
  obtain ⟨l, hl⟩ := loanCheck_writes u
  rw [hl]
  obtain ⟨n, m, f, g, hw⟩ := lowerCheck_writes { u with loan := l }
  rw [hw]
  obtain ⟨r, m', hr⟩ := stopCheck_writes { u with loan := l, fw := { u.fw with levelHold := n }, smp := m, fuses := f, fabric := g }
  rw [hr]
  exact ⟨_, _, _, _, _, _, rfl⟩

theorem enteredMem_leaves (s : State) {ch : Nat} (hch : ch < 32) : ((s.enteredMem ch).chan ch).mode = .mem ∧
    ((s.enteredMem ch).chan ch).rows = [] ∧ ((s.enteredMem ch).chan ch).catchup = 0 ∧ (s.enteredMem ch).quiet ch ∧
    ∀ j, j ≠ ch → (s.enteredMem ch).chan j = s.chan j := by
  have hquiet := quiet_issueDue (s.issueSince ch (s.chan ch).since) hch
  obtain ⟨hi, -⟩ := issued_issuePeriod s hch (s.refreshPeriod - 1) (s.chan ch).since
  obtain ⟨hi', -⟩ := issued_issuePeriod (s.issueSince ch (s.chan ch).since) hch (s.issueSince ch (s.chan ch).since).refreshPeriod 0
  have hothers : ∀ j, j ≠ ch → ((s.issueSince ch (s.chan ch).since).issueDue ch).chan j = s.chan j := fun j hj =>
    (hi'.others j hj).trans (hi.others j hj)
  unfold State.enteredMem
  generalize (s.issueSince ch (s.chan ch).since).issueDue ch = u at hquiet hothers ⊢
  have hself : (u.modChan ch (fun c => { c with mode := .mem, since := u.time, catchup := 0, rows := [] })).chan ch =
      { u.chan ch with mode := .mem, since := u.time, catchup := 0, rows := [] } := getV_modV_self _ _ _ _ hch
  refine ⟨by rw [hself], by rw [hself], by rw [hself], hquiet.modChan _ (fun _ => rfl), fun j hj => ?_⟩
  rw [State.chan_modChan, if_neg (fun h => hj h.1.symm)]
  exact hothers j hj

/-- A fall that a stuck channel begins. -/
theorem stuck_falls (s : State) (ch : Nat) (hst : s.fw.stage = []) : (s.stuck ch).fall = true ∧ (s.stuck ch).fw.stage = [] := by
  have hfall := (falling_classX s { code := 0x0715, cls := .x, unit := 0x0002, index := ch, arg0 := Config.freeNat s.free }).fall
  refine ⟨hfall, ?_⟩
  rw [State.stuck, State.tickFree]
  dsimp only
  cases h : s.fall with
  | false =>
    obtain ⟨⟨_, _, _, _, _, _, _, _, _, _, _, _, _, _, _, _, hb⟩, -⟩ := fallen_classX
      { code := 0x0715, cls := .x, unit := 0x0002, index := ch, arg0 := Config.freeNat s.free } h
    rw [hb]
  | true =>
    obtain ⟨l, ev, dr, b, herr⟩ := s.error_posts { code := 0x0715, cls := .x, unit := 0x0002, index := ch, arg0 := Config.freeNat s.free }
    rw [classX_again _ h, herr]
    exact hst

theorem transit_chOwn (c : Channel) (t : Nat) (hm : c.mode = .mem) (hf : c.fenced = false) : chOwn (c.transit .toProc t) = true := by
  rw [transit_toProc_of_mem t hm hf]
  rfl

/-- Settles O41. -/
theorem transits : Obligations.Transits := by
  unfold Obligations.Transits
  refine ⟨fun c t hm hf => ⟨transit_toProc_of_mem t hm hf, transit_chOwn c t hm hf⟩, fun c t => ⟨fun hf => ?_, transit_toMem_of_proc t⟩, fun s ch hon => ?_⟩
  · rw [Channel.transit, hf]
    rfl
  have hch : (ch : Nat) < 32 := ch.isLt
  refine ⟨fun x ⟨hx, ha, he, ht⟩ hp => ?_, fun x ⟨hx, ha, he, ht⟩ hp hm => ?_, fun x ⟨hx, ha, he, ht⟩ hp hm => ?_,
    fun x hx ht => exec_segmentBoundary_early hon hx ht, fun hst => ⟨fun ht hm he => ?_, fun ht hm => ?_, fun ht stuck => ?_, fun ht hm => ?_⟩⟩
  · rw [exec_segmentBoundary hon hx ha he ht, hp, if_pos rfl, State.transit_toProc, modChan_modChan]
    simp only [Channel.transit_segIdx]
    rfl
  · rw [exec_segmentBoundary hon hx ha he ht, hp, if_neg Bool.false_ne_true, State.transit_toMem_idle hm, modChan_modChan]
    simp only [Channel.transit_segIdx]
    rfl
  · have hexec := exec_segmentBoundary hon hx ha he ht
    rw [hp, if_neg Bool.false_ne_true] at hexec
    obtain ⟨hout, ⟨n, e, r, hself⟩, hquiet, hothers⟩ := State.leaveProc hch hm
    obtain ⟨v, o, hv⟩ := hout
    generalize s.transit ch .toMem = u at hexec hself hquiet hothers hv
    have hchan : (u.modChan ch (fun c => { c with segIdx := c.segIdx + 1 })).chan ch = { u.chan ch with segIdx := (u.chan ch).segIdx + 1 } :=
      getV_modV_self _ _ _ _ hch
    have hq := hquiet.modChan (fun c => { c with segIdx := c.segIdx + 1 }) (fun _ => rfl)
    have hcfg : s.hold (u.modChan ch (fun c => { c with segIdx := c.segIdx + 1 })) = u.modChan ch (fun c => { c with segIdx := c.segIdx + 1 }) :=
      hold_of _ _ (by rw [hv]; rfl) (by rw [hv]; rfl) (by rw [hv]; rfl)
    rw [hcfg] at hexec
    refine ⟨_, hexec, by rw [hchan, hself], by rw [hchan, hself], by rw [hchan, hself], fun pc bank => hq pc bank pc.isLt bank.isLt, fun j hj => ?_, by rw [hv]; rfl⟩
    rw [State.chan_modChan, if_neg (fun h => hj h.1.symm)]
    exact hothers j hj
  · have hst' : (s.enterProc ch).fw.stage = [] := hst
    rw [exec_transitEnd ch false hon, transitEnds_toProc hm ht he, stageResume_none hst']
    rfl
  · have hexec := exec_transitEnd ch false hon
    obtain ⟨l, n, m, f, g, r, hw⟩ := enterMem_writes s ch
    obtain ⟨hmode, hrows, hcatch, hquiet, hothers⟩ := enteredMem_leaves s hch
    obtain ⟨v, o, hv⟩ := enteredMem_chansOut s ch
    have hst' : (s.enterMem ch).fw.stage = [] := by rw [hw, hv]; exact hst
    rw [transitEnds_toMem hm ht, stageResume_none hst', hw] at hexec
    generalize s.enteredMem ch = u at *
    refine ⟨_, hexec, hmode, ?_, hrows, hcatch, fun pc bank => ?_, hothers⟩
    · exact decide_eq_false (fun h => h hmode)
    · exact hquiet pc bank pc.isLt bank.isLt
  · rw [exec_transitEnd ch stuck hon, transitEnds_early stuck ht, stageResume_none hst]
    rfl
  · obtain ⟨hfall, hstage⟩ := stuck_falls s ch hst
    have hexec := exec_transitEnd ch true hon
    rw [transitEnds_stuck hm ht, stageResume_none hstage] at hexec
    exact ⟨_, hexec, hfall, level_of_fall hfall⟩

/-! ### Refreshes at their tick, and the catch-up -/

theorem exec_refreshTick {s : State} {ch : Fin 32} {pc : Fin 2} {bank : Fin 32} (hon : OnChannel s ch) (hm : (s.chan ch).mode ≠ .mem)
    (hf : (s.chan ch).fenced = false) (hc : (s.chan ch).catchup = 0) (hd : s.refreshDue ch pc bank = true) :
    exec (.refreshTick ch pc bank) s = .next (s.issueRefresh ch s.refreshPeriod pc bank) := by
  change execRefreshTick ch pc bank s = _
  rw [execRefreshTick, onChan_awake s ch _ hon]
  exact congrArg (fun u => Host.Outcome.next (s.hold u)) (when_of_true (by simp [hm, hf, hc, hd]) _ s)

theorem exec_refreshTick_idle {s : State} {ch : Fin 32} {pc : Fin 2} {bank : Fin 32} (hon : OnChannel s ch)
    (h : (s.chan ch).mode = .mem ∨ s.refreshDue ch pc bank = false) : exec (.refreshTick ch pc bank) s = .next s := by
  change execRefreshTick ch pc bank s = _
  rw [execRefreshTick, onChan_awake s ch _ hon]
  exact congrArg (fun u => Host.Outcome.next (s.hold u)) (when_of_false (by rcases h with h | h <;> simp [h]) _ s)

theorem exec_catchupRefreshDone {s : State} {ch : Fin 32} (hon : OnChannel s ch) (hm : (s.chan ch).mode = .proc) (hc : 0 < (s.chan ch).catchup)
    (ht : (s.chan ch).since + (s.chan ch).catchup * s.disc.tRfcAb ≤ s.time) :
    exec (.catchupRefreshDone ch) s = .next (s.hold ((s.modChan ch (fun c => { c with catchup := 0 })).evalCheck)) := by
  change execCatchupRefreshDone ch s = _
  rw [execCatchupRefreshDone, onChan_awake s ch _ hon]
  exact congrArg (fun u => Host.Outcome.next (s.hold u)) (when_of_true (by simp [hm, hc, ht]) _ s)

theorem exec_csqFault {s : State} {ch : Fin 32} (parity : BitVec 16) (hon : OnChannel s ch) : exec (.csqFault ch parity) s = .next (s.hold
    ((s.fenceChannel ch).error { code := 0x0205, cls := .j, unit := 0x0002, index := ch, arg0 := parity.toNat })) := by
  change execCsqFault ch parity s = _
  rw [execCsqFault, onChan_awake s ch _ hon]

theorem fenceChannel_idle {s : State} {ch : Nat} (hform : s.formula = none) (hf : (s.chan ch).fenced = false) : s.fenceChannel ch =
    (((s.transit ch .toMem).modChan ch (fun c => { c with fenced := true })).modAtm ch (fun a => { a with seg := none })) := by
  have hform' : (s.transit ch .toMem).formula = none := by
    obtain ⟨v, o, h⟩ := chansOut_transit s ch .toMem
    rw [h]
    exact hform
  generalize hu : s.transit ch .toMem = u at hform'
  have hnone : ((u.modChan ch (fun c => { c with fenced := true })).modAtm ch (fun a => { a with seg := none })).formula.isNone = true := by
    change u.formula.isNone = true
    rw [hform']
    rfl
  rw [State.fenceChannel, if_neg (Bool.eq_false_iff.mp hf)]
  dsimp only
  rw [hu, if_pos hnone]

/-- Settles O42. -/
theorem refreshAndChannelFence : Obligations.RefreshAndChannelFence := by
  unfold Obligations.RefreshAndChannelFence
  intro s ch pc bank hon
  have hch : (ch : Nat) < 32 := ch.isLt
  refine ⟨fun hm hf hc hd => ?_, fun h => exec_refreshTick_idle hon h, fun hm hc ht => ⟨fun he => ?_, fun he hall => ?_⟩,
    fun parity => ⟨exec_csqFault parity hon, fun hform hf => ?_⟩⟩
  · obtain ⟨hi, hmem⟩ := issued_issueRefresh s hch s.refreshPeriod pc bank
    have hself : (s.issueRefresh ch s.refreshPeriod pc bank).chan ch = _ := getV_modV_self _ _ _ _ hch
    refine ⟨_, exec_refreshTick hon hm hf hc hd, rfl, (congrArg Channel.refreshes hself :), ?_, fun j hj => ?_, rfl⟩
    · rw [State.refreshDue, refreshPeriod_chansOut hi.out]
      exact refreshOwed_of_mem hmem
    · exact hi.others j (Fin.val_ne_of_ne hj)
  · rw [exec_catchupRefreshDone hon hm hc ht, State.evalCheck, if_neg (fun h => he h.1)]
    rfl
  · have hself : (s.modChan ch (fun c => { c with catchup := 0 })).chan ch = { s.chan ch with catchup := 0 } := getV_modV_self _ _ _ _ hch
    have hback : (s.modChan ch (fun c => { c with catchup := 0 })).allBack = true := by
      refine (State.allBack_iff _).mpr fun j hj => ?_
      by_cases hjc : j = ch
      · rw [hjc, hself]
        exact .inr ⟨hm, rfl⟩
      · rw [State.chan_modChan, if_neg (fun h => hjc h.1.symm)]
        exact hall j hj hjc
    rw [exec_catchupRefreshDone hon hm hc ht, State.evalCheck_closing (s.modChan ch _) he, if_pos hback]
    rfl
  · have hproc : (s.chan ch).mode = .proc → ((s.transit ch .toMem).chan ch).mode = .toMem := fun hm => by
      obtain ⟨-, ⟨n, e, r, hself⟩, -⟩ := State.leaveProc hch hm
      rw [hself]
    rw [fenceChannel_idle hform hf]
    generalize s.transit ch .toMem = u at hproc
    have hself : (u.modChan ch (fun c => { c with fenced := true })).chan ch = { u.chan ch with fenced := true } := getV_modV_self _ _ _ _ hch
    have hatm : ((u.modChan ch (fun c => { c with fenced := true })).modAtm ch (fun a => { a with seg := none })).atmCh ch =
        { u.atmCh ch with seg := none } := getV_modV_self _ _ _ _ hch
    exact ⟨hself, congrArg Channel.fenced hself, fun hm => (congrArg Channel.mode hself :).trans (hproc hm), congrArg AtmChannel.seg hatm⟩

end Sys2Proof.Machine
end

section
/-! Proof of O44: the intake's slots and folds (R137 to R139, R148). -/

namespace Sys2Proof.Machine

open Sys2Proof.Bits

theorem le_skipEmpties (empties : List Nat) (n r : Nat) : r ≤ skipEmpties empties n r := by
  induction n generalizing r with
  | zero => exact Nat.le_refl r
  | succ n ih =>
    rw [skipEmpties]
    split
    · exact Nat.le_of_succ_le (ih (r + 1))
    · exact Nat.le_refl r

/-- A fold touches neither the ranks nor the empties of a slot. -/
theorem Slot.fold_ranks (t : Slot) (wx : Bool) (h : Held) : (t.fold wx h).next = t.next ∧ (t.fold wx h).empties = t.empties ∧ (t.fold wx h).k = t.k := by
  rw [Slot.fold]
  split
  · exact ⟨rfl, rfl, rfl⟩
  · dsimp only
    split <;> exact ⟨rfl, rfl, rfl⟩

theorem Slot.foldTurn_next (t : Slot) (h : Held) : (t.foldTurn h).next = t.next.set h.chunk (skipEmpties t.empties t.k (h.rank + 1)) := by
  obtain ⟨hn, he, hk⟩ := t.fold_ranks false h
  rw [Slot.foldTurn, hn, he, hk]

theorem Slot.due_mem {t : Slot} {h : Held} (hd : t.due = some h) : h ∈ t.held ∧ t.next.getD h.chunk 0 = h.rank :=
  ⟨List.mem_of_find?_eq_some hd, of_decide_eq_true (List.find?_some hd :)⟩

theorem modAt_congr {α : Type} {l : List α} {i : Nat} {f g : α → α} (h : ∀ a, l[i]? = some a → f a = g a) : modAt l i f = modAt l i g := by
  refine List.ext_getElem? fun j => ?_
  rw [modAt, modAt, List.getElem?_modify, List.getElem?_modify]
  cases ha : l[j]? with
  | none => rfl
  | some a =>
    by_cases hij : i = j
    · subst hij
      simp [h a ha]
    · simp [hij]

/-- A slot at hand, in place. -/
structure SlotAt (s : State) (i : Nat) (t : Slot) : Prop where
  shard : ∃ x, s.shards[i]? = some x ∧ s.shard i = x
  slot : (s.shard i).slot = some t

theorem slotAt {s : State} {i : Nat} {t : Slot} (h : (s.shard i).slot = some t) : SlotAt s i t := by
  refine ⟨?_, h⟩
  cases hx : s.shards[i]? with
  | none =>
    rw [State.shard, List.getD_eq_getElem?_getD, hx] at h
    cases h
  | some x => exact ⟨x, rfl, by rw [State.shard, List.getD_eq_getElem?_getD, hx]; rfl⟩

theorem SlotAt.modSlot {s : State} {i : Nat} {t : Slot} (h : SlotAt s i t) (f : Slot → Slot) : s.modSlot i f = s.modSlot i (fun _ => f t) := by
  obtain ⟨⟨x, hx, hs⟩, hslot⟩ := h
  refine congrArg (fun l => { s with shards := l }) (modAt_congr fun a ha => ?_)
  have ha' : a = x := Option.some.inj (ha.symm.trans hx)
  have hslot' : a.slot = some t := by rw [ha', ← hs]; exact hslot
  rw [hslot']
  rfl

theorem SlotAt.slot_modSlot {s : State} {i : Nat} {t : Slot} (h : SlotAt s i t) (u : Slot) :
    ((s.modSlot i (fun _ => u)).shard i).slot = some u := by
  obtain ⟨⟨x, hx, hs⟩, hslot⟩ := h
  rw [hs] at hslot
  rw [State.modSlot, State.shard, State.modShard_shards, List.getD_eq_getElem?_getD, modAt, List.getElem?_modify, hx]
  simp [hslot]

/-- An incomplete slot stays open. -/
theorem slotCheck_incomplete {s : State} {i : Nat} {t : Slot} {e : ShardEntry} (he : shardEntry s.form i = some e) (hs : (s.shard i).slot = some t)
    (hc : t.complete e.wx = false) : s.slotCheck i = s := by
  rw [State.slotCheck, he, hs]
  dsimp only
  rw [hc, Bool.not_false, Bool.or_true, if_pos rfl]

section
variable {s : State} {shard : Word32} (hs : Awake s)
include hs

theorem exec_slotOpen {p : PlanEntry} (hp : planOf s.form shard.toNat = some p) (hf : s.formula.isSome = true)
    (hslot : (s.shard shard.toNat).slot = none) (ho : s.openPoint shard.toNat p = true)
    (hr : s.shardBad shard.toNat = true ∨ s.slotRoom p = true) :
    exec (.slotOpen shard) s = .next (s.hold ((s.openSlot shard.toNat p).retryHeld)) := by
  change execSlotOpen shard s = _
  rw [execSlotOpen, act_awake s _ hs, hp]
  have hroom : (s.shardBad shard.toNat || s.slotRoom p) = true := Bool.or_eq_true_iff.mpr hr
  exact congrArg (fun u => Host.Outcome.next (s.hold u)) (when_of_true (by simp [hf, hslot, ho, hroom]) _ s)

theorem exec_slotOpen_again (h : (s.shard shard.toNat).slot.isSome = true) : exec (.slotOpen shard) s = .next s := by
  change execSlotOpen shard s = _
  rw [execSlotOpen, act_awake s _ hs]
  refine congrArg (fun u => Host.Outcome.next (s.hold u)) ?_
  split
  · have hopen : (s.shard shard.toNat).slot.isNone = false := by rw [← Option.not_isSome, h]; rfl
    exact when_of_false (by rw [hopen]; simp) _ s
  · rfl

theorem exec_oaFold {t : Slot} {h : Held} (hslot : (s.shard shard.toNat).slot = some t) (hd : t.due = some h) :
    exec (.oaFold shard) s = .next (s.hold
      ((s.modSlot shard.toNat (fun _ => ({ t with held := t.held.erase h } : Slot).foldTurn h)).slotCheck shard.toNat)) := by
  change execOaFold shard s = _
  have hbind : (s.shard shard.toNat).slot.bind Slot.due = some h := by rw [hslot]; exact hd
  rw [execOaFold, act_awake s _ hs, hbind]
  dsimp only
  rw [(slotAt hslot).modSlot]

theorem exec_oaFold_none {t : Slot} (hslot : (s.shard shard.toNat).slot = some t) (hd : t.due = none) : exec (.oaFold shard) s = .next s := by
  change execOaFold shard s = _
  have hbind : (s.shard shard.toNat).slot.bind Slot.due = none := by rw [hslot]; exact hd
  rw [execOaFold, act_awake s _ hs, hbind]
  rfl

end

/-- Settles O44. -/
theorem slotsAndFolds : Obligations.SlotsAndFolds := by
  unfold Obligations.SlotsAndFolds
  refine ⟨fun t h hd => ?_, fun s shard hs => ⟨fun p hp hf hslot ho hr => exec_slotOpen hs hp hf hslot ho hr, exec_slotOpen_again hs,
    fun t h hslot hd => ⟨exec_oaFold hs hslot hd, fun e he hc => ?_⟩, fun t hslot hd => exec_oaFold_none hs hslot hd⟩⟩
  · obtain ⟨hmem, hturn⟩ := Slot.due_mem hd
    exact ⟨hmem, hturn, t.foldTurn_next h, le_skipEmpties t.empties t.k (h.rank + 1)⟩
  · rw [exec_oaFold hs hslot hd, slotCheck_incomplete (s := s.modSlot shard.toNat _) he ((slotAt hslot).slot_modSlot _) hc]
    rfl

end Sys2Proof.Machine
end

section
/-! Proof of O43: the step anchor (R161) and the step record (R103, R106). -/

namespace Sys2Proof.Machine

open Sys2Proof.Bits

/-! ### The anchor -/

theorem anchorAllowed_iff (s : State) : s.anchorAllowed = true ↔ s.formula.isSome = true ∧ 2 ≤ s.level ∧ s.form.hdr.epoch = s.fabric.epoch ∧
    s.run.eval = .closed ∧ s.run.stopping = false ∧ ¬ (s.smp.pendingLevel = true ∧ s.smp.req < s.smp.level) ∧ s.anchorBlocked = false ∧
    s.live cRestore = false ∧ s.live cAdopt = false := by
  have hlow : s.lowering = false ↔ ¬ (s.smp.pendingLevel = true ∧ s.smp.req < s.smp.level) := by
    rw [State.lowering, ← Bool.not_eq_true, Bool.and_eq_true, decide_eq_true_iff]
  rw [State.anchorAllowed, ← hlow]
  simp only [Bool.and_eq_true, Bool.not_eq_true', decide_eq_true_eq, and_assoc]

section
variable {s : State} (hs : Awake s)
include hs

theorem exec_stepAnchor (ha : s.anchorAllowed = true) (hb : s.run.boundedAt ≤ s.time) (hn : s.run.arrived = true ∨ s.run.stepBegin = true) :
    exec .stepAnchor s = .next (s.hold s.anchor) := by
  have hready : (s.anchorAllowed && s.boundedPassed && (s.run.arrived || s.run.stepBegin)) = true := by
    rw [ha, State.boundedPassed, decide_eq_true hb, Bool.or_eq_true_iff.mpr hn]
    rfl
  change execStepAnchor s = _
  rw [execStepAnchor, act_awake s _ hs, when_of_true hready]

theorem exec_stepAnchor_waits (h : s.anchorAllowed = false ∨ s.time < s.run.boundedAt ∨ (s.run.arrived = false ∧ s.run.stepBegin = false)) :
    exec .stepAnchor s = .next s := by
  have hready : (s.anchorAllowed && s.boundedPassed && (s.run.arrived || s.run.stepBegin)) = false := by
    rcases h with h | h | ⟨h, h'⟩
    · rw [h]; rfl
    · rw [State.boundedPassed, decide_eq_false (Nat.not_le.mpr h), Bool.and_false, Bool.false_and]
    · rw [h, h']; exact Bool.and_false _
  change execStepAnchor s = _
  rw [execStepAnchor, act_awake s _ hs, when_of_false hready]
  rfl

end

/-! ### The step record -/

/-- What a report of an envelope may write. -/
def Enveloped (s t : State) : Prop := ∃ sh m c tm, t = { s with shards := sh, smp := m, counters := c, run := { s.run with times := tm } }

theorem Enveloped.refl (s : State) : Enveloped s s := ⟨_, _, _, _, rfl⟩

theorem Enveloped.trans {s t u : State} (h : Enveloped s t) (h' : Enveloped t u) : Enveloped s u := by
  obtain ⟨sh, m, c, tm, rfl⟩ := h
  obtain ⟨sh', m', c', tm', rfl⟩ := h'
  exact ⟨sh', m', c', tm', rfl⟩

theorem enveloped_envelope (s : State) (shard step reason : Nat) : Enveloped s (s.envelope shard step reason) := by
  rw [State.envelope]
  split
  · exact .refl s
  · exact ⟨_, _, _, _, rfl⟩

/-- The buffers after a record is written. -/
def Stills.put (t : Stills) (r : StepRecord) : Stills :=
  match t.current, t.nextRec with
  | none, _ => { t with current := some r }
  | some _, none => { t with nextRec := some r }
  | some _, some n => { t with current := some n, nextRec := some r }

/-- The state with the record of a step written, before reports. -/
def State.recorded (s : State) (u : Nat) (l : Int) : State :=
  ({ s with free := s.free + 32 } : State).modStills (fun t => t.put (s.stepRecord s.nextRecordStep u l))

/-- The step that a record is written for is that after the latest record's. -/
theorem nextRecordStep_current {s : State} {c : StepRecord} (hc : s.stills.current = some c) (hn : s.stills.nextRec = none) :
    s.nextRecordStep = c.step + 1 := by rw [State.nextRecordStep, hc, hn]

theorem nextRecordStep_next {s : State} {n : StepRecord} (hn : s.stills.nextRec = some n) : s.nextRecordStep = n.step + 1 := by
  rw [State.nextRecordStep, hn]

theorem recordFor_current {s : State} {r : StepRecord} (h : s.stills.current = some r) : s.recordFor r.step = some r := by
  rw [State.recordFor, h]
  simp

theorem recordFor_next {s : State} {c r : StepRecord} (h : s.stills.current = some c) (h' : s.stills.nextRec = some r) (hne : c.step ≠ r.step) :
    s.recordFor r.step = some r := by
  rw [State.recordFor, h, h']
  simp [hne]

theorem recordFor_recorded (s : State) (u : Nat) (l : Int) :
    (s.recorded u l).recordFor s.nextRecordStep = some (s.stepRecord s.nextRecordStep u l) := by
  have hstep : (s.stepRecord s.nextRecordStep u l).step = s.nextRecordStep := rfl
  have hput : (s.recorded u l).stills = s.stills.put (s.stepRecord s.nextRecordStep u l) := rfl
  generalize s.stepRecord s.nextRecordStep u l = r at hstep hput
  rw [← hstep]
  cases hc : s.stills.current with
  | none => exact recordFor_current (by rw [hput, Stills.put, hc])
  | some c =>
    cases hn : s.stills.nextRec with
    | none =>
      refine recordFor_next (c := c) (by rw [hput, Stills.put, hc, hn]) (by rw [hput, Stills.put, hc, hn]) ?_
      rw [hstep, nextRecordStep_current hc hn]
      exact Nat.ne_of_lt (Nat.lt_succ_self c.step)
    | some n =>
      refine recordFor_next (c := n) (by rw [hput, Stills.put, hc, hn]) (by rw [hput, Stills.put, hc, hn]) ?_
      rw [hstep, nextRecordStep_next hn]
      exact Nat.ne_of_lt (Nat.lt_succ_self n.step)

/-- What a written record is told to those whose slots were complete. -/
def State.recordTold (s : State) (m : Nat) : State :=
  if s.run.anchored && decide (m ≤ s.run.lastStep) then
    eachIn (s.ownedShards.filter (fun i => ((s.shard i).slot.bind Slot.result).isSome)) (fun s i => s.envelope i m envRecord) s
  else s

theorem enveloped_recordTold (s : State) (m : Nat) : Enveloped s (s.recordTold m) := by
  rw [State.recordTold]
  split
  · exact eachIn_related Enveloped.refl Enveloped.trans _ (fun s i => enveloped_envelope s i m envRecord) _ s
  · exact .refl s

/-- What writing a record leaves. -/
structure Recorded (s : State) (u : Nat) (l : Int) (t : State) : Prop where
  record : t.recordFor s.nextRecordStep = some (s.stepRecord s.nextRecordStep u l)
  free : t.free = s.free + 32
  steps : t.run.steps = s.run.steps
  fabric : t.fabric = s.fabric
  dram : t.dram = s.dram

theorem recorded_told (s : State) (u : Nat) (l : Int) : Recorded s u l ((s.recorded u l).recordTold s.nextRecordStep) := by
  have hrec := recordFor_recorded s u l
  obtain ⟨sh, m, c, tm, h⟩ := enveloped_recordTold (s.recorded u l) s.nextRecordStep
  rw [h]
  exact ⟨hrec, rfl, rfl, rfl, rfl⟩

section
variable {s : State} (hs : Awake s) (hf : s.formula.isSome = true) (hp : s.present 0 = true) (hr : s.recordRoom = true)
include hs hf hp hr

theorem exec_stepRecordWrite_after {prev : StepSt} (hfind : s.run.steps.find? (fun t => decide (t.step + 1 = s.nextRecordStep)) = some prev)
    (hd : prev.decided = true) :
    exec .stepRecordWrite s = .next (s.hold ((s.recorded (prev.u + 1) prev.l).recordTold s.nextRecordStep)) := by
  change execStepRecordWrite s = _
  rw [execStepRecordWrite, act_awake s _ hs]
  dsimp only
  rw [hfind, hf, hp, hr]
  exact congrArg (fun u => Host.Outcome.next (s.hold u)) (when_of_true (by simp [hd]) _ s)

theorem exec_stepRecordWrite_first (hfind : s.run.steps.find? (fun t => decide (t.step + 1 = s.nextRecordStep)) = none)
    (hn : s.nextRecordStep = s.run.nextStep) :
    exec .stepRecordWrite s = .next (s.hold ((s.recorded (s.run.updates + 1) s.run.lossExp).recordTold s.nextRecordStep)) := by
  change execStepRecordWrite s = _
  rw [execStepRecordWrite, act_awake s _ hs]
  dsimp only
  rw [hfind, hf, hp, hr]
  exact congrArg (fun u => Host.Outcome.next (s.hold u)) (when_of_true (by simp [hn]) _ s)

end

theorem exec_stepRecordWrite_waits {s : State} (hs : Awake s) {prev : StepSt}
    (hfind : s.run.steps.find? (fun t => decide (t.step + 1 = s.nextRecordStep)) = some prev) (hd : prev.decided = false) :
    exec .stepRecordWrite s = .next s := by
  change execStepRecordWrite s = _
  rw [execStepRecordWrite, act_awake s _ hs]
  dsimp only
  rw [hfind]
  exact congrArg (fun u => Host.Outcome.next (s.hold u)) (when_of_false (by simp [hd]) _ s)

/-- Settles O43. -/
theorem stepAnchorAndRecord : Obligations.StepAnchorAndRecord := by
  unfold Obligations.StepAnchorAndRecord
  refine ⟨fun s hs => ⟨anchorAllowed_iff s, exec_stepAnchor hs, exec_stepAnchor_waits hs⟩,
    fun s prev hs hf hp hr hfind => ⟨fun hd => ?_, exec_stepRecordWrite_waits hs hfind⟩, fun s hs hf hp hr hn hfind => ?_⟩
  · obtain ⟨hrec, hfree, hsteps, hfabric, hdram⟩ := recorded_told s (prev.u + 1) prev.l
    exact ⟨_, exec_stepRecordWrite_after hs hf hp hr hfind hd, hrec, hfree, hsteps, hfabric, hdram⟩
  · obtain ⟨hrec, hfree, hsteps, hfabric, hdram⟩ := recorded_told s (s.run.updates + 1) s.run.lossExp
    exact ⟨_, exec_stepRecordWrite_first hs hf hp hr hfind hn, hrec, hfree, hsteps, hfabric, hdram⟩

end Sys2Proof.Machine
end

section
/-! Proof of O47: Atomizer segments, the token bucket and GO (R192, R195, R209 to R219). -/

namespace Sys2Proof.Machine

open Sys2Proof.Bits

/-! ### The Atomizer side of a channel -/

theorem atmCh_modAtm_self (s : State) {ch : Nat} (hch : ch < 32) (f : AtmChannel → AtmChannel) : (s.modAtm ch f).atmCh ch = f (s.atmCh ch) :=
  getV_modV_self _ _ _ _ hch

theorem atmCh_modAtm (s : State) (i ch : Nat) (f : AtmChannel → AtmChannel) :
    (s.modAtm i f).atmCh ch = if i = ch ∧ i < 32 then f (s.atmCh ch) else s.atmCh ch := by
  split
  next h =>
    obtain ⟨rfl, hi⟩ := h
    exact atmCh_modAtm_self s hi f
  next h =>
    by_cases hi : i = ch
    · have hout : 32 ≤ i := Nat.not_lt.mp fun hlt => h ⟨hi, hlt⟩
      simp [State.atmCh, State.modAtm, getV, modV, hi ▸ hout]
    · exact getV_modV_ne _ _ _ _ _ hi

theorem modAtm_modAtm (s : State) (ch : Nat) (f g : AtmChannel → AtmChannel) : (s.modAtm ch f).modAtm ch g = s.modAtm ch (fun a => g (f a)) := by
  rw [State.modAtm, State.modAtm, modV_modV]
  rfl

/-! ### Segments -/

section
variable {s : State} {ch : Fin 32} (hon : OnChannel s ch) {p : AtmProgram} {n : Nat} (hp : s.progAt ch = some (p, n))
  (hf : s.formula.isSome = true) (hg : (s.atmCh ch).seg = none) (ha : s.progAllowed p n = true)
include hon hp hf hg ha

/-- The channels of a program that run a segment of it. -/
def State.runningMask (s : State) (p : AtmProgram) (n : Nat) : Nat :=
  (List.range (channels s.cfg)).foldl (fun a c => match (s.atmCh c).seg with
    | some g => if g.prog = p.prog ∧ g.step = n then a + 2 ^ c else a
    | none => a) 0

/-- The conditions of a start of a segment at this moment (R211, R213). -/
def State.startOk (s : State) (ch : Nat) (p : AtmProgram) : Bool :=
  s.onTick && decide (s.level = 3) && s.disc.aStack && s.disc.isMatch && bit s.disc.atmMask ch && s.chanReady ch && !s.stillBusy ch &&
    s.stretchOk ch (segWorst s p (s.atmCh ch).segIdx)

omit hon hp hf hg ha in
theorem startOk_iff (s : State) (ch : Nat) (p : AtmProgram) : s.startOk ch p = true ↔ s.onTick = true ∧ s.level = 3 ∧ s.disc.aStack = true ∧
    s.disc.isMatch = true ∧ bit s.disc.atmMask ch = true ∧ s.chanReady ch = true ∧ s.stillBusy ch = false ∧
    s.stretchOk ch (segWorst s p (s.atmCh ch).segIdx) = true := by
  rw [State.startOk]
  simp only [Bool.and_eq_true, Bool.not_eq_true', decide_eq_true_eq, and_assoc]

theorem exec_atmSegmentStart : exec (.atmSegmentStart ch) s = .next (s.hold
    (if (s.stepSt n).skipped && !p.runOnSkip then
      (s.modResult p.prog n (fun r => { r with skipped := true })).channelsDone p n (Nat.land p.chmask (2 ^ channels s.cfg - 1))
    else if p.sillage && !s.keyOk then
      (s.refuseProgram p n 0x0303 0).channelsDone p n (Nat.xor (Nat.land p.chmask (2 ^ channels s.cfg - 1)) (s.runningMask p n))
    else if s.atmFenced p || ((s.atmResult p.prog n).map AtmResult.refused).getD false then
      (s.refuseProgram p n 0x0402 1).channelsDone p n (Nat.xor (Nat.land p.chmask (2 ^ channels s.cfg - 1)) (s.runningMask p n))
    else when (s.startOk ch p) (fun s => s.startSegment ch p n) s)) := by
  change execAtmSegmentStart ch s = _
  rw [execAtmSegmentStart, onChan_awake s ch _ hon, hp]
  exact congrArg (fun u => Host.Outcome.next (s.hold u)) (when_of_true (by simp [hf, hg, ha]) _ s)

end

theorem seg_startSegment (s : State) {ch : Nat} (hch : ch < 32) (p : AtmProgram) (n : Nat) : ∃ g, ((s.startSegment ch p n).atmCh ch).seg = some g ∧
    g.prog = p.prog ∧ g.step = n ∧ g.seg = (s.atmCh ch).segIdx ∧ g.goes = [0, 0] ∧ g.dones = [0, 0] ∧ g.rpts = [0, 0] := by
  unfold State.startSegment
  extract_lets seg first u late v w x lead y
  exact ⟨_, congrArg AtmChannel.seg (atmCh_modAtm_self _ hch _), rfl, rfl, rfl, rfl, rfl, rfl⟩

/-! ### The token bucket -/

theorem exec_bucketRefill {s : State} {ch : Fin 32} (hon : OnChannel s ch) (hf : s.formula.isSome = true)
    (ht : 20 * ((s.atmCh ch).refills + 1) ≤ s.time - s.admitTime) : exec (.bucketRefill ch) s = .next (s.modAtm ch (fun a =>
      { a with bucket := min 500 (a.bucket + 3), refills := a.refills + 1 })) := by
  change execBucketRefill ch s = _
  rw [execBucketRefill, onChan_awake s ch _ hon]
  exact congrArg (fun u => Host.Outcome.next (s.hold u)) (when_of_true (by simp [hf, ht]) _ s)

theorem exec_bucketRefill_early {s : State} {ch : Fin 32} (hon : OnChannel s ch)
    (ht : s.time - s.admitTime < 20 * ((s.atmCh ch).refills + 1)) : exec (.bucketRefill ch) s = .next s := by
  change execBucketRefill ch s = _
  rw [execBucketRefill, onChan_awake s ch _ hon]
  exact congrArg (fun u => Host.Outcome.next (s.hold u)) (when_of_false (by simp [Nat.not_le.mpr ht]) _ s)

/-! ### GO -/

/-- The bucket of a channel stays. -/
def SameBucket (ch : Nat) (s t : State) : Prop := (t.atmCh ch).bucket = (s.atmCh ch).bucket

theorem sameBucket_modAtm (s : State) (ch i : Nat) (f : AtmChannel → AtmChannel) (hf : ∀ a : AtmChannel, (f a).bucket = a.bucket) :
    SameBucket ch s (s.modAtm i f) := by
  rw [SameBucket, atmCh_modAtm]
  split
  · exact hf _
  · rfl

theorem SameBucket.modAtm {ch : Nat} {s t : State} (h : SameBucket ch s t) {i : Nat} {f : AtmChannel → AtmChannel}
    (hf : ∀ a : AtmChannel, (f a).bucket = a.bucket) : SameBucket ch s (t.modAtm i f) := Eq.trans (sameBucket_modAtm t ch i f hf) h

theorem sameBucket_eachUnit (s : State) (ch half : Nat) (f : Atomizer → Nat → Atomizer × AtmCounts) : SameBucket ch s (s.eachUnit ch half f) := by
  rw [State.eachUnit, State.addTally, modAtm_modAtm]
  refine sameBucket_modAtm s ch ch _ ?_
  exact fun _ => rfl

theorem atm_storeRow (s : State) (ch pc bank row : Nat) (x : Latch) : (s.storeRow ch pc bank row x).atm = s.atm := by
  unfold State.storeRow
  extract_lets ecc words u v
  have hv : v.atm = u.atm := by
    change (if u.poisonWords.isEmpty then u else _).atm = u.atm
    split <;> rfl
  exact hv

theorem sameBucket_storeRow (s : State) (ch c pc bank row : Nat) (x : Latch) : SameBucket ch s (s.storeRow c pc bank row x) := by
  rw [SameBucket, State.atmCh, atm_storeRow]
  rfl

theorem sameBucket_runHalf (s : State) (ch half : Nat) (k : AtmCtx) (c : AtmCmd) (hits : List EccHit) :
    SameBucket ch s (s.runHalf ch half k c hits) := by
  rw [State.runHalf]
  split
  · split
    · exact sameBucket_eachUnit s ch half _
    · rfl
  · split
    · extract_lets p us u bad v
      have hu : SameBucket ch s u :=
        eachIn_related (R := SameBucket ch) (fun _ => rfl) (fun h h' => Eq.trans h' h) _ (fun s x => sameBucket_storeRow s ch _ _ _ _ _) us s
      have hv : SameBucket ch s v := hu.modAtm (fun _ => rfl)
      split
      · exact hv.modAtm (fun _ => rfl)
      · exact hv
    · rfl
  · exact sameBucket_eachUnit s ch half _

theorem sameBucket_runCommand (s : State) (ch half : Nat) (p : AtmProgram) (n iter : Nat) (c : AtmCmd) (hits : List EccHit) :
    SameBucket ch s (s.runCommand ch half p n iter c hits) := by
  rw [State.runCommand]
  split
  · exact sameBucket_modAtm s ch ch _ (fun _ => rfl)
  · split
    · rfl
    · exact sameBucket_runHalf s ch half _ c hits

theorem bucket_sendGo (s : State) {ch : Nat} (hch : ch < 32) (half : Nat) (p : AtmProgram) (g : AtmSegment) (i : Nat) (c : AtmCmd) (iter : Nat)
    (hits : List EccHit) : ((s.sendGo ch half p g i c iter hits).atmCh ch).bucket = (s.atmCh ch).bucket - atmCycles p c iter := by
  unfold State.sendGo
  extract_lets cyc both beats u
  exact (sameBucket_runCommand u ch half p g.step iter c hits).trans (congrArg AtmChannel.bucket (atmCh_modAtm_self s hch _))

/-- Whether it is a half-set's turn for a command (R195). -/
def goTurn (c : AtmCmd) (half : Fin 2) (g : AtmSegment) (last : Bool) : Bool :=
  if bothHalves c then decide (g.goes.getD 0 0 = g.goes.getD 1 0) && ((c.cmd != 8 && !last) || g.goes == g.dones)
  else if half = 0 then decide (g.goes.getD 0 0 = g.goes.getD 1 0) else decide (g.goes.getD 1 0 + 1 = g.goes.getD 0 0)

theorem goTurn_iff (c : AtmCmd) (half : Fin 2) (g : AtmSegment) (last : Prop) [Decidable last] : goTurn c half g (decide last) = true ↔
    if bothHalves c then g.goes.getD 0 0 = g.goes.getD 1 0 ∧ ((c.cmd ≠ 8 ∧ ¬ last) ∨ g.goes = g.dones)
    else if half = 0 then g.goes.getD 0 0 = g.goes.getD 1 0 else g.goes.getD 1 0 + 1 = g.goes.getD 0 0 := by
  rw [goTurn]
  split
  · simp
  · split <;> exact decide_eq_true_iff

/-- Whether GO goes out for a command of a half-set now (R195, R216, R219). -/
def State.goReady (s : State) (ch : Nat) (half : Fin 2) (p : AtmProgram) (g : AtmSegment) (c : AtmCmd) (iter : Nat) : Bool :=
  decide (g.goes.getD half 0 < segLength p g.seg) && goTurn c half g (decide (g.goes.getD half 0 + 1 = segLength p g.seg)) &&
    decide (g.nominal ≤ s.time) && decide (atmCycles p c iter ≤ (s.atmCh ch).bucket) && roomToQueue g half c && s.chanReady ch &&
    decide (s.level = 3)

theorem goReady_iff (s : State) (ch : Nat) (half : Fin 2) (p : AtmProgram) (g : AtmSegment) (c : AtmCmd) (iter : Nat) :
    s.goReady ch half p g c iter = true ↔ g.goes.getD half 0 < segLength p g.seg ∧
      (if bothHalves c then g.goes.getD 0 0 = g.goes.getD 1 0 ∧
          ((c.cmd ≠ 8 ∧ ¬ g.goes.getD half 0 + 1 = segLength p g.seg) ∨ g.goes = g.dones)
        else if half = 0 then g.goes.getD 0 0 = g.goes.getD 1 0 else g.goes.getD 1 0 + 1 = g.goes.getD 0 0) ∧
      g.nominal ≤ s.time ∧ atmCycles p c iter ≤ (s.atmCh ch).bucket ∧ roomToQueue g half c = true ∧ s.chanReady ch = true ∧ s.level = 3 := by
  rw [State.goReady]
  simp only [Bool.and_eq_true, decide_eq_true_eq, goTurn_iff, and_assoc]

section
variable {s : State} {ch : Fin 32} (hon : OnChannel s ch) {go : HalfGo}
include hon

theorem exec_atmGo_none (hg : (s.atmCh ch).seg = none) : exec (.atmGo ch go) s = .next s := by
  change execAtmGo ch go s = _
  rw [execAtmGo, onChan_awake s ch _ hon]
  dsimp only
  rw [hg]
  rfl

theorem exec_atmGo {g : AtmSegment} {p : AtmProgram} {c : AtmCmd} {iter : Nat} (hg : (s.atmCh ch).seg = some g) (hp : progOf s.form g.prog = some p)
    (hc : cmdAt p g.seg (g.goes.getD go.half 0) = some (c, iter)) : exec (.atmGo ch go) s = .next (s.hold
      (when (s.goReady ch go.half p g c iter) (fun s => s.sendGo ch go.half p g (g.goes.getD go.half 0) c iter go.hits) s)) := by
  change execAtmGo ch go s = _
  rw [execAtmGo, onChan_awake s ch _ hon]
  dsimp only
  rw [hg]
  dsimp only
  rw [hp]
  dsimp only
  rw [hc]
  rfl

end

/-- Eight outstanding commands leave no room (R219). -/
theorem roomToQueue_full {g : AtmSegment} {half : Fin 2} {c : AtmCmd} (h : g.dones.getD half 0 + 8 ≤ g.goes.getD half 0) :
    roomToQueue g half c = false := by
  rw [← Bool.not_eq_true]
  intro hroom
  rw [roomToQueue, List.all_eq_true] at hroom
  have hmem : half.val ∈ (if bothHalves c then [0, 1] else [half.val]) := by
    split
    · have := half.isLt
      simp only [List.mem_cons, List.not_mem_nil, or_false]
      omega
    · exact List.mem_cons_self
  exact absurd (of_decide_eq_true (hroom half.val hmem)) (Nat.not_lt.mpr h)

theorem and_not_fails {a b : Bool} (h : ¬ (a = true ∧ b = false)) : ¬ (a && !b) = true := by
  rw [Bool.and_eq_true, Bool.not_eq_true']
  exact h

theorem or_fails {a b : Bool} (h : a = false) (h' : ¬ b = true) : ¬ (a || b) = true := by
  rw [h, Bool.false_or]
  exact h'

/-- Settles O47. -/
theorem atmSegmentsAndPacing : Obligations.AtmSegmentsAndPacing := by
  unfold Obligations.AtmSegmentsAndPacing
  refine ⟨fun s ch hon p n hp hf hg ha => ⟨fun ⟨h1, h2⟩ => ?_, fun hns hnk hnf hnr => ⟨fun hr => ?_, fun hr => ?_⟩, fun hns ⟨h1, h2⟩ => ?_, fun hns hnk hfr => ?_⟩,
    fun s ch hon => ⟨exec_bucketRefill hon, exec_bucketRefill_early hon⟩,
    fun s ch go hon => ⟨exec_atmGo_none hon, fun g p c iter hg hp hc => ⟨fun h1 h2 h3 h4 h5 h6 h7 => ?_, fun h => ?_, fun h => ?_⟩⟩⟩
  · rw [exec_atmSegmentStart hon hp hf hg ha, h1, h2]
    rfl
  · have hexec := exec_atmSegmentStart hon hp hf hg ha
    rw [if_neg (and_not_fails hns), if_neg (and_not_fails hnk), if_neg (or_fails hnf hnr), when_of_true ((startOk_iff s ch p).mpr hr)] at hexec
    exact ⟨hexec, seg_startSegment s ch.isLt p n⟩
  · have hexec := exec_atmSegmentStart hon hp hf hg ha
    rw [if_neg (and_not_fails hns), if_neg (and_not_fails hnk), if_neg (or_fails hnf hnr),
      when_of_false (Bool.eq_false_iff.mpr fun h => hr ((startOk_iff s ch p).mp h))] at hexec
    exact hexec
  · rw [exec_atmSegmentStart hon hp hf hg ha, if_neg (and_not_fails hns), h1, h2]
    exact ⟨_, rfl⟩
  · rw [exec_atmSegmentStart hon hp hf hg ha, if_neg (and_not_fails hns), if_neg (and_not_fails hnk), if_pos (Bool.or_eq_true_iff.mpr hfr)]
    exact ⟨_, rfl⟩
  · have hready : s.goReady ch go.half p g c iter = true :=
      (goReady_iff s ch go.half p g c iter).mpr ⟨h1, h2, h3, h4, h5, h6, h7⟩
    rw [exec_atmGo hon hg hp hc, when_of_true hready]
    exact ⟨rfl, bucket_sendGo s ch.isLt _ p g _ c iter _⟩
  · have hready : s.goReady ch go.half p g c iter = false := by
      refine Bool.eq_false_iff.mpr fun hr => ?_
      obtain ⟨h1, h2, h3, h4, h5, h6, h7⟩ := (goReady_iff s ch go.half p g c iter).mp hr
      rcases h with h | h | h | h | h | h | h
      · exact absurd h1 (Nat.not_lt.mpr h)
      · exact h h2
      · exact absurd h3 (Nat.not_le.mpr h)
      · exact absurd h4 (Nat.not_le.mpr h)
      · exact absurd h5 (Bool.eq_false_iff.mp h)
      · exact absurd h6 (Bool.eq_false_iff.mp h)
      · exact h h7
    rw [exec_atmGo hon hg hp hc, when_of_false hready]
    rfl
  · have hready : s.goReady ch go.half p g c iter = false := by
      rw [State.goReady, roomToQueue_full h, Bool.and_false, Bool.false_and, Bool.false_and]
    rw [exec_atmGo hon hg hp hc, when_of_false hready]
    rfl

end Sys2Proof.Machine
end

section
/-! Proof of O48: ATM_DONE, report beats, ATM_ERR and the loss of the key (R219 to R221, R236). -/

namespace Sys2Proof.Machine

open Sys2Proof.Bits

/-! ### ATM_DONE -/

theorem mayComplete_iff (s : State) (g : AtmSegment) (half : Nat) : s.mayComplete g half = true ↔ g.dones.getD half 0 < g.goes.getD half 0 ∧
    ∀ p, progOf s.form g.prog = some p → g.dones.getD half 0 + 1 = segLength p g.seg → g.rpts.getD half 0 = 0x3FE := by
  rw [State.mayComplete, Bool.and_eq_true, decide_eq_true_eq]
  refine and_congr_right fun _ => ?_
  cases hp : progOf s.form g.prog with
  | none => simp
  | some p =>
    rw [Bool.or_eq_true, decide_eq_true_eq, decide_eq_true_eq, ← imp_iff_not_or]
    exact ⟨fun h q hq => Option.some.inj hq ▸ h, fun h => h p rfl⟩

theorem modV_congr {α : Type} {n : Nat} (v : Vector α n) (i : Nat) (d : α) {f g : α → α} (h : f (getV v i d) = g (getV v i d)) :
    modV v i f = modV v i g := by
  rw [modV, modV]
  congr 2
  refine modAt_congr (l := v.toList) fun a ha => ?_
  have hget : getV v i d = a := by rw [getV, List.getD_eq_getElem?_getD, ha]; rfl
  rw [hget] at h
  exact h

theorem modAtm_congr {s : State} {ch : Nat} {f g : AtmChannel → AtmChannel} (h : f (s.atmCh ch) = g (s.atmCh ch)) : s.modAtm ch f = s.modAtm ch g :=
  congrArg (fun v => { s with atm := v }) (modV_congr s.atm ch {} h)

section
variable {s : State} {ch : Fin 32} (hon : OnChannel s ch)
include hon

theorem exec_atmDone_none (half : Fin 2) (hg : (s.atmCh ch).seg = none) : exec (.atmDone ch half) s = .next s := by
  change execAtmDone ch half s = _
  rw [execAtmDone, onChan_awake s ch _ hon, hg]
  rfl

theorem exec_atmDone {half : Fin 2} {g : AtmSegment} (hg : (s.atmCh ch).seg = some g) : exec (.atmDone ch half) s = .next (s.hold
    (when (s.mayComplete g half) (fun s => (s.modAtm ch (fun a =>
      { a with seg := a.seg.map (fun g => { g with dones := modAt g.dones half (fun d => d + 1) }) })).segmentCheck ch) s)) := by
  change execAtmDone ch half s = _
  rw [execAtmDone, onChan_awake s ch _ hon, hg]

theorem exec_atmDone_counts {half : Fin 2} {g : AtmSegment} (hg : (s.atmCh ch).seg = some g) (hm : s.mayComplete g half = true) :
    exec (.atmDone ch half) s = .next (s.hold ((s.modAtm ch (fun a =>
      { a with seg := some { g with dones := modAt g.dones half (fun d => d + 1) } })).segmentCheck ch)) := by
  have hsame : s.modAtm ch (fun a => { a with seg := a.seg.map (fun g => { g with dones := modAt g.dones half (fun d => d + 1) }) }) =
      s.modAtm ch (fun a => { a with seg := some { g with dones := modAt g.dones half (fun d => d + 1) } }) :=
    modAtm_congr (by rw [hg]; rfl)
  rw [exec_atmDone hon hg, when_of_true hm, hsame]

theorem exec_atmDone_waits {half : Fin 2} {g : AtmSegment} (hg : (s.atmCh ch).seg = some g) (hm : s.mayComplete g half = false) :
    exec (.atmDone ch half) s = .next s := by
  rw [exec_atmDone hon hg, when_of_false hm]
  rfl

/-! ### Reports -/

/-- The books of a half-set's report after a field (R220). -/
def State.reported (s : State) (ch half f : Nat) : State :=
  s.modAtm ch (fun a => { a with seg := a.seg.map (fun g => { g with rpts := modAt g.rpts half (fun m => m + 2 ^ f) }) })

theorem exec_atmRpt_none (beat : Word64) (hg : (s.atmCh ch).seg = none) : exec (.atmRpt ch beat) s = .next s := by
  change execAtmRpt ch beat s = _
  rw [execAtmRpt, onChan_awake s ch _ hon]
  dsimp only
  rw [hg]
  rfl

theorem exec_atmRpt {g : AtmSegment} {p : AtmProgram} {beat : Word64} {half : Fin 2} (hg : (s.atmCh ch).seg = some g)
    (hp : progOf s.form g.prog = some p) (hh : field beat.toNat 40 2 = half + 1) : exec (.atmRpt ch beat) s = .next (s.hold
    (when (s.reportNext ch half p g beat.toNat) (fun s =>
      (if field beat.toNat 60 4 = 9 then (if bit beat.toNat 32 then s.takeAtmMax p g.step (field beat.toNat 0 32) else s)
        else s.takeCount ch g.prog g.step (field beat.toNat 60 4) (field beat.toNat 0 32)).reported ch half (field beat.toNat 60 4)) s)) := by
  have hhalf : (decide (field beat.toNat 40 2 = 1) || decide (field beat.toNat 40 2 = 2)) = true := by
    rw [hh]
    have := half.isLt
    rw [Bool.or_eq_true, decide_eq_true_eq, decide_eq_true_eq]
    omega
  change execAtmRpt ch beat s = _
  rw [execAtmRpt, onChan_awake s ch _ hon]
  dsimp only
  rw [hg]
  dsimp only
  rw [hp]
  dsimp only
  rw [hhalf, Bool.true_and, hh, Nat.add_sub_cancel]
  rfl

end

/-- What a beat that is the next one of a report says (Table 7-14). -/
theorem reportNext_fields {s : State} {ch half : Nat} {p : AtmProgram} {g : AtmSegment} {beat : Nat} (h : s.reportNext ch half p g beat = true) :
    1 ≤ field beat 60 4 ∧ field beat 60 4 ≤ 9 ∧ g.goes.getD half 0 = segLength p g.seg ∧ g.dones.getD half 0 + 1 = segLength p g.seg ∧
      g.rpts.getD half 0 + 2 = 2 ^ field beat 60 4 := by
  rw [State.reportNext] at h
  simp only [Bool.and_eq_true, decide_eq_true_eq] at h
  obtain ⟨⟨⟨⟨⟨h1, h2⟩, h3⟩, h4⟩, h5⟩, -⟩ := h
  exact ⟨h1, h2, h3, h4, h5⟩

/-! ### The end of a segment -/

theorem segmentCheck_eq {s : State} {ch : Nat} {g : AtmSegment} {p : AtmProgram} (hg : (s.atmCh ch).seg = some g) (hp : progOf s.form g.prog = some p) :
    s.segmentCheck ch = if segEnded p g then
      (if segCount p ≤ g.seg + 1 then
        ((s.storedPoison ch p g).modAtm ch (fun a => { a with seg := none, segIdx := g.seg + 1 })).channelsDone p g.step (2 ^ ch)
      else (s.storedPoison ch p g).modAtm ch (fun a => { a with seg := none, segIdx := g.seg + 1 })) else s := by
  rw [State.segmentCheck, hg]
  dsimp only
  rw [hp]

theorem abandonSegment_none {s : State} {ch code cls0 : Nat} (hg : (s.atmCh ch).seg = none) : s.abandonSegment ch code cls0 = s := by
  rw [State.abandonSegment, hg]

/-! ### Faults -/

/-- The record of an Atomizer's fault (R221). -/
def atmErrSpec (ch : Nat) (status : Word32) : ErrSpec :=
  { code := 0x0401, cls := .f, unit := 0x0003, index := field status.toNat 0 5 + 32 * field status.toNat 5 1 + 64 * ch, arg0 := status.toNat }

theorem hold_error (s : State) (e : ErrSpec) : s.hold (s.error e) = s.error e := by
  obtain ⟨l, m, b, h⟩ := s.error_writes e
  rw [h]
  rfl

theorem exec_atmErr_again {s : State} {ch : Fin 32} {status : Word32} (hon : OnChannel s ch)
    (h : (s.atmCh ch).fenced.contains (field status.toNat 5 1, field status.toNat 0 5) = true) :
    exec (.atmErr ch status) s = .next (s.error (atmErrSpec ch status)) := by
  change execAtmErr ch status s = _
  rw [execAtmErr, onChan_awake s ch _ hon]
  dsimp only
  rw [if_pos h]
  exact congrArg Host.Outcome.next (hold_error s _)

/-- The state with the Atomizer that a STATUS beat names fenced. -/
def State.atmFault (s : State) (ch : Nat) (status : Word32) : State :=
  (s.error (atmErrSpec ch status)).modAtm ch (fun a =>
    { a with fenced := a.fenced ++ [(field status.toNat 5 1, field status.toNat 0 5)], blocked := true })

theorem exec_atmErr_first {s : State} {ch : Fin 32} {status : Word32} (hon : OnChannel s ch)
    (h : (s.atmCh ch).fenced.contains (field status.toNat 5 1, field status.toNat 0 5) = false) :
    exec (.atmErr ch status) s = .next (s.hold ((s.atmFault ch status).abandonSegment ch 0x0402 1)) := by
  change execAtmErr ch status s = _
  rw [execAtmErr, onChan_awake s ch _ hon]
  dsimp only
  rw [if_neg (Bool.eq_false_iff.mp h)]
  rfl

theorem seg_atmFault {s : State} {ch : Nat} (hch : ch < 32) (status : Word32) : ((s.atmFault ch status).atmCh ch).seg = (s.atmCh ch).seg := by
  rw [State.atmFault, atmCh_modAtm_self _ hch]
  obtain ⟨l, m, b, h⟩ := s.error_writes (atmErrSpec ch status)
  rw [h]
  rfl

theorem hold_atmFault (s : State) (ch : Nat) (status : Word32) : s.hold (s.atmFault ch status) = s.atmFault ch status := by
  obtain ⟨l, m, b, h⟩ := s.error_writes (atmErrSpec ch status)
  rw [State.atmFault, h]
  rfl

theorem exec_atmKeyOkFall {s : State} {ch : Fin 32} (hon : OnChannel s ch) : exec (.atmKeyOkFall ch) s = .next (s.hold
    ((s.modAtm ch (fun a => { a with keyOk := false })).abandonSegment ch 0x0303 0)) := by
  change execAtmKeyOkFall ch s = _
  rw [execAtmKeyOkFall, onChan_awake s ch _ hon]

/-- Settles O48. -/
theorem atmReportsAndFaults : Obligations.AtmReportsAndFaults := by
  unfold Obligations.AtmReportsAndFaults
  refine ⟨fun s ch half hon g hg => ⟨mayComplete_iff s g half, exec_atmDone_counts hon hg, exec_atmDone_waits hon hg, fun p hp he => ?_, fun p hp he => ?_⟩,
    fun s ch hon => ⟨fun hg half beat => ⟨exec_atmDone_none hon half hg, exec_atmRpt_none hon beat hg⟩,
      fun g p beat half hg hp hh => ⟨fun hr hf => ?_, fun hr hf hb => ?_, fun hr hf hb => ?_, fun hr => ?_⟩, fun g p beat half h => reportNext_fields h⟩,
    fun s ch hon => ⟨fun status => ⟨exec_atmErr_again hon, fun hf => ⟨exec_atmErr_first hon hf, fun hg => ?_⟩⟩, exec_atmKeyOkFall hon, fun hg => ?_⟩⟩
  · rw [segmentCheck_eq hg hp, he, if_neg Bool.false_ne_true]
  · rw [segmentCheck_eq hg hp, he, if_pos rfl]
    rfl
  · rw [exec_atmRpt hon hg hp hh, when_of_true hr, if_neg hf]
    rfl
  · rw [exec_atmRpt hon hg hp hh, when_of_true hr, hf, if_pos rfl, if_pos hb]
    rfl
  · rw [exec_atmRpt hon hg hp hh, when_of_true hr, hf, if_pos rfl, hb, if_neg Bool.false_ne_true]
    rfl
  · rw [exec_atmRpt hon hg hp hh, when_of_false hr]
    rfl
  · have hseg : ((s.atmFault ch status).atmCh ch).seg = none := (seg_atmFault ch.isLt status).trans hg
    rw [exec_atmErr_first hon hf, abandonSegment_none hseg, hold_atmFault]
    rfl
  · have hseg : ((s.modAtm ch (fun a => { a with keyOk := false })).atmCh ch).seg = none := by
      rw [atmCh_modAtm_self s ch.isLt]
      exact hg
    rw [exec_atmKeyOkFall hon, abandonSegment_none hseg]
    rfl

end Sys2Proof.Machine
end

section
/-! Proof of O53: the drain of the Blotter (R16, R288). -/

namespace Sys2Proof.Machine

open Sys2Proof.Bits

/-- What the drain may write. -/
def Drained (s t : State) : Prop := ∃ d b, t = { s with dram := d, blotter := b }

theorem Drained.refl (s : State) : Drained s s := ⟨_, _, rfl⟩

theorem Drained.trans {s t u : State} (h : Drained s t) (h' : Drained t u) : Drained s u := by
  obtain ⟨d, b, rfl⟩ := h
  obtain ⟨d', b', rfl⟩ := h'
  exact ⟨d', b', rfl⟩

theorem drained_overwrite (s : State) (r : Nat) : Drained s (s.overwrite r) := by
  rw [State.overwrite]
  dsimp only
  split
  · exact ⟨_, _, rfl⟩
  · exact .refl s

theorem drained_moveRecord (s : State) (r : Nat) (bs : List Byte) : Drained s (s.moveRecord r bs) :=
  (drained_overwrite s r).trans ⟨_, _, rfl⟩

theorem drained_moveRecords (n : Nat) (s : State) : Drained s (State.moveRecords n s) := by
  induction n generalizing s with
  | zero => exact .refl s
  | succ n ih =>
    rw [State.moveRecords]
    split
    · exact .refl s
    · split
      · exact (drained_moveRecord s _ _).trans (ih _)
      · exact .refl s

/-- Nothing moves while the channel of the next record is not open. -/
theorem moveRecords_closed {n : Nat} {s : State} {r : Nat} {bs : List Byte} {rest : List (Nat × List Byte)} (hb : s.blotter.buffer = (r, bs) :: rest)
    (hc : s.backgroundOpen (s.ringChannel r) = false) : State.moveRecords n s = s := by
  cases n with
  | zero => rfl
  | succ n =>
    rw [State.moveRecords, hb]
    dsimp only
    rw [hc, if_neg Bool.false_ne_true]

theorem Blotter.push_of_room {b : Blotter} (r : List Byte) (h : b.buffer.length < 4096) :
    b.push r = { b with rseq := b.rseq + 1, buffer := b.buffer ++ [(b.rseq, r)] } := if_pos h

theorem Blotter.push_of_full {b : Blotter} (r : List Byte) (h : 4096 ≤ b.buffer.length) : b.push r = b.lose 1 := if_neg (Nat.not_lt.mpr h)

/-- Overrun records go behind what the buffer holds. -/
theorem Blotter.overrun_keeps (b : Blotter) (step n : Nat) : b.buffer <+: (b.overrun step n).buffer ∧ (b.overrun step n).inRing = b.inRing := by
  induction n generalizing b with
  | zero => exact ⟨List.prefix_refl _, rfl⟩
  | succ n ih =>
    rw [Blotter.overrun]
    split
    · exact ⟨List.prefix_refl _, rfl⟩
    next f l rest hl =>
      split
      next hroom =>
        obtain ⟨hp, hr⟩ := ih (({ b with lost := rest }).push (blotRecord 0x06 0 step (f % 2 ^ 64 + l % 2 ^ 64 * 2 ^ 64)))
        rw [Blotter.push_of_room (b := { b with lost := rest }) _ hroom] at hp hr ⊢
        exact ⟨(List.prefix_append b.buffer _).trans hp, hr⟩
      · exact ⟨List.prefix_refl _, rfl⟩

/-- The state after the overrun records. -/
def State.overrun (s : State) : State := { s with blotter := s.blotter.overrun s.run.lastStep s.blotter.lost.length }

/-- A record that finds its ring slot free moves there. -/
theorem moveRecord_free {s : State} {r : Nat} (bs : List Byte) (hr : r < s.blotter.front + ringSlots s.blotter) : ∃ g, s.moveRecord r bs =
    { s.writeDram (ringAddr s.blotter r) bs with blotter := { s.blotter with buffer := s.blotter.buffer.drop 1, inRing := r + 1, gaps := g } } := by
  have hover : s.overwrite r = s := if_neg (Nat.not_le.mpr hr)
  rw [State.moveRecord, hover]
  exact ⟨_, rfl⟩

theorem dramBytes_writeDram {s : State} (a : Nat) (bs : List Byte) (hwf : Memory.wf s.dram) : (s.writeDram a bs).dramBytes a bs.length = bs := by
  refine List.ext_getElem (by rw [State.dramBytes, List.length_map, List.length_range]) fun i hi hi' => ?_
  simp only [State.dramBytes, List.getElem_map, List.getElem_range]
  rw [State.writeDram_byte s a (a + i) bs hwf,
    if_pos ⟨Nat.le_add_right a i, Nat.add_lt_add_left hi' a⟩, Nat.add_sub_cancel_left, List.getD_eq_getElem?_getD, List.getElem?_eq_getElem hi',
    Option.getD_some]

section
variable {s : State} (hs : Awake s)
include hs

theorem exec_blotterDrain_none (hf : s.formula = none) : exec .blotterDrain s = .next s := by
  change execBlotterDrain s = _
  rw [execBlotterDrain, act_awake s _ hs, when_of_false (by rw [hf]; rfl)]
  rfl

theorem exec_blotterDrain (hf : s.formula.isSome = true) :
    exec .blotterDrain s = .next (State.moveRecords s.blotter.buffer.length s).overrun := by
  change execBlotterDrain s = _
  rw [execBlotterDrain, act_awake s _ hs, when_of_true hf]
  obtain ⟨d, b, h⟩ := drained_moveRecords s.blotter.buffer.length s
  rw [h]
  rfl

end

/-- Settles O53. -/
theorem blotterDrain : Obligations.BlotterDrain := by
  unfold Obligations.BlotterDrain
  refine ⟨fun s hs => ⟨exec_blotterDrain_none hs, fun hf => ⟨_, exec_blotterDrain hs hf, ?_, fun r bs rest hb hc => ?_, fun hb => ?_,
    fun r bs hb hc hl hr hwf => ?_⟩⟩, fun b r => ⟨Blotter.push_of_room r, fun h => ?_⟩⟩
  · obtain ⟨d, b, h⟩ := drained_moveRecords s.blotter.buffer.length s
    rw [h]
    rfl
  · rw [moveRecords_closed hb hc]
    obtain ⟨hp, hi⟩ := s.blotter.overrun_keeps s.run.lastStep s.blotter.lost.length
    exact ⟨rfl, hi, hp⟩
  · rw [hb]
    rfl
  · obtain ⟨g, hmove⟩ := moveRecord_free bs hr
    have hall : State.moveRecords s.blotter.buffer.length s = s.moveRecord r bs := by
      rw [hb, List.length_singleton, State.moveRecords, hb]
      dsimp only
      rw [hc, if_pos rfl, State.moveRecords]
    rw [hall, hmove, State.overrun, hb, hl]
    refine ⟨rfl, rfl, rfl, dramBytes_writeDram _ bs hwf, fun a ha => ?_⟩
    refine (State.writeDram_byte s (ringAddr s.blotter r) a bs hwf).trans (if_neg fun h => ?_)
    omega
  · rw [Blotter.push_of_full r h]
    exact ⟨rfl, rfl, rfl⟩

end Sys2Proof.Machine
end

section
/-! Proof of O58: the entropy source (R238, R239) and patrol scrub (R16, R168, R395). -/

namespace Sys2Proof.Machine

open Sys2Proof.Bits

/-! ### Records -/

theorem ErrLog.rnum_append (l : ErrLog) (r : BitVec 512) : (l.append r).rnum = l.rnum + 1 := by
  rw [ErrLog.append]
  split
  · rfl
  · split <;> rfl

/-- An occurrence of a class other than C always makes a record. -/
theorem error_records (s : State) {e : ErrSpec} (h : e.cls ≠ .c) : (s.error e).log.rnum = s.log.rnum + 1 := by
  unfold State.error
  extract_lets b within prior r rn u v always keep
  rw [if_neg (fun hc => h hc.1)]
  have hv : v.log.rnum = s.log.rnum + 1 := ErrLog.rnum_append _ _
  split
  · obtain ⟨bl, hb⟩ := v.blot_writes (blotRecord 0x03 e.cls.code s.run.lastStep
        (e.code % 2 ^ 16 + e.unit % 2 ^ 16 * 2 ^ 16 + e.shard % 2 ^ 32 * 2 ^ 32 + s.time % 2 ^ 64 * 2 ^ 64 + r % 2 ^ 320 * 2 ^ 128))
    exact (congrArg (fun t : State => t.log.rnum) hb).trans hv
  · exact hv

theorem hold_error_of {s t : State} (ht : s.hold t = t) (e : ErrSpec) : s.hold (t.error e) = t.error e := by
  have hcfg : t.cfg = s.cfg := by rw [← ht]; rfl
  have hpending : t.pending = s.pending := by rw [← ht]; rfl
  have hporst : t.porst = s.porst := by rw [← ht]; rfl
  obtain ⟨l, m, b, h⟩ := t.error_writes e
  rw [h]
  exact hold_of _ _ hcfg hpending hporst

/-! ### The entropy source -/

section
variable {s : State} (hs : Awake s)
include hs

theorem exec_esStartupDone (hp : s.present 3 = true) (hf : s.entropy.fenced = false) :
    exec .esStartupDone s = .next { s with entropy := { s.entropy with ready := true } } := by
  change execEsStartupDone s = _
  rw [execEsStartupDone, act_awake s _ hs, when_of_true (by rw [hp, hf]; rfl)]
  rfl

theorem exec_esStartupDone_fenced (hf : s.entropy.fenced = true) : exec .esStartupDone s = .next s := by
  change execEsStartupDone s = _
  rw [execEsStartupDone, act_awake s _ hs, when_of_false (by rw [hf]; exact Bool.and_false _)]
  rfl

theorem exec_entropyFail (proportion : Bool) (hp : s.present 3 = true) (hf : s.entropy.fenced = false) :
    exec (.entropyFail proportion) s = .next (s.hold (s.entropyFailed proportion)) := by
  change execEntropyFail proportion s = _
  rw [execEntropyFail, act_awake s _ hs, when_of_true (by rw [hp, hf]; rfl)]

theorem exec_entropyFail_fenced (proportion : Bool) (hf : s.entropy.fenced = true) : exec (.entropyFail proportion) s = .next s := by
  change execEntropyFail proportion s = _
  rw [execEntropyFail, act_awake s _ hs, when_of_false (by rw [hf]; exact Bool.and_false _)]
  rfl

end

/-- The first failure of a power cycle. -/
theorem entropyFailed_first {s : State} (proportion : Bool) (h : s.entropy.failures = 0) : s.entropyFailed proportion =
    ({ s with entropy := { s.entropy with ready := false, failures := s.entropy.failures + 1, fenced := false } } : State).post
      0x0601 5 7 (ofBool proportion) 0 0 := by
  rw [State.entropyFailed, h]
  rfl

/-- A further failure of a power cycle fences the source, and is recorded. -/
theorem entropyFailed_again {s : State} (proportion : Bool) (h : s.entropy.failures ≠ 0) : (s.entropyFailed proportion).entropy.fenced = true ∧
    (s.entropyFailed proportion).entropy.ready = false ∧ (s.entropyFailed proportion).entropy.failures = s.entropy.failures + 1 ∧
    (s.entropyFailed proportion).log.rnum = s.log.rnum + 1 := by
  have h2 : 2 ≤ s.entropy.failures + 1 := by omega
  unfold State.entropyFailed
  extract_lets n u w v
  have hrec := error_records v (e := { code := 0x0706, cls := .f, unit := 0x0008, arg0 := ofBool proportion }) (fun h => by cases h)
  obtain ⟨l, m, b, he⟩ := v.error_writes { code := 0x0706, cls := .f, unit := 0x0008, arg0 := ofBool proportion }
  rw [if_pos h2]
  refine ⟨?_, ?_, ?_, hrec⟩ <;> rw [he]
  · exact decide_eq_true h2
  · rfl
  · rfl

/-! ### Patrol scrub -/

theorem backgroundOpen_says {s : State} {ch : Nat} (h : s.backgroundOpen ch = true) : (s.chan ch).mode ≠ .mem ∧ (s.chan ch).fenced = false ∧
    (s.atmCh ch).seg = none ∧ ∀ pc b, pc < 2 → b < 32 → s.refreshDue ch pc b = false := by
  rw [State.backgroundOpen] at h
  simp only [Bool.and_eq_true, Bool.not_eq_true', decide_eq_true_eq, List.any_eq_false, Bool.or_eq_true, not_or, List.mem_range,
    Bool.not_eq_true] at h
  obtain ⟨⟨⟨⟨⟨⟨hm, hf⟩, -⟩, hseg⟩, -⟩, -⟩, hdue⟩ := h
  refine ⟨hm, hf, Option.isNone_iff_eq_none.mp hseg, fun pc b hpc hb => ?_⟩
  obtain ⟨h0, h1⟩ := hdue b hb
  match pc, hpc with
  | 0, _ => exact h0
  | 1, _ => exact h1

/-- A pass begins with its first word. -/
def State.scrubBegun (s : State) (ch : Nat) : State :=
  s.modChan ch (fun c => { c with scrubStart := if c.scrubStart = 0 then s.time else c.scrubStart })

section
variable {s : State} {ch : Fin 32} (hon : OnChannel s ch)
include hon

section
variable (hl : 2 ≤ s.level) (hb : s.backgroundOpen ch = true)
include hl hb

theorem exec_patrolScrub_clean (last : Bool) : exec (.patrolScrub ch .clean last) s = .next (s.hold
    (if last then (s.scrubBegun ch).scrubbed ch else s.scrubBegun ch)) := by
  change execPatrolScrub ch .clean last s = _
  rw [execPatrolScrub, onChan_awake s ch _ hon, when_of_true (by simp [hl, hb])]
  rfl

theorem exec_patrolScrub_corrected (a : Nat) : exec (.patrolScrub ch (.corrected a) false) s = .next
    (((s.scrubBegun ch).count 3 ch 5 1).error { code := 0x0202, cls := .c, unit := 0x0002, index := ch, arg0 := a }) := by
  change execPatrolScrub ch (.corrected a) false s = _
  rw [execPatrolScrub, onChan_awake s ch _ hon, when_of_true (by simp [hl, hb])]
  exact congrArg Host.Outcome.next (hold_error_of (t := (s.scrubBegun ch).count 3 ch 5 1) rfl _)

theorem exec_patrolScrub_uncorrectable (a : Nat) : exec (.patrolScrub ch (.uncorrectable a) false) s = .next
    (((s.scrubBegun ch).count 3 ch 7 1).error { code := 0x0204, cls := .c, unit := 0x0002, index := ch, arg0 := a }) := by
  change execPatrolScrub ch (.uncorrectable a) false s = _
  rw [execPatrolScrub, onChan_awake s ch _ hon, when_of_true (by simp [hl, hb])]
  exact congrArg Host.Outcome.next (hold_error_of (t := (s.scrubBegun ch).count 3 ch 7 1) rfl _)

end

theorem exec_patrolScrub_closed (h : s.level < 2 ∨ s.backgroundOpen ch = false) (sev : Sev) (last : Bool) :
    exec (.patrolScrub ch sev last) s = .next s := by
  change execPatrolScrub ch sev last s = _
  rw [execPatrolScrub, onChan_awake s ch _ hon, when_of_false (by rcases h with h | h <;> simp [h])]
  rfl

theorem exec_scrubDebt (hd : 86400 * ((s.chan ch).scrubPosts + 1) ≤ s.scrubDebt ch) (hp : s.present 0 = true) : exec (.scrubDebt ch) s = .next
    (((s.modChan ch (fun c => { c with scrubPosts := c.scrubPosts + 1 })).setCounter 8 ch 1 (s.scrubDebt ch)).post 0x0104 0 7 ch (s.scrubDebt ch) 0) := by
  change execScrubDebt ch s = _
  rw [execScrubDebt, onChan_awake s ch _ hon, when_of_true (by simp [hd, hp])]
  rfl

theorem exec_scrubDebt_early (hd : s.scrubDebt ch < 86400 * ((s.chan ch).scrubPosts + 1)) : exec (.scrubDebt ch) s = .next s := by
  change execScrubDebt ch s = _
  rw [execScrubDebt, onChan_awake s ch _ hon, when_of_false (by simp [Nat.not_le.mpr hd])]
  rfl

end

/-- Settles O58. -/
theorem entropyAndScrub : Obligations.EntropyAndScrub := by
  unfold Obligations.EntropyAndScrub
  refine ⟨fun s proportion hs hp => ⟨exec_esStartupDone hs hp, fun hf => ⟨exec_esStartupDone_fenced hs hf, exec_entropyFail_fenced hs proportion hf⟩,
      fun hf h0 => ?_, fun hf h0 => ?_⟩,
    fun s ch hon => ⟨fun hb => ?_, fun hl hb => ⟨exec_patrolScrub_clean hon hl hb false, exec_patrolScrub_corrected hon hl hb,
      exec_patrolScrub_uncorrectable hon hl hb, ?_⟩, exec_patrolScrub_closed hon, exec_scrubDebt hon, exec_scrubDebt_early hon⟩⟩
  · rw [exec_entropyFail hs proportion hp hf, entropyFailed_first proportion h0]
    rfl
  · obtain ⟨hfenced, hready, hfail, hlog⟩ := entropyFailed_again proportion h0
    exact ⟨_, exec_entropyFail hs proportion hp hf, hfenced, hready, hfail, hlog⟩
  · obtain ⟨hm, hf, hseg, hdue⟩ := backgroundOpen_says hb
    exact ⟨hm, hf, hseg, fun pc bank => hdue pc bank pc.isLt bank.isLt⟩
  · have hchan : ((s.scrubBegun ch).scrubbed ch).chan ch = { (s.scrubBegun ch).chan ch with scrubStart := 0, scrubPosts := 0 } := by
      rw [State.chan_scrubbed, if_pos ⟨rfl, ch.isLt⟩]
    refine ⟨_, exec_patrolScrub_clean hon hl hb true, congrArg Channel.scrubStart hchan, congrArg Channel.scrubPosts hchan, ?_⟩
    exact if_pos (congrArg Channel.scrubStart hchan)

end Sys2Proof.Machine
end

section
/-! Proof of O60: the EVAL window opens (R295), and RUN_STOP takes effect (R341). -/

namespace Sys2Proof.Machine

open Sys2Proof.Bits

/-! ### Readiness words -/

theorem shard_modShard (s : State) (i j : Nat) (f : Shard → Shard) :
    (s.modShard i f).shard j = if i = j ∧ j < s.shards.length then f (s.shard j) else s.shard j := by
  rw [State.shard, State.modShard_shards, State.shard, List.getD_eq_getElem?_getD, List.getD_eq_getElem?_getD, modAt, List.getElem?_modify]
  by_cases hlt : j < s.shards.length
  · rw [List.getElem?_eq_getElem hlt]
    by_cases hij : i = j <;> simp [hij, hlt]
  · rw [List.getElem?_eq_none (Nat.not_lt.mp hlt), if_neg (fun h => hlt h.2)]
    rfl

/-- A readiness word with FROZEN set. -/
def Shard.freeze (h : Shard) : Shard := { h with ready := { h.ready with frozen := true } }

theorem shard_eachIn_freeze (l : List Nat) (s : State) (i : Nat) : (∃ sh, eachIn l (fun s i => s.modShard i Shard.freeze) s = { s with shards := sh }) ∧
    ((eachIn l (fun s i => s.modShard i Shard.freeze) s).shard i =
      if i ∈ l ∧ i < s.shards.length then (s.shard i).freeze else s.shard i) := by
  induction l generalizing s with
  | nil => exact ⟨⟨_, rfl⟩, by simp [eachIn]⟩
  | cons j l ih =>
    obtain ⟨⟨sh, hsh⟩, hshard⟩ := ih (s.modShard j Shard.freeze)
    have hlen : (s.modShard j Shard.freeze).shards.length = s.shards.length := List.length_modify _ _ _
    refine ⟨⟨sh, hsh⟩, hshard.trans ?_⟩
    rw [hlen, shard_modShard]
    by_cases hij : j = i
    · subst hij
      by_cases hlt : j < s.shards.length <;> by_cases hm : j ∈ l <;> simp [hlt, hm, Shard.freeze]
    · have hne : i ≠ j := fun h => hij h.symm
      simp [hij, hne]

theorem freeze_eq (s : State) : s.freeze = eachIn s.ownedShards (fun s i => s.modShard i Shard.freeze) s := rfl

/-- Every owned readiness word shows FROZEN, and no other word changes. -/
structure FrozenFrom (s t : State) : Prop where
  owned : ∀ i ∈ s.ownedShards, i < s.shards.length → (t.shard i).ready.frozen = true
  others : ∀ i, i ∉ s.ownedShards → t.shard i = s.shard i

theorem frozenFrom_freeze {s u : State} (ho : u.ownedShards = s.ownedShards) (hs : u.shards = s.shards) : FrozenFrom s u.freeze := by
  have hshard : ∀ i, u.freeze.shard i = if i ∈ s.ownedShards ∧ i < s.shards.length then (s.shard i).freeze else s.shard i := fun i => by
    have hsame : u.shard i = s.shard i := by rw [State.shard, State.shard, hs]
    rw [freeze_eq, (shard_eachIn_freeze u.ownedShards u i).2, ho, hs, hsame]
  refine ⟨fun i hi hlt => ?_, fun i hi => ?_⟩
  · rw [hshard, if_pos ⟨hi, hlt⟩]
    rfl
  · rw [hshard, if_neg (fun h => hi h.1)]

theorem FrozenFrom.same {s t u : State} (h : FrozenFrom s t) (hu : u.shards = t.shards) : FrozenFrom s u := by
  have hshard : ∀ i, u.shard i = t.shard i := fun i => by rw [State.shard, State.shard, hu]
  exact ⟨fun i hi hlt => hshard i ▸ h.owned i hi hlt, fun i hi => (hshard i).trans (h.others i hi)⟩

theorem freeze_writes (s : State) : ∃ sh, s.freeze = { s with shards := sh } := (shard_eachIn_freeze s.ownedShards s 0).1

/-! ### Answers and step records -/

/-- What an answer to a waiting request may write. -/
def Answered (s t : State) : Prop := ∃ ev dr mb, t = { s with smp := { s.smp with events := ev, dropped := dr, mbx := mb } }

theorem Answered.refl (s : State) : Answered s s := ⟨_, _, _, rfl⟩

theorem Answered.trans {s t u : State} (h : Answered s t) (h' : Answered t u) : Answered s u := by
  obtain ⟨_, _, _, rfl⟩ := h
  obtain ⟨_, _, _, rfl⟩ := h'
  exact ⟨_, _, _, rfl⟩

theorem answered_modMbx (s : State) (m : Nat) (f : Mailbox → Mailbox) : Answered s (s.modMbx m f) := ⟨_, _, _, rfl⟩

theorem answered_deliver (s : State) (m : Nat) (w : BitVec 512) : Answered s (s.deliver m w) := by
  obtain ⟨ev, dr, h⟩ := (s.modMbx m (fun b => { b with rsp := w, rspValid := true, busy := false, held := false })).post_writes 0x0001 6 7 m
    (field w.toNat 16 16) (field w.toNat 32 16)
  rw [State.deliver, h]
  exact ⟨_, _, _, rfl⟩

theorem answered_respond (s : State) (m : Nat) (sequenced : Bool) (r : Rsp) : Answered s (s.respond m sequenced r) := by
  rw [State.respond]
  split
  · exact (answered_modMbx s m _).trans (answered_deliver _ m _)
  · exact answered_deliver s m _

theorem answered_answerOpen (s : State) (r : Rsp) : Answered s (s.answerOpen r) :=
  eachIn_related Answered.refl Answered.trans _ (fun s m => by
    split
    · exact answered_respond s m _ _
    · exact .refl s) _ s

/-- Two states that differ in counters alone. -/
def Counted (s t : State) : Prop := ∃ c, t = { s with counters := c }

theorem Counted.trans {s t u : State} (h : Counted s t) (h' : Counted t u) : Counted s u := by
  obtain ⟨_, rfl⟩ := h
  obtain ⟨_, rfl⟩ := h'
  exact ⟨_, rfl⟩

theorem counted_timing (s : State) (num maxNum v : Nat) : Counted s (s.timing num maxNum v) := ⟨_, rfl⟩

theorem counted_setCounter (s : State) (set index num v : Nat) : Counted s (s.setCounter set index num v) := ⟨_, rfl⟩

theorem blotStep_writes (s : State) : ∃ b c tm, s.blotStep = { s with blotter := b, counters := c, run := { s.run with times := tm } } := by
  unfold State.blotStep
  extract_lets t u v w x
  split
  · exact ⟨_, _, _, rfl⟩
  · obtain ⟨b, hb⟩ := s.blot_writes (blotRecord 0x01 (ofBool t.skipped + 2 * ofBool t.cut + 4 * ofBool t.short + 8 * ofBool t.env) s.run.lastStep
      (t.p0 % 2 ^ 64 + t.p1 % 2 ^ 64 * 2 ^ 64 + t.p2 % 2 ^ 64 * 2 ^ 128 + t.p3 % 2 ^ 64 * 2 ^ 192 + t.p4 % 2 ^ 64 * 2 ^ 256 +
        t.p5 % 2 ^ 64 * 2 ^ 320 + t.p6 % 2 ^ 64 * 2 ^ 384))
    have hu : u = { s with blotter := b } := hb
    obtain ⟨c, hc⟩ : Counted u x := ((((counted_timing u _ _ _).trans (counted_timing _ _ _ _)).trans (counted_timing _ _ _ _)).trans
      (counted_timing _ _ _ _)).trans ((counted_timing _ _ _ _).trans (counted_setCounter _ _ _ _ _))
    rw [hc, hu]
    exact ⟨_, _, _, rfl⟩

/-! ### The EVAL window -/

/-- The window opens at once. -/
structure EvalOpened (s t : State) : Prop where
  eval : t.run.eval = .opened
  back : ∀ ch, ch < channels s.cfg → (t.chan ch).mode = .mem ∨ (t.chan ch).mode = .toMem
  frozen : FrozenFrom s t

theorem evalOpened_openWindow (s : State) : EvalOpened s (s.openWindow false) := by
  have hf : FrozenFrom s s.freeze := frozenFrom_freeze rfl rfl
  obtain ⟨sh, hsh⟩ := freeze_writes s
  have hcfg : s.freeze.cfg = s.cfg := by rw [hsh]
  rw [State.openWindow, if_neg Bool.false_ne_true]
  generalize s.freeze = u at hf hcfg
  obtain ⟨v, o, hv⟩ := chansOut_transitAll (u.modRun (fun r => { r with eval := .opened })) u.channelList .toMem
  have hback : ∀ ch, ch < channels s.cfg → (((u.modRun (fun r => { r with eval := .opened })).channelsToMem).chan ch).mode = .mem ∨
      (((u.modRun (fun r => { r with eval := .opened })).channelsToMem).chan ch).mode = .toMem := fun ch hch =>
    channelsToMem_mode (u.modRun (fun r => { r with eval := .opened })) (hcfg ▸ hch)
  have hopen : (u.modRun (fun r => { r with eval := .opened })).channelsToMem = _ := hv
  dsimp only
  rw [hopen] at hback ⊢
  obtain ⟨ev, dr, mb, ha⟩ := answered_answerOpen { u.modRun (fun r => { r with eval := .opened }) with chans := v, out := o }
    { Rsp.ok with body := res 10 1 0xFF }
  rw [ha]
  exact ⟨rfl, hback, hf.same rfl⟩

/-- The copy of E begins, as a live operation. -/
structure EvalDecanting (s t : State) : Prop where
  eval : t.run.eval = .decanting
  chans : t.chans = s.chans
  live : t.live cEvalOpen = true
  frozen : FrozenFrom s t

theorem live_modOp (s : State) (h code : Nat) (f : LongOp → LongOp) (hf : ∀ o : LongOp, (f o).code = o.code) :
    (s.modOp h f).live code = s.live code := by
  rw [State.live, State.live, State.modOp, List.any_map]
  refine congrArg (fun p => s.ops.any p) (funext fun o => ?_)
  change decide ((if o.handle = h then f o else o).code = code) = decide (o.code = code)
  split
  · rw [hf]
  · rfl

theorem EvalDecanting.modOp {s t : State} (h : EvalDecanting s t) (n : Nat) (f : LongOp → LongOp) (hf : ∀ o : LongOp, (f o).code = o.code) :
    EvalDecanting s (t.modOp n f) := ⟨h.eval, h.chans, (live_modOp t n cEvalOpen f hf).trans h.live, h.frozen.same rfl⟩

theorem EvalDecanting.answerOpen {s t : State} (h : EvalDecanting s t) (r : Rsp) : EvalDecanting s (t.answerOpen r) := by
  obtain ⟨ev, dr, mb, ha⟩ := answered_answerOpen t r
  rw [ha]
  exact ⟨h.eval, h.chans, h.live, h.frozen.same rfl⟩

theorem startOp_evalOpen {s : State} (hc : s.opConflict { handle := 0, code := cEvalOpen, st := .running } = false) (hl : s.ops.length < 8) :
    ∃ o h n, s.startOp cEvalOpen 0 0 0 .running = .ok ({ s with ops := s.ops ++ [o], nextHandle := n }, h) ∧ o.code = cEvalOpen :=
  ⟨_, _, _, (if_neg (Bool.eq_false_iff.mp hc)).trans (if_neg (Nat.not_le.mpr hl)), rfl⟩

theorem evalDecanting_openWindow {s : State} (hc : s.opConflict { handle := 0, code := cEvalOpen, st := .running } = false)
    (hl : s.ops.length < 8) : EvalDecanting s (s.openWindow true) := by
  obtain ⟨o, h, n, hstart, hcode⟩ := startOp_evalOpen hc hl
  rw [State.openWindow, if_pos rfl, hstart]
  have hbegun : EvalDecanting s ((({ s with ops := s.ops ++ [o], nextHandle := n } : State).tickFree.freeze).modRun
      (fun r => { r with eval := .decanting })) := by
    have hf : FrozenFrom s ({ s with ops := s.ops ++ [o], nextHandle := n } : State).tickFree.freeze := frozenFrom_freeze rfl rfl
    obtain ⟨sh, hsh⟩ := freeze_writes ({ s with ops := s.ops ++ [o], nextHandle := n } : State).tickFree
    rw [hsh] at hf ⊢
    refine ⟨rfl, rfl, ?_, hf.same rfl⟩
    exact List.any_eq_true.mpr ⟨o, List.mem_append_right _ List.mem_cons_self, decide_eq_true hcode⟩
  dsimp only
  refine EvalDecanting.answerOpen ?_ _
  refine EvalDecanting.modOp hbegun h _ ?_
  exact fun _ => rfl

section
variable {s : State} (hs : Awake s)
include hs

theorem exec_evalWindowOpen {ema : Bool} (hf : s.formula.isSome = true) (hb : s.atBoundary = true) (he : s.run.eval = .requested ema) :
    exec .evalWindowOpen s = .next (s.hold ((s.modRun (fun r => { r with times := { r.times with p5 := s.time } })).blotStep.openWindow ema)) := by
  change execEvalWindowOpen s = _
  rw [execEvalWindowOpen, act_awake s _ hs, he]
  exact congrArg (fun u => Host.Outcome.next (s.hold u)) (when_of_true (by rw [hf, hb]; rfl) _ s)

theorem exec_evalWindowOpen_idle (he : s.run.eval = .closed ∨ s.run.eval = .opened) : exec .evalWindowOpen s = .next s := by
  change execEvalWindowOpen s = _
  rw [execEvalWindowOpen, act_awake s _ hs]
  rcases he with he | he <;> rw [he] <;> rfl

theorem exec_runStopEffect (hf : s.formula.isSome = true) (hb : s.atBoundary = true) (hr : s.run.stopping = true) :
    exec .runStopEffect s = .next (s.hold
      ((((s.blotStep.answerEval stWrongState).endAdmission).channelsToMem).modRun (fun r => { r with stopHold := some r.lastStep })).stopCheck) := by
  change execRunStopEffect s = _
  rw [execRunStopEffect, act_awake s _ hs, when_of_true (by rw [hf, hb, hr]; rfl)]

theorem exec_runStopEffect_idle (hr : s.run.stopping = false) : exec .runStopEffect s = .next s := by
  change execRunStopEffect s = _
  rw [execRunStopEffect, act_awake s _ hs, when_of_false (by rw [hr]; simp)]
  rfl

end

/-! ### RUN_STOP -/

theorem stopCheck_all {s : State} {n : Nat} (hn : s.run.stopHold = some n) (h : s.allMem = true) :
    s.stopCheck = (s.modRun (fun r => { r with stopHold := none })).post 0x0102 0 7 s.fabric.epoch n 0 := by
  rw [State.stopCheck, hn]
  exact if_pos h

theorem stopCheck_all_writes {s : State} {n : Nat} (hn : s.run.stopHold = some n) (h : s.allMem = true) : ∃ ev dr, s.stopCheck = { s with
    run := { s.run with stopHold := none }, smp := { s.smp with events := ev, dropped := dr } } := by
  obtain ⟨ev, dr, hp⟩ := (s.modRun (fun r => { r with stopHold := none })).post_writes 0x0102 0 7 s.fabric.epoch n 0
  exact ⟨ev, dr, (stopCheck_all hn h).trans hp⟩

theorem stopCheck_some {s : State} (h : s.allMem = false) : s.stopCheck = s := by
  rw [State.stopCheck]
  split
  · rfl
  · rw [h, if_neg Bool.false_ne_true]

/-- What RUN_STOP leaves when it takes effect. -/
structure Stopped (s t : State) : Prop where
  cfg : t.cfg = s.cfg
  formula : t.formula = none
  anchored : t.run.anchored = false
  stopping : t.run.stopping = false
  chans : ∀ ch, ch < channels s.cfg → ((t.chan ch).mode = .mem ∨ (t.chan ch).mode = .toMem) ∧ (t.chan ch).marks = []
  level : t.smp.level = s.smp.level
  stopHold : t.run.stopHold = if t.allMem then none else some s.run.lastStep

theorem stopped_effect (s : State) : Stopped s
    ((((s.blotStep.answerEval stWrongState).endAdmission).channelsToMem).modRun (fun r => { r with stopHold := some r.lastStep })).stopCheck := by
  have hended : Ended s.blotStep (s.blotStep.answerEval stWrongState) := ended_answerEval _ _
  obtain ⟨⟨_, _, _, _, _, _, _, _, _, _, _, _, _, _, _, _, _, hb⟩, -, hchans⟩ := shut_of_ended hended
  obtain ⟨b, c, tm, hstep⟩ := blotStep_writes s
  have hcfg : s.blotStep.cfg = s.cfg := by rw [hstep]
  have hlast : s.blotStep.run.lastStep = s.run.lastStep := by rw [hstep]
  have hlevel : s.blotStep.smp.level = s.smp.level := by rw [hstep]
  generalize s.blotStep = w at hb hchans hcfg hlast hlevel
  generalize ((w.answerEval stWrongState).endAdmission).channelsToMem = u at hb hchans
  have hback : ∀ ch, ch < channels s.cfg → ((u.chan ch).mode = .mem ∨ (u.chan ch).mode = .toMem) ∧ (u.chan ch).marks = [] := fun ch hch =>
    ⟨(hchans ch (hcfg ▸ hch)).2.1, (hchans ch (hcfg ▸ hch)).1⟩
  generalize hall : u.allMem = all
  have hall' : (u.modRun (fun r => { r with stopHold := some r.lastStep })).allMem = all := hall
  cases all with
  | true =>
    obtain ⟨ev, dr, hp⟩ := stopCheck_all_writes rfl hall'
    rw [hp]
    refine ⟨by rw [hb]; exact hcfg, by rw [hb]; rfl, by rw [hb]; rfl, by rw [hb]; rfl, hback, by rw [hb]; exact hlevel, ?_⟩
    exact (if_pos hall).symm
  | false =>
    rw [stopCheck_some hall']
    refine ⟨by rw [hb]; exact hcfg, by rw [hb]; rfl, by rw [hb]; rfl, by rw [hb]; rfl, hback, by rw [hb]; exact hlevel, ?_⟩
    refine Eq.trans ?_ (if_neg (Bool.eq_false_iff.mp hall)).symm
    rw [hb]
    exact congrArg some hlast

/-! ### RUN_STOPPED -/

section
variable {s : State} {ch : Fin 32} {n : Nat} (hon : OnChannel s ch) (hstop : s.run.stopHold = some n) (hloan : s.loan.isOpen = false)
  (hh : s.fw.levelHold ≠ 1) (hstage : s.fw.stage = []) (hm : (s.chan ch).mode = .toMem) (ht : (s.chan ch).since + 120 ≤ s.time)
include hon hloan hh hm ht

/-- The end of a TRANSIT to MEM with no loan and no lowering at hand. -/
theorem exec_transitEnd_stops : exec (.transitEnd ch false) s = .next (s.hold ((s.enteredMem ch).stopCheck).stageResume) := by
  obtain ⟨v, out, hbooks⟩ := enteredMem_chansOut s ch
  rw [exec_transitEnd ch false hon, transitEnds_toMem hm ht, enterMem_eq, loanCheck_closed (by rw [hbooks]; exact hloan),
    lowerCheck_waits (.inr (by rw [hbooks]; exact hh))]

include hstop hstage

theorem transitEnd_last (hall : ∀ j, j < channels s.cfg → j ≠ ch → (s.chan j).mode = .mem) : ∃ t, exec (.transitEnd ch false) s = .next t ∧
    t.run.stopHold = none ∧ t.smp = (s.post 0x0102 0 7 s.fabric.epoch n 0).smp := by
  have hmem : (s.enteredMem ch).allMem = true := (State.allMem_iff _).mpr fun j hj => (enteredMem_mem_iff s ch.isLt j).mpr (by
    by_cases hne : j = ch
    · exact .inl hne
    · exact .inr (hall j ((enteredMem_chansOut s ch).cfg ▸ hj) hne))
  have hexec := exec_transitEnd_stops hon hloan hh hm ht
  obtain ⟨v, out, hbooks⟩ := enteredMem_chansOut s ch
  have hhold : (s.enteredMem ch).run.stopHold = some n := by rw [hbooks]; exact hstop
  rw [stopCheck_all hhold hmem, stageResume_none (by rw [hbooks]; exact hstage), hbooks] at hexec
  exact ⟨_, hexec, rfl, rfl⟩

theorem transitEnd_notLast (hsome : ∃ j, j < channels s.cfg ∧ j ≠ ch.toNat ∧ (s.chan j).mode ≠ .mem) : ∃ t, exec (.transitEnd ch false) s = .next t ∧
    t.run.stopHold = some n ∧ t.smp = s.smp := by
  obtain ⟨j, hj, hne, hjm⟩ := hsome
  have hmem : (s.enteredMem ch).allMem = false := by
    rw [← Bool.not_eq_true, State.allMem_iff]
    intro h
    have hin := h j (by rw [(enteredMem_chansOut s ch).cfg]; exact hj)
    exact ((enteredMem_mem_iff s ch.isLt j).mp hin).elim hne hjm
  have hexec := exec_transitEnd_stops hon hloan hh hm ht
  obtain ⟨v, out, hbooks⟩ := enteredMem_chansOut s ch
  rw [stopCheck_some hmem, stageResume_none (by rw [hbooks]; exact hstage), hbooks] at hexec
  exact ⟨_, hexec, hstop, rfl⟩

end

/-- Settles O60. -/
theorem evalWindowAndRunStop : Obligations.EvalWindowAndRunStop := by
  unfold Obligations.EvalWindowAndRunStop
  refine ⟨fun s hs hf hb => ⟨fun he => ?_, fun he hc hl => ?_, exec_evalWindowOpen_idle hs, fun hr => ?_, exec_runStopEffect_idle hs⟩,
    fun s ch n hon hstop hloan hh hstage hm ht => ⟨transitEnd_last hon hstop hloan hh hstage hm ht, transitEnd_notLast hon hstop hloan hh hstage hm ht⟩⟩
  · obtain ⟨b, c, tm, hstep⟩ := blotStep_writes (s.modRun (fun r => { r with times := { r.times with p5 := s.time } }))
    have hexec := exec_evalWindowOpen hs hf hb he
    obtain ⟨heval, hback, howned, hothers⟩ := evalOpened_openWindow (s.modRun (fun r => { r with times := { r.times with p5 := s.time } })).blotStep
    rw [hstep] at hexec heval hback howned hothers
    generalize State.openWindow _ false = t at hexec heval hback howned hothers
    exact ⟨_, hexec, heval, hback, howned, hothers⟩
  · obtain ⟨b, c, tm, hstep⟩ := blotStep_writes (s.modRun (fun r => { r with times := { r.times with p5 := s.time } }))
    have hexec := exec_evalWindowOpen hs hf hb he
    obtain ⟨heval, hchans, hlive, howned, -⟩ := evalDecanting_openWindow (s := (s.modRun (fun r => { r with times := { r.times with p5 := s.time } })).blotStep)
      (by rw [hstep]; exact hc) (by rw [hstep]; exact hl)
    rw [hstep] at hexec heval hchans hlive howned
    generalize State.openWindow _ true = t at hexec heval hchans hlive howned
    exact ⟨_, hexec, heval, hchans, hlive, howned⟩
  · obtain ⟨hcfg, hform, hanch, hstop, hchans, hlevel, hhold⟩ := stopped_effect s
    have hexec := exec_runStopEffect hs hf hb hr
    generalize State.stopCheck _ = t at hexec hcfg hform hanch hstop hchans hlevel hhold
    have hall : (s.hold t).allMem = t.allMem := by rw [State.allMem, State.allMem, State.channelList, State.channelList, hcfg]; rfl
    rw [← hall] at hhold
    exact ⟨_, hexec, hform, hanch, hstop, hchans, hlevel, hhold⟩

end Sys2Proof.Machine
end

section
/-! Proof of O56: the faults of the MC's cores, the watchdog and the mixer (R322, R372, R382, R385). -/

namespace Sys2Proof.Machine

open Sys2Proof.Bits

/-! ### The loss of a core -/

/-- What the loss of a core leaves alone. -/
structure Undisturbed (s t : State) : Prop where
  fabric : t.fabric = s.fabric
  formula : t.formula = s.formula
  nextStep : t.run.nextStep = s.run.nextStep
  fall : t.fall = s.fall
  level : t.smp.level = s.smp.level
  fw : ∃ sl c st, t.fw = { s.fw with slots := sl, commit := c, stage := st }

theorem Undisturbed.trans {s t u : State} (h : Undisturbed s t) (h' : Undisturbed t u) : Undisturbed s u := by
  obtain ⟨sl, c, st, hfw⟩ := h.fw
  obtain ⟨sl', c', st', hfw'⟩ := h'.fw
  exact ⟨h'.fabric.trans h.fabric, h'.formula.trans h.formula, h'.nextStep.trans h.nextStep, h'.fall.trans h.fall, h'.level.trans h.level,
    ⟨sl', c', st', by rw [hfw', hfw]⟩⟩

theorem Undisturbed.of_ended {s t : State} (h : Ended s t) : Undisturbed s t := by
  obtain ⟨⟨_, _, _, _, _, _, _, _, _, _, _, _, _, _, _, _, _, _, rfl⟩, -, -⟩ := h
  exact ⟨rfl, rfl, rfl, rfl, rfl, ⟨_, _, _, rfl⟩⟩

/-- A request that waits for an EVAL window is forgotten. -/
def EvalSt.forget : EvalSt → EvalSt
  | .requested _ => .closed
  | e => e

/-- The loss of the state that a core held: the books of FW_COMMIT, of waiting requests and of a bit at the Fuse Port. -/
def State.booksLost (s : State) : State :=
  let s := s.modFw (fun w => { w with commit := none, stage := [] })
  let s : State := match s.fusePass with
    | some p => if p.verify.isSome then { s with fusePass := none } else s
    | none => s
  s.modRun (fun r => { r with eval := r.eval.forget })

theorem undisturbed_booksLost (s : State) : Undisturbed s s.booksLost := by
  rw [State.booksLost]
  split
  · split <;> exact ⟨rfl, rfl, rfl, rfl, rfl, ⟨_, _, _, rfl⟩⟩
  · exact ⟨rfl, rfl, rfl, rfl, rfl, ⟨_, _, _, rfl⟩⟩

/-- The requests being executed are answered INTERNAL. -/
def State.requestsInternal (s : State) : State :=
  eachIn [0, 1, 2, 3] (fun s m => if s.executing m then s.respond m (s.mbx m).sequenced (Rsp.of stInternal) else s) s

theorem coreLost_eq (s : State) : s.coreLost =
    (eachIn s.requestsInternal.booksLost.ops (fun s o => s.failOp o stInternal) s.requestsInternal.booksLost).evalDecanted := rfl

theorem undisturbed_coreLost (s : State) : Undisturbed s s.coreLost := by
  have hreq : Undisturbed s s.requestsInternal := .of_ended (ended_eachIn _ (fun s m => by
    split
    · exact ended_respond s m _ _
    · exact .refl s) _ s)
  have hops : Undisturbed s.requestsInternal.booksLost
      (eachIn s.requestsInternal.booksLost.ops (fun s o => s.failOp o stInternal) s.requestsInternal.booksLost) :=
    .of_ended (ended_eachIn _ (fun s o => ended_failOp s o _) _ _)
  have heval : ∀ u : State, Undisturbed u u.evalDecanted := fun u => by
    rw [State.evalDecanted]
    split
    · obtain ⟨v, out, h⟩ := chansOut_transitAll (u.modRun (fun r => { r with eval := .opened })) u.channelList .toMem
      rw [State.channelsToMem]
      have h' := h
      rw [show (u.modRun (fun r => { r with eval := .opened })).channelList = u.channelList from rfl, h']
      exact ⟨rfl, rfl, rfl, rfl, rfl, ⟨_, _, _, rfl⟩⟩
    · exact ⟨rfl, rfl, rfl, rfl, rfl, ⟨_, _, _, rfl⟩⟩
  rw [coreLost_eq]
  exact ((hreq.trans (undisturbed_booksLost _)).trans hops).trans (heval _)

/-- With nothing held, no held request runs. -/
theorem runHeld_none {s : State} (hq : s.fw.heldQueue = []) (hf : s.fabric.held = []) : s.runHeld = s := by
  have hsame : s.modFw (fun w => { w with heldQueue := [] }) = s := by
    change { s with fw := { s.fw with heldQueue := [] } } = s
    rw [← hq]
  rw [State.runHeld, hq, hsame]
  exact State.release_of_none_held s _ _ hf

/-! ### Faults of a core -/

theorem fenceCore_writes (s : State) (core cause : Nat) : ∃ l ev dr b, s.fenceCore core cause =
    { s with log := l, smp := { s.smp with events := ev, dropped := dr }, blotter := b,
             fw := { s.fw with coreFenced := setV s.fw.coreFenced core true } } :=
  (s.modFw (fun w => { w with coreFenced := setV w.coreFenced core true })).error_posts (coreError core cause)

section
variable {s : State} {core : Fin 2} (hs : Awake s) (hw : s.wrst = false)
include hs

section
variable (hp : s.present 0 = true)
include hw hp

theorem exec_watchdogExpiry : exec (.watchdogExpiry core) s = .next (s.hold (s.coreFault core 1)) := by
  change execWatchdogExpiry core s = _
  rw [execWatchdogExpiry, act_awake s _ hs, when_of_true (by rw [hp, hw]; rfl)]

theorem exec_mcCoreFault (cause : BitVec 2) : exec (.mcCoreFault core cause) s = .next (s.hold (s.coreFault core cause.toNat)) := by
  change execMcCoreFault core cause s = _
  rw [execMcCoreFault, act_awake s _ hs, when_of_true (by rw [hp, hw]; rfl)]

/-- Both commands of a core's fault do what its cause makes of it. -/
theorem faults_of {cause : BitVec 2} {n : Nat} {t : State} (h : s.coreFault core n = t) :
    (n = 1 → exec (.watchdogExpiry core) s = .next (s.hold t)) ∧ (n = cause.toNat → exec (.mcCoreFault core cause) s = .next (s.hold t)) := by
  refine ⟨fun hn => ?_, fun hn => ?_⟩
  · rw [exec_watchdogExpiry hs hw hp, ← h, hn]
  · rw [exec_mcCoreFault hs hw hp, ← h, hn]

end

theorem exec_watchdogExpiry_absent (hp : s.present 0 = false) : exec (.watchdogExpiry core) s = .next s := by
  change execWatchdogExpiry core s = _
  rw [execWatchdogExpiry, act_awake s _ hs, when_of_false (by rw [hp]; rfl)]
  rfl

theorem exec_mcCoreFault_absent (cause : BitVec 2) (hp : s.present 0 = false) : exec (.mcCoreFault core cause) s = .next s := by
  change execMcCoreFault core cause s = _
  rw [execMcCoreFault, act_awake s _ hs, when_of_false (by rw [hp]; rfl)]
  rfl

theorem exec_mixerSelfCheck (hp : s.present 3 = true) : exec .mixerSelfCheck s = .next (s.hold (s.fenceKey 1)) := by
  change execMixerSelfCheck s = _
  rw [execMixerSelfCheck, act_awake s _ hs, when_of_true hp]

theorem exec_mixerSelfCheck_absent (hp : s.present 3 = false) : exec .mixerSelfCheck s = .next s := by
  change execMixerSelfCheck s = _
  rw [execMixerSelfCheck, act_awake s _ hs, when_of_false hp]
  rfl

end

/-- The standby core's fault outside a handover. -/
theorem standbyOver_idle {s : State} (core cause : Nat) (h : s.fw.handover = .none) :
    s.standbyOver core cause = (s.fenceCore core cause).modFw (fun w => { w with standby := none, standbyBoot := none }) := by
  obtain ⟨l, ev, dr, b, hf⟩ := fenceCore_writes s core cause
  have hnone : ((s.fenceCore core cause).modFw (fun w => { w with standby := none, standbyBoot := none })).fw.handover = .none := by
    rw [hf]
    exact h
  rw [State.standbyOver]
  rw [hnone]

/-- The state after the other core has gone on. -/
def State.otherGoesOn (s : State) : State := s.modFw (fun w => { w with
  core := otherCore w.core, standby := none, standbyBoot := none, handover := .none
  romMode := w.romMode || w.soloBoot, running := if w.soloBoot then none else w.running, soloBoot := false })

theorem coreOver_noCore {s : State} {core cause : Nat} (h : (s.fenceCore core cause).noCore = true) :
    s.coreOver core cause = (s.fenceCore core cause).classX { code := 0x0714, cls := .x, unit := 0x000F } := by
  rw [State.coreOver]
  exact if_pos h

theorem coreOver_goesOn {s : State} {core cause : Nat} (h : (s.fenceCore core cause).noCore = false) :
    s.coreOver core cause = (s.fenceCore core cause).coreLost.otherGoesOn.runHeld := by
  rw [State.coreOver]
  exact if_neg (Bool.eq_false_iff.mp h)

theorem coreFault_out {s : State} {core : Fin 2} (n : Nat) (h : s.fw.coreOut core = true) : s.coreFault core n = s.error (coreError core n) := by
  rw [State.coreFault]
  exact if_pos h

theorem coreFault_standby {s : State} {core : Fin 2} (n : Nat) (h : s.fw.coreOut core = false) (hc : core ≠ s.fw.core) :
    s.coreFault core n = s.standbyOver core n := by
  rw [State.coreFault]
  exact (if_neg (Bool.eq_false_iff.mp h)).trans (if_pos hc)

theorem coreFault_active {s : State} {core : Fin 2} (n : Nat) (h : s.fw.coreOut core = false) (hc : core = s.fw.core) (hf : s.fw.fallback = none) :
    s.coreFault core n = s.coreOver core n := by
  rw [State.coreFault]
  refine (if_neg (Bool.eq_false_iff.mp h)).trans ((if_neg (not_not_intro hc)).trans ?_)
  rw [hf]
  cases s.fw.running <;> rfl

theorem coreFault_probation {s : State} {core i j : Fin 2} (n : Nat) (h : s.fw.coreOut core = false) (hc : core = s.fw.core)
    (hr : s.fw.running = some i) (hf : s.fw.fallback = some j) (hst : (s.codeSlot i.toNat).st = .probation)
    (ho : s.fw.coreOut (otherCore core) = false) : s.coreFault core n = s.fallBack i j n := by
  rw [State.coreFault]
  refine (if_neg (Bool.eq_false_iff.mp h)).trans ((if_neg (not_not_intro hc)).trans ?_)
  rw [hf, hr]
  exact if_pos ⟨hst, ho⟩

theorem ne_otherCore : ∀ core : Fin 2, (core : Nat) ≠ (otherCore core : Nat) := by decide

theorem coreOut_fenceCore (s : State) (core : Fin 2) (n : Nat) :
    (s.fenceCore core n).fw.coreOut core = true ∧ (s.fenceCore core n).fw.coreOut (otherCore core) = s.fw.coreOut (otherCore core) := by
  obtain ⟨l, ev, dr, b, hf⟩ := fenceCore_writes s core n
  rw [hf]
  exact ⟨getV_setV_self _ _ _ _ core.isLt, getV_setV_ne _ _ _ _ _ (ne_otherCore core)⟩

theorem noCore_iff (s : State) (core : Fin 2) : s.noCore = (s.fw.coreOut core && s.fw.coreOut (otherCore core)) := by
  rw [State.noCore]
  match core with
  | 0 => rfl
  | 1 => exact Bool.and_comm _ _

/-- Settles O56. -/
theorem coreFaults : Obligations.CoreFaults := by
  unfold Obligations.CoreFaults
  intro s core cause hs hw
  refine ⟨fun hp n _ => ⟨fun hout => faults_of hs hw hp (coreFault_out n hout), fun hin hne hh => ?_, fun hin hc hf ho => ?_,
      fun hin hc hf ho hq hheld => ?_, fun i j hin hc hr hf hst ho => faults_of hs hw hp (coreFault_probation n hin hc hr hf hst ho)⟩,
    fun hp => ⟨exec_watchdogExpiry_absent hs hp, exec_mcCoreFault_absent hs cause hp⟩, fun hp => ?_, exec_mixerSelfCheck_absent hs⟩
  · refine ⟨_, faults_of hs hw hp ((coreFault_standby n hin hne).trans (standbyOver_idle core n hh)), (coreOut_fenceCore s core n).1, ?_⟩
    obtain ⟨l, ev, dr, b, hf⟩ := fenceCore_writes s core n
    rw [hf]
    exact ⟨rfl, rfl, rfl⟩
  · obtain ⟨hself, hother⟩ := coreOut_fenceCore s core n
    have hno : (s.fenceCore core n).noCore = true := by rw [noCore_iff _ core, hself, hother, ho]; rfl
    have hfall := (falling_classX (s.fenceCore core n) { code := 0x0714, cls := .x, unit := 0x000F }).fall
    exact ⟨_, faults_of hs hw hp ((coreFault_active n hin hc hf).trans (coreOver_noCore hno)), hfall, level_of_fall hfall⟩
  · obtain ⟨hself, hother⟩ := coreOut_fenceCore s core n
    have hno : (s.fenceCore core n).noCore = false := by rw [noCore_iff _ core, hself, hother, ho]; rfl
    obtain ⟨l, ev, dr, b, hfence⟩ := fenceCore_writes s core n
    have hlost := undisturbed_coreLost (s.fenceCore core n)
    have hover := (coreFault_active n hin hc hf).trans (coreOver_goesOn hno)
    generalize (s.fenceCore core n).coreLost = v at hlost hover
    obtain ⟨sl, c, st, hfw⟩ := hlost.fw
    have hqueue : v.otherGoesOn.fw.heldQueue = [] := by
      change v.fw.heldQueue = []
      rw [hfw, hfence]
      exact hq
    have hfabric : v.otherGoesOn.fabric.held = [] := by
      change v.fabric.held = []
      rw [hlost.fabric, hfence]
      exact hheld
    rw [runHeld_none hqueue hfabric] at hover
    refine ⟨_, faults_of hs hw hp hover, ?_, ?_, rfl, ?_, ?_, ?_⟩
    · change v.fw.coreOut core = true
      rw [hfw]
      exact hself
    · change otherCore v.fw.core = otherCore core
      rw [hfw, hfence, hc]
    · change (if v.fall then 0 else v.smp.level) = s.level
      rw [hlost.fall, hlost.level, hfence]
      rfl
    · exact hlost.nextStep.trans (by rw [hfence])
    · exact hlost.formula.trans (by rw [hfence])
  · have hrec := error_records ({ s with keyFenced := true } : State) (e := { code := 0x0705, cls := .f, unit := 0x0007, index := 0, arg0 := 1 })
      (fun h => by cases h)
    obtain ⟨l, m, b, he⟩ := State.error_writes ({ s with keyFenced := true } : State) { code := 0x0705, cls := .f, unit := 0x0007, index := 0, arg0 := 1 }
    have hkey : s.fenceKey 1 = _ := he
    rw [he] at hrec
    refine ⟨_, (exec_mixerSelfCheck hs hp).trans (congrArg (fun u => Host.Outcome.next (s.hold u)) hkey), rfl, hrec, rfl⟩

end Sys2Proof.Machine
end

section
/-! Proof of O55: the boot of the standby core, the handover point, probation, microcode banks and the takeover (R369 to R372). -/

namespace Sys2Proof.Machine

open Sys2Proof.Bits

section
variable {s : State} (hs : Awake s)
include hs

/-! ### The boot of the standby core -/

theorem exec_standbyBootDone_none (ok : Bool) (hb : s.fw.standbyBoot = none) : exec (.standbyBootDone ok) s = .next s := by
  change execStandbyBootDone ok s = _
  rw [execStandbyBootDone, act_awake s _ hs, hb]
  rfl

theorem exec_standbyBootDone_boots {i : Fin 2} {ok : Bool} (hb : s.fw.standbyBoot = some i) (hh : s.fw.handover = .booting i)
    (hgood : (ok && s.slotBoots i.toNat && !s.fw.coreOut (1 - s.fw.core.toNat)) = true) :
    exec (.standbyBootDone ok) s = .next (s.modFw (fun w =>
      { w with standbyBoot := none, handover := .ready i, standby := some i, dualSettings := true })) := by
  change execStandbyBootDone ok s = _
  rw [execStandbyBootDone, act_awake s _ hs, hb]
  refine congrArg (fun u => Host.Outcome.next (s.hold u)) (a₂ := s.modFw (fun w =>
    { w with standbyBoot := none, handover := .ready i, standby := some i, dualSettings := true })) ?_
  have hhand : (s.modFw (fun w => { w with standbyBoot := none })).fw.handover = .booting i := hh
  dsimp only
  rw [hhand]
  exact (if_neg (not_not_intro rfl)).trans (if_pos hgood)

/-- The LOADED slot that does not boot becomes INVALID, and the handover is over. -/
def State.bootFailed (s : State) (i : Fin 2) : State :=
  let s := (s.modFw (fun w => { w with standbyBoot := none })).modCode i.toNat (fun c => { c with st := .invalid })
  (s.modFw (fun w => { w with handover := .none })).post 0x0613 5 7 ((s.fw.running.map Fin.toNat).getD 0) 4 i.toNat

theorem exec_standbyBootDone_fails {i : Fin 2} (hb : s.fw.standbyBoot = some i) (hh : s.fw.handover = .booting i) :
    exec (.standbyBootDone false) s = .next (s.hold (s.bootFailed i)) := by
  change execStandbyBootDone false s = _
  rw [execStandbyBootDone, act_awake s _ hs, hb]
  have hhand : (s.modFw (fun w => { w with standbyBoot := none })).fw.handover = .booting i := hh
  dsimp only
  rw [hhand]
  exact congrArg (fun u => Host.Outcome.next (s.hold u)) ((if_neg (not_not_intro rfl)).trans (if_neg Bool.false_ne_true))

/-! ### The handover point -/

theorem exec_handoverPoint {i : Fin 2} (hh : s.fw.handover = .ready i) : exec .handoverPoint s = .next (s.hold
    (when (s.fw.commit.isNone && (if s.run.anchored then (s.recordFor (s.run.lastStep + 1)).isSome else s.fw.stage.isEmpty))
      (fun s => s.modFw (fun w => { w with handover := .held i })) s)) := by
  change execHandoverPoint s = _
  rw [execHandoverPoint, act_awake s _ hs, hh]

theorem exec_handoverPoint_holds {i : Fin 2} (hh : s.fw.handover = .ready i) (hc : s.fw.commit = none)
    (hready : (if s.run.anchored then (s.recordFor (s.run.lastStep + 1)).isSome else s.fw.stage.isEmpty) = true) :
    exec .handoverPoint s = .next (s.modFw (fun w => { w with handover := .held i })) := by
  rw [exec_handoverPoint hs hh, when_of_true (by rw [hc, hready]; rfl)]
  rfl

theorem exec_handoverPoint_waits {i : Fin 2} (hh : s.fw.handover = .ready i)
    (hwait : s.fw.commit.isSome = true ∨ (if s.run.anchored then (s.recordFor (s.run.lastStep + 1)).isSome else s.fw.stage.isEmpty) = false) :
    exec .handoverPoint s = .next s := by
  rw [exec_handoverPoint hs hh, when_of_false]
  · rfl
  · rcases hwait with hwait | hwait
    · rw [Bool.and_eq_false_iff]
      exact .inl (by rw [← Option.not_isSome, hwait]; rfl)
    · rw [hwait, Bool.and_false]

/-! ### Probation and microcode banks -/

theorem exec_probationEnd {i : Fin 2} (hr : s.fw.running = some i) (hst : (s.codeSlot i.toNat).st = .probation) (ht : s.fw.probationEnd ≤ s.time) :
    exec .probationEnd s = .next ((s.modCode i.toNat (fun c => { c with st := .active })).post 0x0612 5 7 i.toNat 0 0) := by
  change execProbationEnd s = _
  rw [execProbationEnd, act_awake s _ hs, hr]
  exact congrArg (fun u => Host.Outcome.next (s.hold u)) (when_of_true (by rw [decide_eq_true hst, decide_eq_true ht]; rfl) _ s)

theorem exec_probationEnd_early {i : Fin 2} (hr : s.fw.running = some i) (ht : s.time < s.fw.probationEnd) : exec .probationEnd s = .next s := by
  change execProbationEnd s = _
  rw [execProbationEnd, act_awake s _ hs, hr]
  exact congrArg (fun u => Host.Outcome.next (s.hold u)) (when_of_false (by simp [Nat.not_le.mpr ht]) _ s)

theorem exec_microcodeBankSwitch {ch : Fin 32} (hch : ch.toNat < channels s.cfg) (ha : s.fw.bankArmed = true)
    (hp : (s.chan ch).bankPending = true) (hg : (s.atmCh ch).seg = none) (hm : (s.chan ch).mode = .mem ∨ (s.chan ch).mode = .proc) :
    exec (.microcodeBankSwitch ch) s = .next (s.modChan ch (fun c => { c with bank1 := !c.bank1, bankPending := false })) := by
  change execMicrocodeBankSwitch ch s = _
  rw [execMicrocodeBankSwitch, onChan_awake s ch _ ⟨hs, hch⟩]
  exact congrArg (fun u => Host.Outcome.next (s.hold u)) (when_of_true (by rcases hm with hm | hm <;> simp [ha, hp, hg, hm]) _ s)

theorem exec_microcodeBankSwitch_transit {ch : Fin 32} (hch : ch.toNat < channels s.cfg)
    (hm : (s.chan ch).mode = .toProc ∨ (s.chan ch).mode = .toMem) : exec (.microcodeBankSwitch ch) s = .next s := by
  change execMicrocodeBankSwitch ch s = _
  rw [execMicrocodeBankSwitch, onChan_awake s ch _ ⟨hs, hch⟩]
  exact congrArg (fun u => Host.Outcome.next (s.hold u)) (when_of_false (by rcases hm with hm | hm <;> simp [hm]) _ s)

end

theorem bootFailed_leaves (s : State) (i : Fin 2) : ((s.bootFailed i).codeSlot i.toNat).st = .invalid ∧ (s.bootFailed i).fw.handover = .none ∧
    (s.bootFailed i).fw.standbyBoot = none ∧ (s.bootFailed i).fw.running = s.fw.running := by
  refine ⟨?_, rfl, rfl, rfl⟩
  exact congrArg CodeSlot.st (getV_modV_self s.fw.slots i.toNat (fun c => { c with st := .invalid }) {} i.isLt)

/-! ### The takeover -/

/-- What new microcode may write. -/
theorem newMicrocode_writes (s : State) : ∃ v a b p, s.newMicrocode = { s with
    chans := v, fw := { s.fw with bankArmed := a, stillBank1 := b, stillBankPending := p } } := by
  rw [State.newMicrocode]
  dsimp only
  split <;> exact ⟨_, _, _, _, rfl⟩

/-- The slots and the core at a takeover. -/
def State.taken (s : State) (i j : Fin 2) : State :=
  (((s.modFw (fun w => { w with fallbackSt := (s.codeSlot j.toNat).st })).modCode j.toNat (fun c => { c with st := .superseded })).modCode i.toNat
    (fun c => { c with st := .probation })).modFw (fun w => { w with
      core := otherCore w.core, running := some i, standby := some j, standbyBoot := none, fallback := some j, dualSettings := true, soloBoot := false
      probationEnd := s.time + 10000000000, handover := .none })

theorem takeOver_eq {s : State} {j : Fin 2} (i : Fin 2) (hr : s.fw.running = some j) : s.takeOver i =
    (s.taken i j).newMicrocode.runHeld.post 0x0611 5 7 i.toNat (s.taken i j).newMicrocode.runHeld.fw.core.toNat 0 := by
  rw [State.takeOver, hr]
  rfl

theorem codeSlot_modCode_self (s : State) {i : Nat} (hi : i < 2) (f : CodeSlot → CodeSlot) : (s.modCode i f).codeSlot i = f (s.codeSlot i) :=
  getV_modV_self _ _ _ _ hi

theorem codeSlot_modCode_ne (s : State) {i j : Nat} (h : i ≠ j) (f : CodeSlot → CodeSlot) : (s.modCode i f).codeSlot j = s.codeSlot j :=
  getV_modV_ne _ _ _ _ _ h

theorem codeSlots_taken (s : State) {i j : Fin 2} (h : i ≠ j) : ((s.taken i j).codeSlot i.toNat).st = .probation ∧
    ((s.taken i j).codeSlot j.toNat).st = .superseded := by
  have hne : i.toNat ≠ j.toNat := fun he => h (Fin.ext he)
  generalize hu : (s.modFw (fun w => { w with fallbackSt := (s.codeSlot j.toNat).st })).modCode j.toNat (fun c => { c with st := .superseded }) = u
  have hj : (u.codeSlot j.toNat).st = .superseded := by
    rw [← hu, codeSlot_modCode_self _ (i := j.toNat) j.isLt]
  have hslot : ∀ k, (s.taken i j).codeSlot k = (u.modCode i.toNat (fun c => { c with st := .probation })).codeSlot k := fun k => by
    rw [State.taken, hu]
    rfl
  rw [hslot, hslot, codeSlot_modCode_self _ (i := i.toNat) i.isLt, codeSlot_modCode_ne _ hne]
  exact ⟨rfl, hj⟩

theorem modFw_modFw (s : State) (f g : Firmware → Firmware) : (s.modFw f).modFw g = s.modFw (fun w => g (f w)) := rfl

/-- What a takeover writes of the firmware's state. -/
theorem taken_writes (s : State) (i j : Fin 2) : ∃ w, s.taken i j = { s with fw := w } ∧ w.running = some i ∧ w.fallback = some j ∧
    w.core = otherCore s.fw.core ∧ w.probationEnd = s.time + 10000000000 ∧ w.handover = .none ∧ w.heldQueue = s.fw.heldQueue := by
  rw [State.taken, State.modCode, State.modCode, modFw_modFw, modFw_modFw, modFw_modFw]
  exact ⟨_, rfl, rfl, rfl, rfl, rfl, rfl, rfl⟩

theorem otherCore_ne : ∀ core : Fin 2, otherCore core ≠ core := by decide

theorem exec_takeover {s : State} (hs : Awake s) {i : Fin 2} (hh : s.fw.handover = .held i) : exec (.takeover true) s = .next (s.hold (s.takeOver i)) := by
  change execTakeover true s = _
  rw [execTakeover, act_awake s _ hs, hh]
  rfl

theorem exec_takeover_fails {s : State} (hs : Awake s) {i : Fin 2} (hh : s.fw.handover = .held i) : exec (.takeover false) s = .next (s.hold
    (((((s.modFw (fun w => { w with standby := none })).coreLost).slotFailed i.toNat 2).error (fallbackError i.toNat)).runHeld)) := by
  change execTakeover false s = _
  rw [execTakeover, act_awake s _ hs, hh]
  rfl

/-- Settles O55. -/
theorem handoverAndTakeover : Obligations.HandoverAndTakeover := by
  unfold Obligations.HandoverAndTakeover
  refine ⟨fun s hs => ⟨fun i hb hh => ⟨fun ok => exec_standbyBootDone_boots hs hb hh, ?_⟩, fun hb ok => exec_standbyBootDone_none hs ok hb,
      fun i hh => ⟨fun ha hr hc => ?_, fun ha hr => ?_, fun ha hc hst => ?_, fun hwait => ?_⟩,
      fun i hr hst => ⟨exec_probationEnd hs hr hst, exec_probationEnd_early hs hr⟩,
      fun ch hch ha hp hg => ⟨exec_microcodeBankSwitch hs hch ha hp hg, exec_microcodeBankSwitch_transit hs hch⟩⟩,
    fun s i j hs hh hr hij hq hheld => ⟨?_, exec_takeover_fails hs hh⟩⟩
  · obtain ⟨hst, hhand, hboot, hrun⟩ := bootFailed_leaves s i
    exact ⟨_, exec_standbyBootDone_fails hs hb hh, hst, hhand, hboot, hrun⟩
  · exact exec_handoverPoint_holds hs hh hc (by rw [ha]; exact hr)
  · exact exec_handoverPoint_waits hs hh (.inr (by rw [ha, hr]; rfl))
  · exact exec_handoverPoint_holds hs hh hc (by rw [ha, hst]; rfl)
  · refine exec_handoverPoint_waits hs hh (hwait.imp_right fun ⟨ha, hst⟩ => ?_)
    rw [ha, if_neg Bool.false_ne_true]
    exact List.isEmpty_eq_false_iff.mpr hst
  · have hexec := exec_takeover hs hh
    obtain ⟨hpi, hpj⟩ := codeSlots_taken s hij
    obtain ⟨v, a, b, p, hcode⟩ := newMicrocode_writes (s.taken i j)
    obtain ⟨w, hw, hrun, hfall, hcore, hend, hhand, hqueue⟩ := taken_writes s i j
    have hheldq : (s.taken i j).newMicrocode.fw.heldQueue = [] := by rw [hcode, hw]; exact hqueue.trans hq
    have hheldp : (s.taken i j).newMicrocode.fabric.held = [] := by rw [hcode, hw]; exact hheld
    obtain ⟨ev, dr, hpost⟩ := State.post_writes (s.taken i j).newMicrocode 0x0611 5 7 i.toNat (s.taken i j).newMicrocode.fw.core.toNat 0
    rw [takeOver_eq i hr, runHeld_none hheldq hheldp, hpost, hcode, hw] at hexec
    rw [hw] at hpi hpj
    exact ⟨_, hexec, hrun, hfall, fun h => otherCore_ne s.fw.core (hcore.symm.trans h), hend, hhand, hpi, hpj, rfl, rfl, rfl, rfl, rfl⟩

end Sys2Proof.Machine
end

section
/-! Proof of O57: the reads of the Fuse Port and the burning of the bits of FW_COMMIT (R311, R312, R355, R373). -/

namespace Sys2Proof.Machine

open Sys2Proof.Bits

/-! ### What the steps of the Fuse Port write -/

/-- Starting the re-read that is due touches the Fuse Port and what is due alone. -/
theorem fuseStart_writes (s : State) : ∃ due pass, s.fuseStart = { s with fuses := { s.fuses with due := due }, fusePass := pass } := by
  unfold State.fuseStart
  extract_lets burning
  generalize burning = isBurning
  split
  · exact ⟨false, _, rfl⟩
  · exact ⟨s.fuses.due, s.fusePass, rfl⟩

theorem fuseStart_fw (s : State) : s.fuseStart.fw = s.fw := by
  obtain ⟨due, pass, h⟩ := fuseStart_writes s
  rw [h]

theorem fuseStart_mbx (s : State) (m : Nat) : s.fuseStart.mbx m = s.mbx m := by
  obtain ⟨due, pass, h⟩ := fuseStart_writes s
  rw [h]
  rfl

theorem fuseStart_fuses (s : State) (due : Bool) : { s.fuseStart.fuses with due := due } = { s.fuses with due := due } := by
  obtain ⟨d, pass, h⟩ := fuseStart_writes s
  rw [h]

/-- What is due is no part of a burned bit. -/
theorem burn_due (f : Fuses) (w b : Nat) : (f.burn w b).due = f.due := by
  rw [Fuses.burn]
  split
  · dsimp only
    split
    · rfl
    · split <;> rfl
  · rfl

theorem commitDone_writes (s : State) (m r : Nat) {i : Nat} (hi : i < 2) : ∃ ev dr mb w,
    s.commitDone m i r = { s with smp := { s.smp with events := ev, dropped := dr, mbx := mb }, fw := w } ∧
      w.commit = none ∧ (getV w.slots i {}).st = .committed ∧ w.heldQueue = s.fw.heldQueue := by
  have hne : 1 - i ≠ i := by omega
  have hslot : (getV (modV (modV s.fw.slots i (fun c => { c with st := SlotSt.committed })) (1 - i)
      (fun c => if c.st = .empty then c else { c with st := SlotSt.superseded })) i ({} : CodeSlot)).st = .committed := by
    rw [getV_modV_ne _ _ _ _ _ hne, getV_modV_self _ _ _ _ hi]
  rw [State.commitDone, State.modCode, State.modCode, modFw_modFw, modFw_modFw]
  generalize hw : s.modFw _ = u
  obtain ⟨ev, dr, hp⟩ := u.post_writes 0x0614 5 7 i u.fuses.arb r
  rw [hp]
  obtain ⟨ev', dr', mb, ha⟩ := answered_respond { u with smp := { u.smp with events := ev, dropped := dr } } m
    (({ u with smp := { u.smp with events := ev, dropped := dr } } : State).mbx m).sequenced Rsp.ok
  rw [ha, ← hw]
  exact ⟨ev', dr', mb, _, rfl, rfl, hslot, rfl⟩

/-- FW_COMMIT with the bit at hand burned, at a time, and some bits left. -/
def Commit.burned (c : Commit) (x : Nat × Nat) (rest : List (Nat × Nat)) (now : Nat) : Commit :=
  { c with bits := rest, since := now, burning := false, revoked := if x.1 = 0 then x.2 - 3 else c.revoked }

/-- With a bit burned and more to burn, the next one waits for its supply. -/
theorem commitNext_more {s : State} {c : Commit} {x y : Nat × Nat} {rest : List (Nat × Nat)} (hc : c.bits = x :: y :: rest) :
    s.commitNext c = (({ s with fuses := s.fuses.burn x.1 x.2 } : State).modFw (fun f =>
      { f with commit := some (c.burned x (y :: rest) s.time) })).fuseStart := by
  rw [State.commitNext, hc]
  rfl

/-- With the last bit burned FW_COMMIT is complete. -/
theorem commitNext_last {s : State} {c : Commit} {x : Nat × Nat} {i : Fin 2} (hc : c.bits = [x]) (hr : s.fw.running = some i) :
    s.commitNext c = ((({ s with fuses := s.fuses.burn x.1 x.2 } : State).modFw (fun f =>
      { f with commit := some (c.burned x [] s.time) })).commitDone c.mbx i.toNat (if x.1 = 0 then x.2 - 3 else c.revoked)).fuseStart := by
  rw [State.commitNext, hc]
  refine congrArg State.fuseStart ?_
  dsimp only
  split
  next j _ hj =>
    have hij : i = j := Option.some.inj (hr.symm.trans hj)
    rw [hij]
    rfl
  next hnone => exact (hnone i rfl hr).elim

theorem respond_fw (s : State) (m : Nat) (sequenced : Bool) (r : Rsp) : (s.respond m sequenced r).fw = s.fw := by
  obtain ⟨ev, dr, mb, h⟩ := answered_respond s m sequenced r
  rw [h]

theorem commitFail_commit (s : State) (c : Commit) : (s.commitFail c).fw.commit = none := by
  rw [State.commitFail, fuseStart_fw, respond_fw]
  rfl

/-- The response that a mailbox shows once it has been answered. -/
theorem rsp_respond (s : State) (m : Fin 4) (sequenced : Bool) (r : Rsp) :
    ((s.respond m sequenced r).mbx m).rsp = r.word (field (s.mbx m).taken.toNat 0 16) (field (s.mbx m).taken.toNat 16 16) := by
  rw [State.respond, State.deliver, mbx_post, mbx_modMbx]

theorem commitFail_rsp (s : State) (c : Commit) (m : Fin 4) (hm : c.mbx = m.toNat) : ((s.commitFail c).mbx m).rsp =
    ({ status := fwFuse, detail := (c.bits.headD (0, 0)).1 } : Rsp).word (field (s.mbx m).taken.toNat 0 16) (field (s.mbx m).taken.toNat 16 16) := by
  rw [State.commitFail, fuseStart_mbx, hm]
  refine (rsp_respond _ m _ _).trans ?_
  rw [mbx_post]
  rfl

/-! ### After a step of the Fuse Port -/

theorem afterCommit_goes {s : State} {f : State → State} (h : (f s).fw.commit = s.fw.commit) : s.afterCommit f = f s := by
  refine when_of_false ?_ _ _
  rw [h]
  cases s.fw.commit <;> rfl

theorem afterCommit_going {s : State} {f : State → State} {c : Commit} (h : (f s).fw.commit = some c) : s.afterCommit f = f s :=
  when_of_false (by rw [h]; exact Bool.and_false _) _ _

theorem afterCommit_ends {s : State} {f : State → State} {c : Commit} (hc : s.fw.commit = some c) (h : (f s).fw.commit = none) :
    s.afterCommit f = (f s).runHeld :=
  when_of_true (by rw [h, hc]; rfl) _ _

/-! ### Reads -/

theorem fuseAnswer_next {s : State} {p : FusePass} (v : Option Word32) (h : p.got.length < 2) :
    s.fuseAnswer p v = { s with fusePass := some { p with margin := p.margin + 1, got := p.got ++ [v], tries := 0 } } := by
  rw [State.fuseAnswer]
  exact if_pos (by rw [List.length_append, List.length_singleton]; omega)

theorem fuseAnswer_last {s : State} {p : FusePass} (v : Option Word32) (h : 2 ≤ p.got.length) : s.fuseAnswer p v =
    match p.verify with
    | some b => { s with fusePass := none }.verified b (p.got ++ [v])
    | none => if p.word < 127 then { s.reread p.word (p.got ++ [v]) with fusePass := some { word := p.word + 1, margin := 0 } }
      else { s.reread p.word (p.got ++ [v]) with fusePass := none }.fuseStart := by
  rw [State.fuseAnswer]
  exact if_neg (by rw [List.length_append, List.length_singleton]; omega)

/-- The three reads of a burned bit show it. -/
def AllRead (got : List (Option Word32)) (b : Nat) : Prop := ∀ o ∈ got, ∃ v : Word32, o = some v ∧ bit v.toNat b = true

theorem all_iff_allRead {got : List (Option Word32)} {b : Nat} {shows : Option Word32 → Bool} (hnone : shows none = false)
    (hsome : ∀ v, shows (some v) = bit v.toNat b) : got.all shows = true ↔ AllRead got b := by
  rw [List.all_eq_true]
  refine forall₂_congr (fun o _ => ?_)
  cases o with
  | none => exact ⟨fun h => (Bool.false_ne_true (hnone.symm.trans h)).elim, fun ⟨v, h, _⟩ => nomatch h⟩
  | some v =>
    rw [hsome]
    exact ⟨fun h => ⟨v, rfl, h⟩, fun ⟨u, hu, h⟩ => by cases hu; exact h⟩

theorem verified_good {s : State} {c : Commit} {b : Nat} {got : List (Option Word32)} (hc : s.fw.commit = some c) (h : AllRead got b) :
    s.verified b got = s.commitNext c := by
  rw [State.verified, hc]
  exact if_pos ((all_iff_allRead rfl (fun _ => rfl)).mpr h)

theorem verified_bad {s : State} {c : Commit} {b : Nat} {got : List (Option Word32)} (hc : s.fw.commit = some c) (h : ¬ AllRead got b) :
    s.verified b got = (s.reportMarginal (c.bits.headD (0, 0)).1 1 1 []).commitFail c := by
  rw [State.verified, hc]
  exact if_neg (fun hall => h ((all_iff_allRead rfl (fun _ => rfl)).mp hall))

section
variable {s : State} (hs : Awake s)
include hs

theorem exec_fspValid (w : Word32) : exec (.fspValid w) s = .next (s.hold (s.afterCommit (fun s => s.fuseValid w))) := by
  change execFspValid w s = _
  exact act_awake s _ hs

theorem exec_fspReadTimeout : exec .fspReadTimeout s = .next (s.hold (s.afterCommit State.fuseSilent)) := by
  change execFspReadTimeout s = _
  exact act_awake s _ hs

theorem exec_vppTimeout : exec .vppTimeout s = .next (s.hold (s.afterCommit State.noSupply)) := by
  change execVppTimeout s = _
  exact act_awake s _ hs

theorem exec_fspValid_none (w : Word32) (h : s.fusePass = none) : exec (.fspValid w) s = .next s := by
  have heff : s.fuseValid w = s := by rw [State.fuseValid, h]
  rw [exec_fspValid hs, afterCommit_goes (by rw [heff]), heff]
  rfl

theorem exec_fspReadTimeout_none (h : s.fusePass = none) : exec .fspReadTimeout s = .next s := by
  have heff : s.fuseSilent = s := by rw [State.fuseSilent, h]
  rw [exec_fspReadTimeout hs, afterCommit_goes (by rw [heff]), heff]
  rfl

theorem exec_fspValid_next {p : FusePass} (w : Word32) (hp : s.fusePass = some p) (h : p.got.length < 2) : exec (.fspValid w) s = .next
    { s with fusePass := some { p with margin := p.margin + 1, got := p.got ++ [some w], tries := 0 } } := by
  have heff : s.fuseValid w = { s with fusePass := some { p with margin := p.margin + 1, got := p.got ++ [some w], tries := 0 } } := by
    rw [State.fuseValid, hp]
    exact fuseAnswer_next _ h
  rw [exec_fspValid hs, afterCommit_goes (by rw [heff]), heff]
  rfl

theorem exec_fspValid_word {p : FusePass} (w : Word32) (hp : s.fusePass = some p) (h : 2 ≤ p.got.length) (hv : p.verify = none)
    (hw : p.word < 127) : exec (.fspValid w) s = .next (s.hold (s.afterCommit (fun s =>
      { s.reread p.word (p.got ++ [some w]) with fusePass := some { word := p.word + 1, margin := 0 } }))) := by
  have heff : s.fuseValid w = { s.reread p.word (p.got ++ [some w]) with fusePass := some { word := p.word + 1, margin := 0 } } := by
    rw [State.fuseValid, hp]
    refine (fuseAnswer_last _ h).trans ?_
    rw [hv]
    exact if_pos hw
  rw [exec_fspValid hs, State.afterCommit, State.afterCommit]
  dsimp only
  rw [heff]

theorem exec_fspReadTimeout_again {p : FusePass} (hp : s.fusePass = some p) (ht : p.tries = 0) :
    exec .fspReadTimeout s = .next { s with fusePass := some { p with tries := 1 } } := by
  have heff : s.fuseSilent = { s with fusePass := some { p with tries := 1 } } := by
    rw [State.fuseSilent, hp]
    exact if_pos ht
  rw [exec_fspReadTimeout hs, afterCommit_goes (by rw [heff]), heff]
  rfl

theorem exec_fspReadTimeout_none_read {p : FusePass} (hp : s.fusePass = some p) (ht : p.tries ≠ 0) (h : p.got.length < 2) :
    exec .fspReadTimeout s = .next { s with fusePass := some { p with margin := p.margin + 1, got := p.got ++ [none], tries := 0 } } := by
  have heff : s.fuseSilent = { s with fusePass := some { p with margin := p.margin + 1, got := p.got ++ [none], tries := 0 } } := by
    rw [State.fuseSilent, hp]
    exact (if_neg ht).trans (fuseAnswer_next _ h)
  rw [exec_fspReadTimeout hs, afterCommit_goes (by rw [heff]), heff]
  rfl

/-! ### The bit at hand of FW_COMMIT -/

section
variable {p : FusePass} {b : Nat} {c : Commit} (hp : s.fusePass = some p) (hv : p.verify = some b) (hc : s.fw.commit = some c)
  (hlen : p.got.length = 2) (w : Word32)
include hp hv hlen

omit hs in
/-- The last read of a burned bit is judged. -/
theorem fuseValid_verified : s.fuseValid w = { s with fusePass := none }.verified b (p.got ++ [some w]) := by
  rw [State.fuseValid, hp]
  refine (fuseAnswer_last _ (by omega)).trans ?_
  rw [hv]

include hc

theorem exec_fspValid_more (hgood : AllRead (p.got ++ [some w]) b) {x y : Nat × Nat} {rest : List (Nat × Nat)} (hbits : c.bits = x :: y :: rest) :
    ∃ t, exec (.fspValid w) s = .next t ∧
      t.fw.commit = some (c.burned x (y :: rest) s.time) ∧
      { t.fuses with due := s.fuses.due } = s.fuses.burn x.1 x.2 := by
  have heff := (fuseValid_verified hp hv hlen w).trans (verified_good (s := { s with fusePass := none }) hc hgood)
  rw [commitNext_more hbits] at heff
  have hcommit := (congrArg (fun u : State => u.fw.commit) heff).trans (congrArg Firmware.commit (fuseStart_fw _))
  have hfuses := (congrArg (fun u : State => ({ u.fuses with due := s.fuses.due } : Fuses)) heff).trans (fuseStart_fuses _ _)
  refine ⟨_, exec_fspValid hs w, ?_⟩
  rw [afterCommit_going hcommit]
  refine ⟨hcommit, hfuses.trans ?_⟩
  have hdue := burn_due s.fuses x.1 x.2
  change ({ s.fuses.burn x.1 x.2 with due := s.fuses.due } : Fuses) = _
  rw [← hdue]

theorem exec_fspValid_last (hgood : AllRead (p.got ++ [some w]) b) {x : Nat × Nat} {i : Fin 2} (hbits : c.bits = [x])
    (hr : s.fw.running = some i) (hq : s.fw.heldQueue = []) (hf : s.fabric.held = []) : ∃ t, exec (.fspValid w) s = .next t ∧
      t.fw.commit = none ∧ (t.codeSlot i.toNat).st = .committed ∧ { t.fuses with due := s.fuses.due } = s.fuses.burn x.1 x.2 := by
  have heff := (fuseValid_verified hp hv hlen w).trans (verified_good (s := { s with fusePass := none }) hc hgood)
  have hn := commitNext_last (s := { s with fusePass := none }) hbits hr
  obtain ⟨ev, dr, mb, fw, hd, hnone, hslot, hqueue⟩ := commitDone_writes
    (({ s with fusePass := none, fuses := s.fuses.burn x.1 x.2 } : State).modFw (fun f => { f with commit := some (c.burned x [] s.time) })) c.mbx
    (if x.1 = 0 then x.2 - 3 else c.revoked) i.isLt
  rw [hn] at heff
  obtain ⟨due, pass, hstart⟩ := fuseStart_writes ((({ s with fusePass := none, fuses := s.fuses.burn x.1 x.2 } : State).modFw
    (fun f => { f with commit := some (c.burned x [] s.time) })).commitDone c.mbx i.toNat (if x.1 = 0 then x.2 - 3 else c.revoked))
  have hend := heff.trans (hstart.trans (congrArg (fun u : State =>
    ({ u with fuses := { u.fuses with due := due }, fusePass := pass } : State)) hd))
  have hfuses : ({ s.fuses.burn x.1 x.2 with due := s.fuses.due } : Fuses) = s.fuses.burn x.1 x.2 := by
    rw [← burn_due s.fuses x.1 x.2]
  obtain ⟨t, ht, htcommit, htslot, htqueue, htheld, htfuses⟩ : ∃ t, s.fuseValid w = t ∧ t.fw.commit = none ∧
      (t.codeSlot i.toNat).st = .committed ∧ t.fw.heldQueue = [] ∧ t.fabric.held = [] ∧
      { t.fuses with due := s.fuses.due } = s.fuses.burn x.1 x.2 := ⟨_, hend, hnone, hslot, hqueue.trans hq, hf, hfuses⟩
  refine ⟨_, exec_fspValid hs w, ?_⟩
  rw [afterCommit_ends hc ((congrArg (fun u : State => u.fw.commit) ht).trans htcommit), ht, runHeld_none htqueue htheld]
  exact ⟨htcommit, htslot, htfuses⟩

theorem exec_fspValid_bad (hbad : ¬ AllRead (p.got ++ [some w]) b) : exec (.fspValid w) s = .next (s.hold
    (((({ s with fusePass := none } : State).reportMarginal (c.bits.headD (0, 0)).1 1 1 []).commitFail c).runHeld)) := by
  have heff := (fuseValid_verified hp hv hlen w).trans (verified_bad (s := { s with fusePass := none }) hc hbad)
  rw [exec_fspValid hs, afterCommit_ends hc ((congrArg (fun u : State => u.fw.commit) heff).trans (commitFail_commit _ c)), heff]

end

/-! ### The programming supply -/

theorem exec_fspVppAck_burns {c : Commit} (hc : s.fw.commit = some c) (hb : c.burning = false) (hp : s.fusePass = none) :
    exec .fspVppAck s = .next (s.modFw (fun f => { f with commit := some { c with burning := true } })) := by
  change execFspVppAck s = _
  rw [execFspVppAck, act_awake s _ hs, hc]
  exact congrArg (fun u => Host.Outcome.next (s.hold u)) (when_of_true (by rw [hb, hp]; rfl) _ s)

theorem exec_fspVppAck_waits {c : Commit} (hc : s.fw.commit = some c) (hp : s.fusePass.isSome = true) : exec .fspVppAck s = .next s := by
  obtain ⟨p, hp⟩ := Option.isSome_iff_exists.mp hp
  change execFspVppAck s = _
  rw [execFspVppAck, act_awake s _ hs, hc]
  exact congrArg (fun u => Host.Outcome.next (s.hold u)) (when_of_false (by rw [hp]; exact Bool.and_false _) _ s)

theorem exec_vppTimeout_late {c : Commit} (hc : s.fw.commit = some c) (hb : c.burning = false) (ht : c.since + 10000000 ≤ s.time) :
    exec .vppTimeout s = .next (s.hold ((s.commitFail c).runHeld)) := by
  have heff : s.noSupply = s.commitFail c := by
    rw [State.noSupply, hc]
    exact when_of_true (by rw [hb, decide_eq_true ht]; rfl) _ s
  rw [exec_vppTimeout hs, afterCommit_ends hc (heff ▸ commitFail_commit s c), heff]

theorem exec_vppTimeout_early {c : Commit} (hc : s.fw.commit = some c) (ht : s.time < c.since + 10000000) : exec .vppTimeout s = .next s := by
  have heff : s.noSupply = s := by
    rw [State.noSupply, hc]
    exact when_of_false (by rw [decide_eq_false (by omega)]; exact Bool.and_false _) _ s
  rw [exec_vppTimeout hs, afterCommit_goes (by rw [heff]), heff]
  rfl

theorem exec_fspDone_reads {c : Commit} (hc : s.fw.commit = some c) (hb : c.burning = true) (hp : s.fusePass = none) :
    exec .fspDone s = .next { s with
      fusePass := some { word := (c.bits.headD (0, 0)).1, margin := 0, verify := some (c.bits.headD (0, 0)).2 } } := by
  change execFspDone s = _
  rw [execFspDone, act_awake s _ hs, hc]
  exact congrArg (fun u => Host.Outcome.next (s.hold u)) (when_of_true (by rw [hb, hp]; rfl) _ s)

/-- With no FW_COMMIT in progress the programming side of the port does nothing. -/
theorem exec_supply_idle (hc : s.fw.commit = none) :
    exec .fspVppAck s = .next s ∧ exec .vppTimeout s = .next s ∧ exec .fspDone s = .next s := by
  refine ⟨?_, ?_, ?_⟩
  · change execFspVppAck s = _
    rw [execFspVppAck, act_awake s _ hs, hc]
    rfl
  · have heff : s.noSupply = s := by rw [State.noSupply, hc]
    rw [exec_vppTimeout hs, afterCommit_goes (by rw [heff]), heff]
    rfl
  · change execFspDone s = _
    rw [execFspDone, act_awake s _ hs, hc]
    rfl

end

/-- Settles O57. -/
theorem fusePort : Obligations.FusePort := by
  intro s hs
  refine ⟨fun p w hp => ⟨exec_fspValid_next hs w hp, exec_fspValid_word hs w hp, exec_fspReadTimeout_again hs hp,
      exec_fspReadTimeout_none_read hs hp⟩,
    fun p b c hp hv hc hlen w => ⟨fun hgood x y rest hbits => exec_fspValid_more hs hp hv hc hlen w hgood hbits,
      fun hgood x i hbits hr hq hf => exec_fspValid_last hs hp hv hc hlen w hgood hbits hr hq hf, exec_fspValid_bad hs hp hv hc hlen w⟩,
    fun w hp => ⟨exec_fspValid_none hs w hp, exec_fspReadTimeout_none hs hp⟩,
    fun c hc => ⟨exec_fspVppAck_burns hs hc, fun _ => exec_fspVppAck_waits hs hc, fun hb ht =>
        ⟨exec_vppTimeout_late hs hc hb ht, commitFail_commit s c, fun m hm => commitFail_rsp s c m hm⟩,
      fun _ => exec_vppTimeout_early hs hc, exec_fspDone_reads hs hc⟩,
    exec_supply_idle hs⟩

end Sys2Proof.Machine
end

section
/-! Proof of O59: the ends of ADMIT, FW_LOAD and RECOVERY_LOAD (R182, R183, R362, R365, R366, R375). -/

namespace Sys2Proof.Machine

open Sys2Proof.Bits

/-! ### The end of an operation, once more -/

/-- The end of an operation keeps what no command changes. -/
theorem State.hold_ended {s u : State} (o : LongOp) (st : OpSt) (status detail result : Nat) (h1 : u.cfg = s.cfg) (h2 : u.pending = s.pending)
    (h3 : u.porst = s.porst) : s.hold (u.endOp o st status detail result) = u.endOp o st status detail result := by
  obtain ⟨v, out, hend, -⟩ := u.endOp_writes o st status detail result
  rw [hend]
  exact hold_of _ _ h1 h2 h3

theorem State.endOp_fw (s : State) (o : LongOp) (st : OpSt) (status detail result : Nat) : (s.endOp o st status detail result).fw = s.fw := by
  obtain ⟨v, out, hend, -⟩ := s.endOp_writes o st status detail result
  rw [hend]

/-! ### ADMIT -/

theorem verdict_badImage {s : State} {img : List Byte} (h : badImage img = true) : (s.verdict img).reason = 0x01 := by
  rw [State.verdict, if_pos h]

/-- The result of ADMIT: the reason, the length of the report, and whether the buffer cut it short. -/
def Verdict.result (v : Verdict) (room : Nat) : Nat :=
  v.reason + v.report.length % 2 ^ 32 * 2 ^ 32 + ofBool (decide (room < v.report.length)) * 2 ^ 64

/-- The state with the report of ADMIT in the staging region. -/
def State.told (s : State) (o : LongOp) (v : Verdict) : State := s.writeDram (o.p 24 8) (v.report.take (o.p 32 4))

section
variable {s : State} (hs : Awake s) {h : BitVec 16} {o : LongOp} (ho : s.findOp h.toNat = some o)
include hs ho

theorem exec_admitDone_waits (hw : s.latenciesKnown = false ∨ s.opReady o = false) : exec (.admitDone h) s = .next s := by
  change execAdmitDone h s = _
  rw [execAdmitDone, act_awake s _ hs, ho]
  exact congrArg (fun u => Host.Outcome.next (s.hold u)) (when_of_false (by rcases hw with hw | hw <;> simp [hw]) _ s)

section
variable (hcode : o.code = cAdmit) (hst : o.st = .running) (hc : o.cancelling = false) (hl : s.latenciesKnown = true) (hr : s.opReady o = true)
include hcode hst hc hl hr

theorem exec_admitDone_unmapped (hm : admissionMap s.cfg s.stills = none) :
    exec (.admitDone h) s = .next (s.endOp o .failed stWrongState 0 o.result) := by
  change execAdmitDone h s = _
  rw [execAdmitDone, act_awake s _ hs, ho]
  dsimp only
  rw [when_of_true (by simp [hcode, hst, hc, hl, hr]), hm]
  exact congrArg Host.Outcome.next (State.hold_ended _ _ _ _ _ rfl rfl rfl)

theorem exec_admitDone_mapped {map : List Nat} (hm : admissionMap s.cfg s.stills = some map) : exec (.admitDone h) s = .next (s.hold
    (if s.mayAdmit (bit (o.p 20 1) 0) then s.admitEnd o map else s.endOp o .failed stWrongState 0 o.result)) := by
  change execAdmitDone h s = _
  rw [execAdmitDone, act_awake s _ hs, ho]
  dsimp only
  rw [when_of_true (by simp [hcode, hst, hc, hl, hr]), hm]

theorem exec_admitDone_refused (hbad : admissionMap s.cfg s.stills = none ∨ s.mayAdmit (bit (o.p 20 1) 0) = false) :
    exec (.admitDone h) s = .next (s.endOp o .failed stWrongState 0 o.result) := by
  cases hm : admissionMap s.cfg s.stills with
  | none => exact exec_admitDone_unmapped hs ho hcode hst hc hl hr hm
  | some map =>
    have hno : s.mayAdmit (bit (o.p 20 1) 0) = false := hbad.resolve_left (by rw [hm]; exact Option.some_ne_none map)
    rw [exec_admitDone_mapped hs ho hcode hst hc hl hr hm, if_neg (Bool.eq_false_iff.mp hno)]
    exact congrArg Host.Outcome.next (State.hold_ended _ _ _ _ _ rfl rfl rfl)

section
variable {map : List Nat} (hm : admissionMap s.cfg s.stills = some map) (hmay : s.mayAdmit (bit (o.p 20 1) 0) = true)
include hm hmay

theorem exec_admitDone_fails (hv : (s.verdict (s.staged o)).reason ≠ 0) : exec (.admitDone h) s = .next
    ((s.told o (s.verdict (s.staged o))).endOp { o with done := o.total } .failed stAdmission (s.verdict (s.staged o)).reason
      ((s.verdict (s.staged o)).result (o.p 32 4))) := by
  rw [exec_admitDone_mapped hs ho hcode hst hc hl hr hm, if_pos hmay, State.admitEnd]
  dsimp only
  rw [if_neg hv]
  exact congrArg Host.Outcome.next (State.hold_ended _ _ _ _ _ rfl rfl rfl)

theorem exec_admitDone_installs (hv : (s.verdict (s.staged o)).reason = 0) : exec (.admitDone h) s = .next (s.hold
    (((s.told o (s.verdict (s.staged o))).install (Formula.kept (formulaOf (s.staged o))) (s.verdict (s.staged o)) map
      (bit (o.p 20 1) 0)).endOp { o with done := o.total } .done stOk 0 ((s.verdict (s.staged o)).result (o.p 32 4)))) := by
  rw [exec_admitDone_mapped hs ho hcode hst hc hl hr hm, if_pos hmay, State.admitEnd]
  dsimp only
  rw [if_pos hv]
  rfl

end
end
end

/-! ### FW_LOAD and RECOVERY_LOAD -/

theorem recoverySlot_lt (s : State) : s.recoverySlot < 2 := by
  rw [State.recoverySlot]
  split <;> omega

theorem otherSlot_lt (s : State) : s.otherSlot < 2 := by
  rw [State.otherSlot]
  split
  · omega
  · exact recoverySlot_lt s

/-- An operation that has read its whole bundle. -/
def LongOp.whole (o : LongOp) : LongOp := { o with done := o.total, committedPoint := true }

theorem bootSlot_fw (s : State) (i : Nat) (st : SlotSt) (cause : Nat) : (s.bootSlot i st cause).fw =
    { s.fw with slots := modV s.fw.slots i (fun c => { c with st := st }), romMode := false, running := some (slotIx i),
                standbyBoot := some (slotIx i), standby := none, fallback := none, soloBoot := false } := rfl

section
variable {s : State} (hs : Awake s) {h : BitVec 16} {o : LongOp} (ho : s.findOp h.toNat = some o)
include hs ho

theorem exec_loadDone_waits (hw : s.latenciesKnown = false ∨ s.opReady o = false) :
    exec (.fwLoadDone h) s = .next s ∧ exec (.recoveryLoadDone h) s = .next s := by
  refine ⟨?_, ?_⟩
  · change execFwLoadDone h s = _
    rw [execFwLoadDone, act_awake s _ hs, ho]
    exact congrArg (fun u => Host.Outcome.next (s.hold u)) (when_of_false (by rcases hw with hw | hw <;> simp [hw]) _ s)
  · change execRecoveryLoadDone h s = _
    rw [execRecoveryLoadDone, act_awake s _ hs, ho]
    exact congrArg (fun u => Host.Outcome.next (s.hold u)) (when_of_false (by rcases hw with hw | hw <;> simp [hw]) _ s)

section
variable (hst : o.st = .running) (hc : o.cancelling = false) (hl : s.latenciesKnown = true) (hr : s.opReady o = true)
include hst hc hl hr

theorem exec_fwLoadDone_fails (hcode : o.code = cFwLoad) {f : Nat × Nat}
    (hf : bundleFault s.cfg s.fuses (s.staged o) (s.staged o).length s.activeImages = some f) :
    exec (.fwLoadDone h) s = .next (s.endOp o.whole .failed f.1 f.2 o.result) := by
  change execFwLoadDone h s = _
  rw [execFwLoadDone, act_awake s _ hs, ho]
  dsimp only
  rw [when_of_true (by simp [hcode, hst, hc, hl, hr]), hf]
  exact congrArg Host.Outcome.next (State.hold_ended _ _ _ _ _ rfl rfl rfl)

/-- The slot that is not active, as FW_LOAD leaves it. -/
def State.bundleLoaded (s : State) (o : LongOp) (c : CodeSlot) : CodeSlot :=
  { c with st := .loaded, bundle := bundleBytes (s.staged o), images := slotImages s.fuses.bundled (s.staged o) s.activeImages }

theorem exec_fwLoadDone_loads (hcode : o.code = cFwLoad)
    (hf : bundleFault s.cfg s.fuses (s.staged o) (s.staged o).length s.activeImages = none) (hslot : o.p 20 1 = 0) :
    exec (.fwLoadDone h) s = .next (((s.modCode s.otherSlot (s.bundleLoaded o)).post 0x0610 5 7 s.otherSlot
      (mVersion (manifestOf (s.staged o))) (mSvn (manifestOf (s.staged o)))).endOp o.whole .done stOk 0 o.result) := by
  change execFwLoadDone h s = _
  rw [execFwLoadDone, act_awake s _ hs, ho]
  dsimp only
  rw [when_of_true (by simp [hcode, hst, hc, hl, hr]), hf]
  dsimp only
  rw [if_pos (show ({ o with done := o.total, committedPoint := true } : LongOp).p 20 1 = 0 from hslot)]
  exact congrArg Host.Outcome.next (State.hold_ended _ _ _ _ _ rfl rfl rfl)

theorem exec_fwLoadDone_slot (hcode : o.code = cFwLoad)
    (hf : bundleFault s.cfg s.fuses (s.staged o) (s.staged o).length s.activeImages = none) (hslot : o.p 20 1 = 0) : ∃ t,
      exec (.fwLoadDone h) s = .next t ∧ (t.codeSlot s.otherSlot).st = .loaded ∧ (t.codeSlot s.otherSlot).bundle = bundleBytes (s.staged o) ∧
        t.fw.running = s.fw.running ∧ (∀ x ∈ t.ops, x.handle ≠ o.handle) ∧
        t.retained.getLast? = some { o.whole with st := .done, status := stOk, detail := 0 } := by
  refine ⟨_, exec_fwLoadDone_loads hs ho hst hc hl hr hcode hf hslot, ?_⟩
  generalize hu : (s.modCode s.otherSlot (s.bundleLoaded o)).post 0x0610 5 7 s.otherSlot (mVersion (manifestOf (s.staged o)))
    (mSvn (manifestOf (s.staged o))) = u
  have hfw : u.fw = (s.modCode s.otherSlot (s.bundleLoaded o)).fw := by rw [← hu, State.post_fw]
  obtain ⟨hops, hlast⟩ := u.endOp_lists o.whole .done stOk 0 o.result
  have hcode : (u.endOp o.whole .done stOk 0 o.result).codeSlot s.otherSlot = s.bundleLoaded o (s.codeSlot s.otherSlot) := by
    rw [State.codeSlot, State.endOp_fw, hfw]
    exact codeSlot_modCode_self s (otherSlot_lt s) _
  rw [hcode, State.endOp_fw, hfw]
  exact ⟨rfl, rfl, rfl, hops, hlast⟩

theorem exec_fwLoadDone_stages (hcode : o.code = cFwLoad)
    (hf : bundleFault s.cfg s.fuses (s.staged o) (s.staged o).length s.activeImages = none) (hslot : o.p 20 1 ≠ 0) :
    exec (.fwLoadDone h) s = .next (((s.modFw (fun w => { w with pendingStage := some (o.p 8 8, o.p 16 4) })).post 0x0610 5 7 2
      (mVersion (manifestOf (s.staged o))) (mSvn (manifestOf (s.staged o)))).endOp o.whole .done stOk 0 o.result) := by
  change execFwLoadDone h s = _
  rw [execFwLoadDone, act_awake s _ hs, ho]
  dsimp only
  rw [when_of_true (by simp [hcode, hst, hc, hl, hr]), hf]
  dsimp only
  rw [if_neg (show ¬ ({ o with done := o.total, committedPoint := true } : LongOp).p 20 1 = 0 from hslot)]
  exact congrArg Host.Outcome.next (State.hold_ended _ _ _ _ _ rfl rfl rfl)

theorem exec_recoveryLoadDone_fails (hcode : o.code = cRecoveryLoad) {f : Nat × Nat}
    (hf : bundleFault s.cfg s.fuses (s.staged o) (s.staged o).length [] = some f) :
    exec (.recoveryLoadDone h) s = .next (s.endOp o.whole .failed f.1 f.2 o.result) := by
  change execRecoveryLoadDone h s = _
  rw [execRecoveryLoadDone, act_awake s _ hs, ho]
  dsimp only
  rw [when_of_true (by simp [hcode, hst, hc, hl, hr]), hf]
  exact congrArg Host.Outcome.next (State.hold_ended _ _ _ _ _ rfl rfl rfl)

/-- RECOVERY_LOAD puts its bundle into the slot for recovery and boots it, with no standby boot to wait for. -/
def State.recovered (s : State) (o : LongOp) : State :=
  ((s.modCode s.recoverySlot (fun c => { c with bundle := bundleBytes (s.staged o), images := bundleImages (s.staged o) })).bootSlot
    s.recoverySlot .active 2).modFw (fun w => { w with soloBoot := true })

omit hs ho hst hc hl hr in
theorem recovered_holds (s : State) (o : LongOp) :
    (s.recovered o).cfg = s.cfg ∧ (s.recovered o).pending = s.pending ∧ (s.recovered o).porst = s.porst := by
  have hboot : BootWrites s (s.recovered o) := ((bootWrites_modCode s _ _).trans (bootWrites_bootSlot _ s.recoverySlot .active 2)).trans
    ⟨_, _, _, _, _, _, _, _, _, _, _, rfl⟩
  obtain ⟨_, _, _, _, _, _, _, _, _, _, _, h⟩ := hboot
  rw [h]
  exact ⟨rfl, rfl, rfl⟩

omit hs ho hst hc hl hr in
theorem recovered_effect (s : State) (o : LongOp) : (s.recovered o).fw.romMode = false ∧
    (s.recovered o).fw.running = some (slotIx s.recoverySlot) ∧ (s.recovered o).fw.soloBoot = true ∧ (s.recovered o).fw.fallback = none ∧
    ((s.recovered o).codeSlot s.recoverySlot).st = .active ∧ ((s.recovered o).codeSlot s.recoverySlot).bundle = bundleBytes (s.staged o) := by
  have hslot : (s.recovered o).codeSlot s.recoverySlot =
      { s.codeSlot s.recoverySlot with bundle := bundleBytes (s.staged o), images := bundleImages (s.staged o), st := .active } := by
    change getV (modV (modV s.fw.slots s.recoverySlot _) s.recoverySlot _) s.recoverySlot _ = _
    rw [getV_modV_self _ _ _ _ (recoverySlot_lt s), getV_modV_self _ _ _ _ (recoverySlot_lt s)]
    rfl
  rw [hslot]
  exact ⟨rfl, rfl, rfl, rfl, rfl, rfl⟩

theorem exec_recoveryLoadDone_boots (hcode : o.code = cRecoveryLoad)
    (hf : bundleFault s.cfg s.fuses (s.staged o) (s.staged o).length [] = none) :
    exec (.recoveryLoadDone h) s = .next ((s.recovered o).endOp o.whole .done stOk 0 o.result) := by
  change execRecoveryLoadDone h s = _
  rw [execRecoveryLoadDone, act_awake s _ hs, ho]
  dsimp only
  rw [when_of_true (by simp [hcode, hst, hc, hl, hr]), hf]
  change Host.Outcome.next (s.hold ((s.recovered o).endOp o.whole .done stOk 0 o.result)) = _
  obtain ⟨hcfg, hpending, hporst⟩ := recovered_holds s o
  exact congrArg Host.Outcome.next (State.hold_ended o.whole _ _ _ _ hcfg hpending hporst)

theorem exec_recoveryLoadDone_slot (hcode : o.code = cRecoveryLoad)
    (hf : bundleFault s.cfg s.fuses (s.staged o) (s.staged o).length [] = none) : ∃ t, exec (.recoveryLoadDone h) s = .next t ∧
      t.fw.romMode = false ∧ t.fw.running = some (slotIx s.recoverySlot) ∧ t.fw.soloBoot = true ∧ t.fw.fallback = none ∧
      (t.codeSlot s.recoverySlot).st = .active ∧ (t.codeSlot s.recoverySlot).bundle = bundleBytes (s.staged o) := by
  refine ⟨_, exec_recoveryLoadDone_boots hs ho hst hc hl hr hcode hf, ?_⟩
  rw [State.codeSlot, State.endOp_fw]
  exact recovered_effect s o

end
end

/-- Settles O59. -/
theorem admissionsAndBundlesEnd : Obligations.AdmissionsAndBundlesEnd := by
  refine ⟨fun s h o hs ho hcode hst hc => ⟨exec_admitDone_waits hs ho,
      fun hl hr => exec_admitDone_refused hs ho hcode hst hc hl hr,
      fun map hl hr hm hmay => ⟨exec_admitDone_fails hs ho hcode hst hc hl hr hm hmay,
        exec_admitDone_installs hs ho hcode hst hc hl hr hm hmay, verdict_badImage⟩⟩,
    fun s h o hs ho hst hc => ⟨exec_loadDone_waits hs ho,
      fun hcode hl hr => ⟨fun f hf => exec_fwLoadDone_fails hs ho hst hc hl hr hcode hf,
        exec_fwLoadDone_slot hs ho hst hc hl hr hcode, exec_fwLoadDone_stages hs ho hst hc hl hr hcode⟩,
      fun hcode hl hr => ⟨fun f hf => exec_recoveryLoadDone_fails hs ho hst hc hl hr hcode hf,
        exec_recoveryLoadDone_slot hs ho hst hc hl hr hcode⟩⟩⟩

end Sys2Proof.Machine
end

section
/-! Proof of O52: the close of a batch, the pages of an EGRESS window, and packets held for an epoch to come (R245, R246, R252, R292). -/

namespace Sys2Proof.Machine

open Sys2Proof.Bits

/-! ### Batches -/

section
variable {s : State} (hs : Awake s)
include hs

theorem exec_batchTimeout_closes {dst : Ea} (h : ∃ b ∈ s.fabric.batches, b.dst = dst.toNat ∧ b.closed = false ∧ b.since + 500 ≤ s.time) :
    exec (.batchTimeout dst) s = .next (s.closeBatch dst.toNat) := by
  change execBatchTimeout dst s = _
  rw [execBatchTimeout, act_awake s _ hs]
  refine congrArg (fun u => Host.Outcome.next (s.hold u)) (when_of_true ?_ _ s)
  obtain ⟨b, hb, hdst, hclosed, hold⟩ := h
  exact List.any_eq_true.mpr ⟨b, hb, by simp [hdst, hclosed, hold]⟩

theorem exec_batchTimeout_idle {dst : Ea} (h : ∀ b ∈ s.fabric.batches, b.dst = dst.toNat → b.closed = true ∨ s.time < b.since + 500) :
    exec (.batchTimeout dst) s = .next s := by
  change execBatchTimeout dst s = _
  rw [execBatchTimeout, act_awake s _ hs]
  refine congrArg (fun u => Host.Outcome.next (s.hold u)) (when_of_false ?_ _ s)
  rw [List.any_eq_false]
  intro b hb
  rw [Bool.and_eq_true, Bool.and_eq_true]
  rintro ⟨⟨hdst, hopen⟩, hold⟩
  rcases h b hb (of_decide_eq_true hdst) with hclosed | hlt
  · rw [hclosed] at hopen
    cases hopen
  · exact absurd (of_decide_eq_true hold) (Nat.not_le.mpr hlt)

end

theorem closeBatch_closes (s : State) (dst : Nat) : ∀ b ∈ (s.closeBatch dst).fabric.batches, b.dst = dst → b.closed = true := by
  intro b hb hdst
  obtain ⟨a, ha, rfl⟩ := List.mem_map.mp hb
  split
  · rfl
  next hopen =>
    rw [if_neg hopen] at hdst
    exact Bool.of_not_eq_false fun hc => hopen ⟨hdst, hc⟩

/-! ### Pages of an EGRESS window -/

/-- What a window with credit publishes next: its first closed batch, and in the lowest-indexed window a page that waits. -/
def State.nextPage (s : State) (w issued : Nat) : State :=
  match s.fabric.batches.find? (fun (b : Batch) => b.closed && decide (b.win = w)) with
  | some b => s.publishBatch w issued b
  | none =>
    if w ≠ s.egressWindow then s
    else match s.outPages.find? (fun (p : OutPage) => decide (p.kind = 2)) with
      | some p => s.publishStream w issued p
      | none => match s.outPages.find? (fun (p : OutPage) => decide (p.kind = 1)) with
        | some p => s.publishStream w issued p
        | none => match s.blotterPage with
          | some p => s.publishBlotter w issued p
          | none => s

section
variable {s : State} (hs : Awake s) {win : Byte} {e : WinEntry} (he : s.form.windows[win.toNat]? = some e)
include hs he

theorem exec_egressPagePublish_stays (h : ¬ (s.win win.toNat).returned - (s.win win.toNat).consumed < e.issued) :
    exec (.egressPagePublish win) s = .next s := by
  change execEgressPagePublish win s = _
  rw [execEgressPagePublish, act_awake s _ hs]
  dsimp only
  rw [he]
  exact congrArg (fun u => Host.Outcome.next (s.hold u)) (when_of_false (by simp [h]) _ s)

theorem exec_egressPagePublish_goes (hf : s.formula.isSome = true) (hp : s.present 1 = true) (hen : e.enable = true) (hk : e.kind = 2)
    (hroom : (s.win win.toNat).returned - (s.win win.toNat).consumed < e.issued) :
    exec (.egressPagePublish win) s = .next (s.hold (s.nextPage win.toNat e.issued)) := by
  change execEgressPagePublish win s = _
  rw [execEgressPagePublish, act_awake s _ hs]
  dsimp only
  rw [he]
  dsimp only
  rw [when_of_true (by simp [hf, hp, hen, hk, hroom])]
  rfl

end

section
variable {s : State} {w issued : Nat}

theorem nextPage_batch {b : Batch} (hb : s.fabric.batches.find? (fun b => b.closed && decide (b.win = w)) = some b) :
    s.nextPage w issued = s.publishBatch w issued b := by
  rw [State.nextPage, hb]

variable (hb : s.fabric.batches.find? (fun b => b.closed && decide (b.win = w)) = none)
include hb

theorem nextPage_other (hw : w ≠ s.egressWindow) : s.nextPage w issued = s := by
  rw [State.nextPage, hb]
  exact if_pos hw

variable (hw : w = s.egressWindow)
include hw

theorem nextPage_capture {p : OutPage} (h2 : s.outPages.find? (fun p => decide (p.kind = 2)) = some p) :
    s.nextPage w issued = s.publishStream w issued p := by
  rw [State.nextPage, hb]
  dsimp only
  rw [if_neg (not_not_intro hw), h2]

theorem nextPage_far {p : OutPage} (h2 : s.outPages.find? (fun p => decide (p.kind = 2)) = none)
    (h1 : s.outPages.find? (fun p => decide (p.kind = 1)) = some p) : s.nextPage w issued = s.publishStream w issued p := by
  rw [State.nextPage, hb]
  dsimp only
  rw [if_neg (not_not_intro hw), h2, h1]

theorem nextPage_blotter {p : OutPage} (h2 : s.outPages.find? (fun p => decide (p.kind = 2)) = none)
    (h1 : s.outPages.find? (fun p => decide (p.kind = 1)) = none) (hblot : s.blotterPage = some p) :
    s.nextPage w issued = s.publishBlotter w issued p := by
  rw [State.nextPage, hb]
  dsimp only
  rw [if_neg (not_not_intro hw), h2, h1, hblot]

end

/-- A published batch takes a page of its window and the next BSEQ of its flow. -/
theorem publishBatch_counts (s : State) {w : Nat} (issued : Nat) (b : Batch) (hw : w < s.wins.length) :
    ((s.publishBatch w issued b).win w).returned = (s.win w).returned + 1 ∧
      (s.publishBatch w issued b).nextBseq b.dst = (s.nextBseq b.dst + 1) % 4096 := by
  refine ⟨?_, ?_⟩
  · rw [State.publishBatch]
    exact congrArg Win.returned (State.win_modWin_self _ w _ hw)
  · have hlast : ((s.fabric.bseqTx.filter (fun x => decide (x.1 ≠ b.dst)) ++ [(b.dst, (s.nextBseq b.dst + 1) % 4096)]).find?
        (fun x => decide (x.1 = b.dst))) = some (b.dst, (s.nextBseq b.dst + 1) % 4096) := by
      rw [List.find?_append, List.find?_eq_none.mpr (fun x hx => by simpa using (List.mem_filter.mp hx).2)]
      simp
    exact congrArg (fun o => (Option.map Prod.snd o).getD 0) hlast

/-! ### Packets held for an epoch to come -/

/-- What the drop of a held packet leaves alone. -/
structure Dropped (s t : State) : Prop where
  held : t.fabric.held = s.fabric.held
  epoch : t.fabric.epoch = s.fabric.epoch
  members : t.fabric.members = s.fabric.members
  shards : t.shards = s.shards
  run : t.run = s.run
  dram : t.dram = s.dram

theorem Dropped.refl (s : State) : Dropped s s := ⟨rfl, rfl, rfl, rfl, rfl, rfl⟩

theorem Dropped.trans {s t u : State} (h : Dropped s t) (h' : Dropped t u) : Dropped s u :=
  ⟨h'.held.trans h.held, h'.epoch.trans h.epoch, h'.members.trans h.members, h'.shards.trans h.shards, h'.run.trans h.run, h'.dram.trans h.dram⟩

theorem dropped_dropPacket (s : State) (v : Via) (num code : Nat) (k : Packet) : Dropped s (s.dropPacket v num code k) := by
  rw [State.dropPacket]
  split
  · exact ⟨rfl, rfl, rfl, rfl, rfl, rfl⟩
  · obtain ⟨l, ev, dr, b, h⟩ := (s.count 4 v.index num 1).error_posts
      { code := code, cls := .c, unit := if v.index = 2 then 0x000F else 0x0004, index := if v.index = 2 then 0 else v.index, arg0 := k.type }
    rw [h]
    exact ⟨rfl, rfl, rfl, rfl, rfl, rfl⟩

theorem dropped_leave (s : State) (v : Via) (k : Packet) : Dropped s (s.leave v k) := by
  cases v with
  | carried => exact .refl s
  | link p =>
    simp only [State.leave]
    split
    · exact .refl s
    · exact ⟨rfl, rfl, rfl, rfl, rfl, rfl⟩

theorem dropped_pageLeave (s : State) (v : Via) : Dropped s (s.pageLeave v) := by
  cases v with
  | link p => exact .refl s
  | carried w p =>
    rw [State.pageLeave]
    split
    · exact .refl s
    · exact ⟨rfl, rfl, rfl, rfl, rfl, rfl⟩

theorem exec_epochExpired {s : State} (hs : Awake s) : ∃ t, exec .epochExpired s = .next t ∧
    t.fabric.held = s.fabric.held.filter (fun h => !(!h.relayed && decide (s.fabric.epoch < h.pkt.epoch) &&
      decide (h.since + 10000000 ≤ s.time))) ∧
    t.fabric.epoch = s.fabric.epoch ∧ t.fabric.members = s.fabric.members ∧ t.shards = s.shards ∧ t.run = s.run ∧ t.dram = s.dram := by
  refine ⟨_, (show execEpochExpired s = _ from act_awake s _ hs), ?_⟩
  rw [State.release]
  have h := eachIn_related Dropped.refl Dropped.trans
    (fun s (h : HeldPkt) => ((s.dropPacket h.via 8 0 h.pkt).leave h.via h.pkt).pageLeave h.via)
    (fun s h => ((dropped_dropPacket s h.via 8 0 h.pkt).trans (dropped_leave _ h.via h.pkt)).trans (dropped_pageLeave _ h.via))
    (s.fabric.held.filter (fun h => !h.relayed && decide (s.fabric.epoch < h.pkt.epoch) && decide (h.since + 10000000 ≤ s.time)))
    (s.modFabric (fun x => { x with held := x.held.filter (fun h => !(!h.relayed && decide (s.fabric.epoch < h.pkt.epoch) &&
      decide (h.since + 10000000 ≤ s.time))) }))
  exact ⟨h.held, h.epoch, h.members, h.shards, h.run, h.dram⟩

/-- Settles O52. -/
theorem batchesPagesEpochs : Obligations.BatchesPagesEpochs := by
  refine ⟨fun s hs => ⟨fun dst h => ⟨_, exec_batchTimeout_closes hs h, closeBatch_closes s dst.toNat, rfl, rfl⟩,
    fun dst => exec_batchTimeout_idle hs, fun win e he hf hp hen hk => ⟨fun hfull => exec_egressPagePublish_stays hs he (Nat.not_lt.mpr hfull),
      fun hroom => ?_⟩⟩, fun s hs => exec_epochExpired hs⟩
  rw [exec_egressPagePublish_goes hs he hf hp hen hk hroom]
  exact ⟨fun b hb => ⟨by rw [nextPage_batch hb], publishBatch_counts s e.issued b⟩,
    fun hb hw => ⟨fun p h2 => by rw [nextPage_capture hb hw h2], fun p h2 h1 => by rw [nextPage_far hb hw h2 h1],
      fun p h2 h1 hblot => by rw [nextPage_blotter hb hw h2 h1 hblot]⟩,
    fun hb hw => by rw [nextPage_other hb hw]; rfl⟩

end Sys2Proof.Machine
end

section
/-! Proof of O51: the bring-up, the timers and the loss of a link, and transmission (R253 to R256, R260, R262, R310). -/

namespace Sys2Proof.Machine

open Sys2Proof.Bits

/-! ### Links and packets of this engine -/

theorem link_modLink (s : State) (p : Fin 2) (f : Link → Link) : (s.modLink p f).link p = f (s.link p) := getV_modV_self _ _ _ _ p.isLt

/-- Two changes of a link that agree on what it holds are the same. -/
theorem modLink_congr {s : State} {p : Nat} {f g : Link → Link} (h : f (s.link p) = g (s.link p)) : s.modLink p f = s.modLink p g := by
  rw [State.modLink, State.modLink, modV_congr s.fabric.links p {} h]

/-- The type that sending fills in is the type of the packet. -/
theorem packet_type (s : State) {type : Nat} (ht : type < 256) (dst : Nat) (poison : Bool) (payload : List Byte) :
    (s.packet type dst poison payload).type = type := by
  rw [State.packet, Packet.type]
  simp only [Packet.fld, headOf, field, BitVec.toNat_ofNat]
  omega

theorem sendHello_discover (s : State) (p : Nat) : s.sendHello p 0 false =
    s.modLink p (fun l => { l with queue := modAt l.queue 0 (fun q => q ++ [s.packet 0x01 0 false (helloPayload s 0 p false)]) }) := by
  have htype : (s.packet 0x01 0 false (helloPayload s 0 p false)).type = 0x01 := packet_type s (by decide) _ _ _
  have hlane : laneOf (s.packet 0x01 0 false (helloPayload s 0 p false)).type = 0 := by
    rw [htype]
    rfl
  rw [State.sendHello, if_neg Bool.false_ne_true, State.enqueue, hlane]

/-- A packet queued on a link keeps what no command changes. -/
theorem hold_sendHello {s u : State} (p kind : Nat) (ack : Bool) (h1 : u.cfg = s.cfg) (h2 : u.pending = s.pending) (h3 : u.porst = s.porst) :
    s.hold (u.sendHello p kind ack) = u.sendHello p kind ack := hold_of _ _ h1 h2 h3

/-! ### Bring-up -/

/-- The link that the bring-up of a link begins with. -/
theorem startBringup_link (s : State) (p : Fin 2) : (s.startBringup p).link p = { (s.link p).clear .bringup with
    discovers := 1, discoverAt := s.time, queue := [[s.packet 0x01 0 false (helloPayload s 0 p false)], [], []] } := by
  rw [State.startBringup, sendHello_discover, link_modLink, link_modLink]
  rfl

theorem hold_startBringup {s : State} (u : State) (p : Nat) (h1 : u.cfg = s.cfg) (h2 : u.pending = s.pending) (h3 : u.porst = s.porst) :
    s.hold (u.startBringup p) = u.startBringup p := by
  rw [State.startBringup]
  exact hold_sendHello _ _ _ h1 h2 h3

section
variable {s : State} {p : Fin 2} (hs : OnLink s p)
include hs

theorem exec_pptLinkUp (hpin : (s.link p).pinUp = false) : exec (.pptLinkUp p) s = .next
    (if (s.link p).st = .fenced ∨ s.present 2 = false then s.modLink p (fun l => { l with pinUp := true, retrain := false })
      else (s.modLink p (fun l => { l with pinUp := true, retrain := false })).startBringup p) := by
  change execPptLinkUp p s = _
  rw [execPptLinkUp, onLink_awake s p _ hs]
  dsimp only
  rw [when_of_true (by rw [hpin]; rfl)]
  split
  next h =>
    rw [if_pos (show _ ∨ s.present 2 = false from h)]
    rfl
  next h =>
    rw [if_neg (show ¬ (_ ∨ s.present 2 = false) from h)]
    exact congrArg Host.Outcome.next (hold_startBringup (s.modLink p _) p rfl rfl rfl)

theorem exec_pptLinkUp_again (hpin : (s.link p).pinUp = true) : exec (.pptLinkUp p) s = .next s := by
  change execPptLinkUp p s = _
  rw [execPptLinkUp, onLink_awake s p _ hs]
  dsimp only
  rw [when_of_false (by rw [hpin]; rfl)]
  rfl

theorem exec_pptLinkDown (hpin : (s.link p).pinUp = true) : exec (.pptLinkDown p) s = .next (s.hold
    ((if s.present 2 then s.linkLost p 1 (if (s.link p).st = .fenced then .fenced else .down) else s).modLink p (fun l =>
      { l with pinUp := false }))) := by
  change execPptLinkDown p s = _
  rw [execPptLinkDown, onLink_awake s p _ hs]
  dsimp only
  rw [when_of_true hpin]

theorem exec_pptLinkDown_again (hpin : (s.link p).pinUp = false) : exec (.pptLinkDown p) s = .next s := by
  change execPptLinkDown p s = _
  rw [execPptLinkDown, onLink_awake s p _ hs]
  dsimp only
  rw [when_of_false hpin]
  rfl

theorem exec_pptErr (hp : s.present 2 = true) : exec (.pptErr p) s = .next (s.hold
    ((s.linkLost p 1 (if (s.link p).st = .fenced then .fenced else .down)).modLink p (fun l => { l with retrain := true }))) := by
  change execPptErr p s = _
  rw [execPptErr, onLink_awake s p _ hs]
  dsimp only
  rw [when_of_true hp]

/-! ### Timers -/

theorem exec_discoverTimer (hp : s.present 2 = true) (hst : (s.link p).st = .bringup) (hack : (s.link p).ackRcvd = false)
    (ht : (s.link p).discoverAt + 100000 ≤ s.time) : exec (.discoverTimer p) s = .next
      (((if (s.link p).discovers = 8 ∧ (s.link p).silent = false then (s.post 0x0202 1 7 p 0 0).modLink p (fun l => { l with silent := true })
        else s).modLink p (fun l => { l with discovers := l.discovers + 1, discoverAt := s.time })).sendHello p 0 false) := by
  change execDiscoverTimer p s = _
  rw [execDiscoverTimer, onLink_awake s p _ hs]
  dsimp only
  rw [when_of_true (by simp [hp, hst, hack, ht])]
  split
  · exact congrArg Host.Outcome.next (hold_sendHello _ _ _ rfl rfl rfl)
  · exact congrArg Host.Outcome.next (hold_sendHello _ _ _ rfl rfl rfl)

theorem exec_heartbeatSend (hp : s.present 2 = true) (hst : (s.link p).st = .up) (ht : (s.link p).lastTx + 100000 ≤ s.time) :
    exec (.heartbeatSend p) s = .next ((s.modLink p (fun l => { l with lastTx := s.time })).sendHello p 1 false) := by
  change execHeartbeatSend p s = _
  rw [execHeartbeatSend, onLink_awake s p _ hs]
  dsimp only
  rw [when_of_true (by simp [hp, hst, ht])]
  exact congrArg Host.Outcome.next (hold_sendHello _ _ _ rfl rfl rfl)

theorem exec_heartbeatSend_idle (h : (s.link p).st ≠ .up ∨ s.time < (s.link p).lastTx + 100000) : exec (.heartbeatSend p) s = .next s := by
  change execHeartbeatSend p s = _
  rw [execHeartbeatSend, onLink_awake s p _ hs]
  dsimp only
  rw [when_of_false (by rcases h with h | h <;> simp [h])]
  rfl

theorem exec_heartbeatCheck (hp : s.present 2 = true) (hst : (s.link p).st = .up) (ht : (s.link p).checkAt / 100000 < s.time / 100000) :
    exec (.heartbeatCheck p) s = .next (s.hold
      (if 8 ≤ (if (s.link p).rxSince then 0 else (s.link p).misses + 1) then
        (s.modLink p (fun l => { l with misses := if (s.link p).rxSince then 0 else (s.link p).misses + 1, rxSince := false, checkAt := s.time })).linkLost
          p 0 .down
      else s.modLink p (fun l => { l with misses := if (s.link p).rxSince then 0 else (s.link p).misses + 1, rxSince := false, checkAt := s.time }))) := by
  change execHeartbeatCheck p s = _
  rw [execHeartbeatCheck, onLink_awake s p _ hs]
  dsimp only
  rw [when_of_true (by simp [hp, hst, ht])]

theorem exec_creditHelloTimer (hp : s.present 2 = true) (hst : (s.link p).st = .up) (howed : ∃ x ∈ (s.link p).owed, 0 < x)
    (hq : ∀ q ∈ (s.link p).queue, q = []) (ht : (s.link p).owedAt + 200 ≤ s.time) :
    exec (.creditHelloTimer p) s = .next (s.sendHello p 2 false) := by
  have hany : (s.link p).owed.any (fun x => decide (0 < x)) = true := by simpa using howed
  have hall : (s.link p).queue.all List.isEmpty = true := List.all_eq_true.mpr fun q hmem => by rw [hq q hmem]; rfl
  change execCreditHelloTimer p s = _
  rw [execCreditHelloTimer, onLink_awake s p _ hs]
  dsimp only
  rw [when_of_true (by rw [hp, hst, hany, hall, decide_eq_true ht]; rfl)]
  exact congrArg Host.Outcome.next (hold_sendHello _ _ _ rfl rfl rfl)

/-! ### Transmission -/

theorem exec_packetTransmit_none (h : (s.link p).nextTx s.time = none) : exec (.packetTransmit p) s = .next s := by
  change execPacketTransmit p s = _
  rw [execPacketTransmit, onLink_awake s p _ hs]
  dsimp only
  rw [h]
  rfl

theorem exec_packetTransmit_some (hp : s.present 2 = true) (hst : (s.link p).st = .up ∨ (s.link p).st = .bringup) {ln at' : Nat} {k : Packet}
    (h : (s.link p).nextTx s.time = some (ln, k, at')) : exec (.packetTransmit p) s = .next (s.modLink p (fun l => { l with
      queue := modAt l.queue ln (fun q => q.eraseIdx at'), seqTx := modAt l.seqTx ln (fun x => (x + 1) % 4096),
      credits := if creditFree k then l.credits else modAt l.credits ln (fun x => x - k.cost),
      owed := l.owed.map (fun x => x - min x 255), lastTx := s.time,
      helloAt := if creditFree k then some s.time else l.helloAt,
      sent := [stampPacket k (l.seqTx.getD ln 0) (l.owed.map (fun x => min x 255))] })) := by
  change execPacketTransmit p s = _
  rw [execPacketTransmit, onLink_awake s p _ hs]
  dsimp only
  rw [h]
  dsimp only
  rw [when_of_true (by rcases hst with hst | hst <;> simp [hp, hst])]
  refine congrArg Host.Outcome.next (Eq.trans (b := s.modLink p _) rfl (modLink_congr ?_))
  rfl

end

theorem offer_maySend {l : Link} {now ln at' : Nat} {k : Packet} (h : l.offer now ln = some (k, at')) : l.maySend now k = true := by
  rw [Link.offer] at h
  split at h
  · cases h
  · split at h
    next hmay => cases h; exact hmay
    · split at h
      · cases h
      · obtain ⟨x, hx, hxe⟩ := Option.map_eq_some_iff.mp h
        cases hxe
        have hfound := List.find?_some hx
        exact (Bool.and_eq_true_iff.mp hfound).2

/-- A packet that takes credits leaves on an UP link that has them. -/
theorem nextTx_pays {l : Link} {now ln at' : Nat} {k : Packet} (h : l.nextTx now = some (ln, k, at')) (hfree : creditFree k = false) :
    l.st = .up ∧ k.cost ≤ l.credits.getD (laneOf k.type) 0 := by
  obtain ⟨i, -, hi⟩ := List.exists_of_findSome?_eq_some h
  obtain ⟨x, hx, hxe⟩ := Option.map_eq_some_iff.mp hi
  cases hxe
  have hmay := offer_maySend (k := x.1) (at' := x.2) hx
  rw [Link.maySend, if_neg (Bool.eq_false_iff.mp hfree), Bool.and_eq_true] at hmay
  exact ⟨of_decide_eq_true hmay.1, of_decide_eq_true hmay.2⟩

/-- Settles O51. -/
theorem linkLife : Obligations.LinkLife := by
  refine ⟨fun s p hs => ⟨fun hpin hstay => by rw [exec_pptLinkUp hs hpin, if_pos hstay], fun hpin hst hp => ?_, exec_pptLinkUp_again hs,
      fun hpin hp => by rw [exec_pptLinkDown hs hpin, if_pos hp],
      fun hpin hp => by rw [exec_pptLinkDown hs hpin, if_neg (Bool.eq_false_iff.mp hp)]; rfl, exec_pptLinkDown_again hs, exec_pptErr hs,
      fun hp hst hack ht hq => ?_, fun hp hst hack ht h8 hsil => ?_⟩,
    fun s p hs hp => ⟨exec_heartbeatSend hs hp, exec_heartbeatSend_idle hs, fun hst ht => ⟨fun hm => ?_, fun hm => ?_⟩,
      exec_creditHelloTimer hs hp, fun hst ln k at' h => ⟨exec_packetTransmit_some hs hp hst h, nextTx_pays h⟩, exec_packetTransmit_none hs⟩⟩
  · rw [exec_pptLinkUp hs hpin, if_neg (fun h => h.elim hst (fun h => by rw [hp] at h; cases h)), startBringup_link]
    exact ⟨rfl, rfl, rfl, rfl, rfl⟩
  · rw [exec_discoverTimer hs hp hst hack ht, if_neg (fun h => hq.elim (fun hne => hne h.1) (fun ht => by rw [ht] at h; cases h.2))]
  · rw [exec_discoverTimer hs hp hst hack ht, if_pos ⟨h8, hsil⟩]
  · rw [exec_heartbeatCheck hs hp hst ht, if_neg (Nat.not_le.mpr hm)]
    rfl
  · rw [exec_heartbeatCheck hs hp hst ht, if_pos hm]

end Sys2Proof.Machine
end

section
/-! Proof of O49: the arrival of a packet on a link, and the link's own packets (R251, R253, R256, R260, R261). -/

namespace Sys2Proof.Machine

open Sys2Proof.Bits

/-! ### Counters -/

theorem findCounter_putCounter (cs : List Counter) (set index num value : Nat) (sat : Bool) :
    findCounter (putCounter cs set index num value sat) set index num = (value, sat) := by
  have hrest : (cs.filter (fun c => !(decide (c.set = set) && decide (c.index = index) && decide (c.num = num)))).find?
      (fun c => decide (c.set = set) && decide (c.index = index) && decide (c.num = num)) = none :=
    List.find?_eq_none.mpr fun c hc => by
      have hne := (List.mem_filter.mp hc).2
      rw [Bool.not_eq_true'] at hne
      rw [hne]
      exact Bool.false_ne_true
  rw [findCounter, putCounter]
  by_cases hz : value = 0 ∧ sat = false
  · rw [if_pos hz, hrest, hz.1, hz.2]
  · rw [if_neg hz, List.find?_append, hrest]
    simp

theorem findCounter_count (s : State) (set index num n : Nat) : findCounter (s.count set index num n).counters set index num =
    (satAdd (counterWidth set) (findCounter s.counters set index num).1 n,
      (findCounter s.counters set index num).2 || decide (2 ^ counterWidth set - 1 < (findCounter s.counters set index num).1 + n)) :=
  findCounter_putCounter _ _ _ _ _ _

/-- A drop counts the packet, and touches no link. -/
theorem dropPacket_effect (s : State) (v : Via) (num code : Nat) (k : Packet) :
    (s.dropPacket v num code k).counters = (s.count 4 v.index num 1).counters ∧ (s.dropPacket v num code k).fabric = s.fabric := by
  rw [State.dropPacket]
  split
  · exact ⟨rfl, rfl⟩
  · obtain ⟨l, ev, dr, b, h⟩ := (s.count 4 v.index num 1).error_posts
      { code := code, cls := .c, unit := if v.index = 2 then 0x000F else 0x0004, index := if v.index = 2 then 0 else v.index, arg0 := k.type }
    rw [h]
    exact ⟨rfl, rfl⟩

/-! ### What sending changes of a link -/

/-- A link whose queue alone has grown. -/
structure Queued (a b : Link) : Prop where
  same : ∃ q, b = { a with queue := q }
  lanes : b.queue.length = a.queue.length
  stays : ∀ ln, ∀ k ∈ a.queue.getD ln [], k ∈ b.queue.getD ln []

theorem Queued.refl (a : Link) : Queued a a := ⟨⟨a.queue, rfl⟩, rfl, fun _ _ h => h⟩

theorem Queued.trans {a b c : Link} (h : Queued a b) (h' : Queued b c) : Queued a c := by
  obtain ⟨q, rfl⟩ := h.same
  obtain ⟨q', rfl⟩ := h'.same
  exact ⟨⟨q', rfl⟩, h'.lanes.trans h.lanes, fun ln k hk => h'.stays ln k (h.stays ln k hk)⟩

theorem queued_add (a : Link) (ln : Nat) (k : Packet) : Queued a { a with queue := modAt a.queue ln (fun q => q ++ [k]) } := by
  refine ⟨⟨_, rfl⟩, List.length_modify _ _ _, fun i x hx => ?_⟩
  rw [List.getD_eq_getElem?_getD] at hx
  rw [modAt, List.getD_eq_getElem?_getD, List.getElem?_modify]
  cases hq : a.queue[i]? with
  | none => rw [hq] at hx; exact hx
  | some q =>
    rw [hq] at hx
    by_cases hi : ln = i
    · simpa [hi] using Or.inl hx
    · simpa [hi] using hx

/-- Two states whose links differ in what they have queued. -/
def LinksQueued (s t : State) : Prop := ∀ i, Queued (s.link i) (t.link i)

theorem LinksQueued.refl (s : State) : LinksQueued s s := fun i => .refl (s.link i)

theorem LinksQueued.trans {s t u : State} (h : LinksQueued s t) (h' : LinksQueued t u) : LinksQueued s u := fun i => (h i).trans (h' i)

theorem linksQueued_enqueue (s : State) (p : Nat) (k : Packet) : LinksQueued s (s.enqueue p k) := by
  intro i
  by_cases hi : p = i
  · subst hi
    by_cases hp : p < 2
    · have hlink : (s.enqueue p k).link p = { s.link p with queue := modAt (s.link p).queue (laneOf k.type) (fun q => q ++ [k]) } :=
        link_modLink s ⟨p, hp⟩ _
      rw [hlink]
      exact queued_add _ _ _
    · have hout : ∀ v : Vector Link 2, getV v p ({} : Link) = {} := fun v => by
        rw [getV, List.getD_eq_getElem?_getD, List.getElem?_eq_none (by rw [Vector.length_toList]; omega)]
        rfl
      rw [State.link, State.link, hout, hout]
      exact .refl _
  · have hlink : (s.enqueue p k).link i = s.link i := getV_modV_ne _ _ _ _ _ hi
    rw [hlink]
    exact .refl _

theorem linksQueued_topoIfChanged (s : State) : LinksQueued s s.topoIfChanged := by
  rw [State.topoIfChanged]
  split
  · exact .refl s
  · exact eachIn_related LinksQueued.refl LinksQueued.trans _ (fun s p => linksQueued_enqueue s p _) _ s

/-- What a link shows besides its queue. -/
theorem Queued.fields {a b : Link} (h : Queued a b) : b.st = a.st ∧ b.peer = a.peer ∧ b.seqTx = a.seqTx ∧ b.seqRx = a.seqRx ∧
    b.credits = a.credits ∧ b.ackSent = a.ackSent ∧ b.ackRcvd = a.ackRcvd ∧ b.granted = a.granted ∧ b.topo = a.topo ∧ b.topoAt = a.topoAt := by
  obtain ⟨q, rfl⟩ := h.same
  exact ⟨rfl, rfl, rfl, rfl, rfl, rfl, rfl, rfl, rfl, rfl⟩

/-! ### Reception -/

/-- The link has heard something. -/
def State.got (s : State) (p : Nat) : State := s.modLink p (fun l => { l with rxSince := true })

/-- A packet that takes credits holds its place in the lane's buffer. -/
def State.buffered (s : State) (p : Nat) (k : Packet) : State :=
  if decide (k.type = 0x01) || decide (k.type = 0x02) then s
  else s.modLink p (fun l => { l with inBuf := modAt l.inBuf (laneOf k.type) (fun x => x + k.cost) })

section
variable {s : State} {p : Fin 2} {k : Packet} {relay : State → Packet → State}

theorem receive_idle (h : (s.link p).st = .down ∨ (s.link p).st = .fenced) : State.receive relay s p k = s := by
  rw [State.receive]
  exact if_pos h

variable (hup : (s.link p).st = .up ∨ (s.link p).st = .bringup)
include hup

theorem receive_live : ¬ ((s.link p).st = .down ∨ (s.link p).st = .fenced) := by
  rintro (h | h) <;> rcases hup with hup | hup <;> rw [h] at hup <;> cases hup

theorem receive_badCrc (hcrc : ¬ field (packetCrc k.head.toNat k.payload) 0 32 = k.fld 224 32) :
    State.receive relay s p k = (((s.got p).buffered p k).dropPacket (.link p) 1 0x0501 k).leave (.link p) k := by
  rw [State.receive]
  exact (if_neg (receive_live hup)).trans (if_pos hcrc)

variable (hcrc : field (packetCrc k.head.toNat k.payload) 0 32 = k.fld 224 32)
include hcrc

theorem receive_resets (hr : (s.link p).st = .up ∧ restarts k = true) : State.receive relay s p k = (s.got p).linkReset p k := by
  rw [State.receive]
  exact (if_neg (receive_live hup)).trans ((if_neg (not_not_intro hcrc)).trans (if_pos hr))

variable (hr : ¬ ((s.link p).st = .up ∧ restarts k = true))
include hr

theorem receive_again (hd : 2048 ≤ (k.seq + 4096 - (s.link p).seqRx.getD (laneOf k.type) 0) % 4096) :
    State.receive relay s p k = (((s.got p).buffered p k).dropPacket (.link p) 9 0 k).leave (.link p) k := by
  rw [State.receive]
  exact (if_neg (receive_live hup)).trans ((if_neg (not_not_intro hcrc)).trans ((if_neg hr).trans
    ((if_neg (by omega)).trans (if_pos hd))))

theorem receive_gap (h1 : 1 ≤ (k.seq + 4096 - (s.link p).seqRx.getD (laneOf k.type) 0) % 4096)
    (h2 : (k.seq + 4096 - (s.link p).seqRx.getD (laneOf k.type) 0) % 4096 < 2048) :
    State.receive relay s p k = (s.got p).fenceLink p 0x0509 (laneOf k.type) := by
  rw [State.receive]
  exact (if_neg (receive_live hup)).trans ((if_neg (not_not_intro hcrc)).trans ((if_neg hr).trans
    ((if_neg (by omega)).trans (if_neg (by omega)))))

variable (hd : (k.seq + 4096 - (s.link p).seqRx.getD (laneOf k.type) 0) % 4096 = 0)
include hd

theorem receive_inOrder : State.receive relay s p k =
    if !(decide (k.type = 0x01) || decide (k.type = 0x02)) && decide ((if (s.link p).granted then laneGrant.getD (laneOf k.type) 0 else 0) <
        (s.link p).inBuf.getD (laneOf k.type) 0 + (s.link p).owed.getD (laneOf k.type) 0 + k.cost)
    then (s.got p).fenceLink p 0x0508 (laneOf k.type)
    else State.rows2 relay ((((s.got p).modLink p (fun l => { l with
      seqRx := modAt l.seqRx (laneOf k.type) (fun x => (x + 1) % 4096) })).buffered p k).takeCredits p k) (.link p) k := by
  rw [State.receive]
  exact (if_neg (receive_live hup)).trans ((if_neg (not_not_intro hcrc)).trans ((if_neg hr).trans (if_pos hd)))

end

/-- What a packet that is dropped leaves of its link. -/
theorem dropped_link (s : State) (p : Fin 2) (num code : Nat) (k : Packet) :
    (((((s.got p).buffered p k).dropPacket (.link p) num code k).leave (.link p) k).link p).seqRx = (s.link p).seqRx ∧
      (((((s.got p).buffered p k).dropPacket (.link p) num code k).leave (.link p) k).link p).st = (s.link p).st ∧
      findCounter ((((s.got p).buffered p k).dropPacket (.link p) num code k).leave (.link p) k).counters 4 p num =
        (satAdd 32 (findCounter s.counters 4 p num).1 1,
          (findCounter s.counters 4 p num).2 || decide (2 ^ 32 - 1 < (findCounter s.counters 4 p num).1 + 1)) := by
  obtain ⟨hcount, hfabric⟩ := dropPacket_effect ((s.got p).buffered p k) (.link p) num code k
  have hbuf : (((s.got p).buffered p k).link p).seqRx = (s.link p).seqRx ∧ (((s.got p).buffered p k).link p).st = (s.link p).st ∧
      ((s.got p).buffered p k).counters = s.counters := by
    rw [State.buffered, State.got]
    split
    · rw [link_modLink]
      exact ⟨rfl, rfl, rfl⟩
    · rw [link_modLink, link_modLink]
      exact ⟨rfl, rfl, rfl⟩
  obtain ⟨hseq, hst, hcs⟩ := hbuf
  generalize ((s.got p).buffered p k) = u at hcount hfabric hseq hst hcs
  generalize u.dropPacket (.link p) num code k = w at hcount hfabric
  have hlink : w.link p = u.link p := congrArg (fun f : Fabric => getV f.links p {}) hfabric
  have hleave : (w.leave (.link p) k).counters = w.counters ∧ ((w.leave (.link p) k).link p).seqRx = (w.link p).seqRx ∧
      ((w.leave (.link p) k).link p).st = (w.link p).st := by
    rw [State.leave]
    dsimp only
    split
    · exact ⟨rfl, rfl, rfl⟩
    · rw [link_modLink]
      exact ⟨rfl, rfl, rfl⟩
  obtain ⟨hlc, hls, hlst⟩ := hleave
  refine ⟨hls.trans (hlink ▸ hseq), hlst.trans (hlink ▸ hst), ?_⟩
  rw [hlc, hcount, ← hcs]
  exact findCounter_count u 4 p num 1

/-! ### The link's own packets -/

theorem link_modLink_modLink (s : State) (p : Fin 2) (f g : Link → Link) : ((s.modLink p f).modLink p g).link p = g (f (s.link p)) := by
  rw [link_modLink, link_modLink]

theorem learnPeer_link (s : State) (p : Fin 2) (k : Packet) (assigned : Bool) :
    (s.learnPeer p k assigned).link p = { s.link p with peer := if assigned then some k.src else (s.link p).peer } := by
  rw [State.learnPeer]
  cases assigned with
  | false => rfl
  | true =>
    rw [if_pos rfl, if_pos rfl]
    exact link_modLink s p _

/-- What a packet of this engine shows does not depend on the peer that a link has learned. -/
theorem learnPeer_hello (s : State) (p : Fin 2) (k : Packet) (assigned : Bool) :
    (s.learnPeer p k assigned).packet 0x02 0 false (helloPayload (s.learnPeer p k assigned) 0 p true) =
      s.packet 0x02 0 false (helloPayload s 0 p true) := by
  rw [State.learnPeer]
  cases assigned with
  | false => rfl
  | true => rfl

theorem linkUpCheck_waits {s : State} {p : Nat} (h : (s.link p).ackSent = false ∨ (s.link p).ackRcvd = false) : s.linkUpCheck p = s := by
  rw [State.linkUpCheck]
  exact if_neg (by rcases h with h | h <;> simp [h])

/-- A link with both acknowledgements is UP. -/
theorem linkUpCheck_up {s : State} {p : Fin 2} (hst : (s.link p).st = .bringup) (hs : (s.link p).ackSent = true)
    (hr : (s.link p).ackRcvd = true) : Queued { s.link p with st := .up, misses := 0, rxSince := true, lastTx := s.time, checkAt := s.time }
      ((s.linkUpCheck p).link p) := by
  rw [State.linkUpCheck]
  dsimp only
  rw [if_pos (by rw [hst, hs, hr]; rfl)]
  refine Queued.trans ?_ (linksQueued_topoIfChanged _ p)
  refine Queued.trans ?_ (linksQueued_enqueue _ p _ p)
  rw [link_modLink]
  exact .refl _

/-- A link in bring-up that has answered a DISCOVER. -/
structure Answering (s : State) (p : Fin 2) (b : Link) : Prop where
  ackSent : b.ackSent = true
  granted : b.granted = true
  peer : b.peer = (s.link p).peer
  st : b.st = if (s.link p).ackRcvd then .up else .bringup
  seqTx : b.seqTx = (s.link p).seqTx
  seqRx : b.seqRx = (s.link p).seqRx
  answer : (s.link p).queue ≠ [] → s.packet 0x02 0 false (helloPayload s 0 p true) ∈ b.queue.getD 0 []

theorem sendHello_ack (s : State) (p : Nat) : s.sendHello p 0 true =
    s.modLink p (fun l => { l with queue := modAt l.queue 0 (fun q => q ++ [s.packet 0x02 0 false (helloPayload s 0 p true)]) }) := by
  have htype : (s.packet 0x02 0 false (helloPayload s 0 p true)).type = 0x02 := packet_type s (by decide) _ _ _
  have hlane : laneOf (s.packet 0x02 0 false (helloPayload s 0 p true)).type = 0 := by
    rw [htype]
    rfl
  rw [State.sendHello, if_pos rfl, State.enqueue, hlane]

theorem answerDiscover_link {s : State} {p : Fin 2} (hst : (s.link p).st = .bringup) : Answering s p ((s.answerDiscover p).link p) := by
  rw [State.answerDiscover, sendHello_ack]
  have hin : (s.link p).queue ≠ [] → s.packet 0x02 0 false (helloPayload s 0 p true) ∈
      (modAt (s.link p).queue 0 (fun q => q ++ [s.packet 0x02 0 false (helloPayload s 0 p true)])).getD 0 [] := fun hne => by
    obtain ⟨q, qs, hq⟩ := List.exists_cons_of_ne_nil hne
    rw [hq]
    simp [modAt]
  have hlink := link_modLink_modLink s p (fun l => { l with queue := modAt l.queue 0 (fun q => q ++
    [s.packet 0x02 0 false (helloPayload s 0 p true)]) }) (fun l => { l with ackSent := true, granted := true })
  generalize (s.modLink p (fun l => { l with queue := modAt l.queue 0 (fun q => q ++
    [s.packet 0x02 0 false (helloPayload s 0 p true)]) })).modLink p (fun l => { l with ackSent := true, granted := true }) = u at hlink
  cases hr : (s.link p).ackRcvd with
  | false =>
    rw [linkUpCheck_waits (.inr (by rw [hlink]; exact hr)), hlink]
    exact ⟨rfl, rfl, rfl, by rw [hr]; exact hst, rfl, rfl, hin⟩
  | true =>
    have hq := linkUpCheck_up (s := u) (p := p) (by rw [hlink]; exact hst) (by rw [hlink]) (by rw [hlink]; exact hr)
    rw [hlink] at hq
    obtain ⟨fst, fpeer, ftx, frx, -, fsent, -, fgranted, -, -⟩ := hq.fields
    exact ⟨fsent, fgranted, fpeer, by rw [hr]; exact fst, ftx, frx, fun hne => hq.stays 0 _ (hin hne)⟩

section
variable {s : State} {p : Fin 2} {k : Packet}

theorem takeHello_other (hk : field (leVal k.payload) 0 8 ≠ 0) : s.takeHello p k = s.learnPeer p k (bit (leVal k.payload) 8) := by
  rw [State.takeHello]
  exact if_pos hk

theorem takeHello_old (hk : field (leVal k.payload) 0 8 = 0) (hm : majorOk (leVal k.payload) = false) :
    s.takeHello p k = (s.learnPeer p k (bit (leVal k.payload) 8)).post 0x0203 1 7 p (field (leVal k.payload) 32 24) 0 := by
  rw [State.takeHello]
  exact (if_neg (not_not_intro hk)).trans (if_pos (by rw [hm]; rfl))

theorem takeHello_discover (hk : field (leVal k.payload) 0 8 = 0) (hm : majorOk (leVal k.payload) = true) :
    s.takeHello p k = (s.learnPeer p k (bit (leVal k.payload) 8)).answerDiscover p := by
  rw [State.takeHello]
  exact (if_neg (not_not_intro hk)).trans (if_neg (by rw [hm]; decide))

end

/-- A link that a DISCOVER resets is in bring-up, with its own SEQ from 0 and the peer's going on from the DISCOVER. -/
theorem linkReset_link (s : State) (p : Fin 2) {k : Packet} (hr : restarts k = true) : ((s.linkReset p k).link p).st = .bringup ∧
    ((s.linkReset p k).link p).seqTx = [0, 0, 0] ∧ ((s.linkReset p k).link p).seqRx = [(k.seq + 1) % 4096, 0, 0] := by
  have hkind : field (leVal k.payload) 0 8 = 0 := by
    rw [restarts, Bool.and_eq_true] at hr
    exact of_decide_eq_true hr.2
  rw [State.linkReset]
  have hlink := link_modLink (((s.post 0x0204 1 7 p 0 0).modFabric (fun f =>
    { f with held := f.held.filter (fun h => decide (h.via ≠ .link p)) })).startBringup p) p
    (fun l => { l with seqRx := modAt l.seqRx 0 (fun _ => (k.seq + 1) % 4096), rxSince := true })
  rw [startBringup_link] at hlink
  generalize State.modLink (State.startBringup _ _) _ _ = u at hlink ⊢
  have hst : (u.link p).st = .bringup := by rw [hlink]; rfl
  have htx : (u.link p).seqTx = [0, 0, 0] := by rw [hlink]; rfl
  have hrx : (u.link p).seqRx = [(k.seq + 1) % 4096, 0, 0] := by rw [hlink]; rfl
  have hack : (u.link p).ackRcvd = false := by rw [hlink]; rfl
  clear hlink
  have hpeer := learnPeer_link u p k (bit (leVal k.payload) 8)
  obtain ⟨fst, -, ftx, frx, -⟩ := (linksQueued_topoIfChanged (u.takeHello p k) p).fields
  rw [fst, ftx, frx]
  cases hm : majorOk (leVal k.payload) with
  | false =>
    rw [takeHello_old hkind hm]
    have hlink : ((u.learnPeer p k (bit (leVal k.payload) 8)).post 0x0203 1 7 p (field (leVal k.payload) 32 24) 0).link p = _ := hpeer
    rw [hlink]
    exact ⟨hst, htx, hrx⟩
  | true =>
    rw [takeHello_discover hkind hm]
    have hans := answerDiscover_link (s := u.learnPeer p k (bit (leVal k.payload) 8)) (p := p) (by rw [hpeer]; exact hst)
    refine ⟨hans.st.trans ?_, hans.seqTx.trans ?_, hans.seqRx.trans ?_⟩
    · rw [hpeer]
      exact if_neg (by rw [hack]; decide)
    · rw [hpeer]
      exact htx
    · rw [hpeer]
      exact hrx

end Sys2Proof.Machine
end

section
/-! Proof of O49, the packets of the link itself: HELLO, HELLO_ACK and TOPO in order (R260, R261). -/

namespace Sys2Proof.Machine

open Sys2Proof.Bits

/-! ### What a link shows with a packet taken -/

theorem takeCredits_link (s : State) (p : Fin 2) (k : Packet) : ∃ c, (s.takeCredits p k).link p = { s.link p with credits := c } :=
  ⟨_, link_modLink s p _⟩

theorem heard_link (s : State) (p : Fin 2) (k : Packet) : ∃ sr c, (s.heard p k).link p = { s.link p with
    rxSince := true, seqRx := sr, credits := c } := by
  obtain ⟨c, h⟩ := takeCredits_link ((s.modLink p (fun l => { l with rxSince := true })).modLink p (fun l =>
    { l with seqRx := modAt l.seqRx 0 (fun x => (x + 1) % 4096) })) p k
  rw [link_modLink_modLink] at h
  exact ⟨_, _, h⟩

theorem received_link (s : State) (p : Fin 2) (k : Packet) : ∃ sr ib c, (s.received p k).link p = { s.link p with
    rxSince := true, seqRx := sr, inBuf := ib, credits := c } := by
  obtain ⟨c, h⟩ := takeCredits_link (((s.modLink p (fun l => { l with rxSince := true })).modLink p (fun l =>
    { l with seqRx := modAt l.seqRx (laneOf k.type) (fun x => (x + 1) % 4096) })).modLink p (fun l =>
    { l with inBuf := modAt l.inBuf (laneOf k.type) (fun x => x + k.cost) })) p k
  rw [link_modLink, link_modLink_modLink] at h
  exact ⟨_, _, _, h⟩

/-! ### Packets of the link in order -/

theorem arrive_of_type {s : State} {p type : Nat} {k : Packet} (relay : State → Packet → State) (hp : s.present 2 = true) (ht : k.type = type) :
    s.arrive relay p type k = State.receive relay s p k :=
  when_of_true (by rw [hp, decide_eq_true ht]; rfl) _ s

theorem rows2_local {s : State} {p : Nat} {k : Packet} {relay : State → Packet → State} (hh : badHead k = false) (hb : badPayload k = false)
    (hl : linkLocal k.type = true) : State.rows2 relay s (.link p) k = (s.takeLocal p k).leave (.link p) k := by
  rw [State.rows2, hh, hb, hl, Bool.not_true, Bool.and_false]
  rfl

theorem takeLocal_hello {s : State} {p : Nat} {k : Packet} (ht : k.type = 0x01) : s.takeLocal p k = (s.takeHello p k).topoIfChanged := by
  unfold State.takeLocal
  rw [ht]
  rfl

theorem takeLocal_helloAck {s : State} {p : Nat} {k : Packet} (ht : k.type = 0x02) : s.takeLocal p k = (s.takeHelloAck p k).topoIfChanged := by
  unfold State.takeLocal
  rw [ht]
  rfl

theorem takeLocal_topo {s : State} {p : Nat} {k : Packet} (ht : k.type = 0x03) : s.takeLocal p k = s.takeTopo p k := by
  unfold State.takeLocal
  rw [ht]
  rfl

/-! ### What TOPO and a learned peer leave of the mailbox port -/

theorem topoIfChanged_smp (s : State) : s.topoIfChanged.smp = s.smp := by
  obtain ⟨f, h⟩ := topoIfChanged_writes s
  rw [h]

theorem learnPeer_smp (s : State) (p : Nat) (k : Packet) (assigned : Bool) :
    (s.learnPeer p k assigned).smp = s.smp ∧ (s.learnPeer p k assigned).time = s.time := by
  rw [State.learnPeer]
  split
  · exact ⟨rfl, rfl⟩
  · exact ⟨rfl, rfl⟩

theorem heard_smp (s : State) (p : Nat) (k : Packet) : (s.heard p k).smp = s.smp ∧ (s.heard p k).time = s.time := by
  rw [State.heard, State.takeCredits, State.modLink_smp, State.modLink_smp, State.modLink_smp, State.modLink_time, State.modLink_time,
    State.modLink_time]
  exact ⟨rfl, rfl⟩

theorem post_smp_congr {s u : State} (h : u.smp = s.smp) (ht : u.time = s.time) (code cat cls a0 a1 a2 : Nat) :
    (u.post code cat cls a0 a1 a2).smp = (s.post code cat cls a0 a1 a2).smp := by
  rw [State.post, State.post, h, ht]

/-- A HELLO in bring-up resets nothing. -/
theorem bringup_stays {s : State} {p : Nat} {k : Packet} (hst : (s.link p).st = .bringup) :
    ¬ ((s.link p).st = .up ∧ restarts k = true) := fun hr => by
  rw [hst] at hr
  cases hr.1

/-- A link with the TOPO of its neighbour taken at a time. -/
def Link.told (k : Packet) (now : Nat) (l : Link) : Link :=
  { l with topo := some k.payload, topoAt := now, peer := if bit (leVal k.payload) 20 then some (field (leVal k.payload) 0 20) else l.peer }

theorem takeTopo_told (s : State) (p : Nat) (k : Packet) : s.takeTopo p k = (s.modLink p (Link.told k s.time)).topoIfChanged := by
  rw [State.takeTopo]
  rfl

theorem received_time (s : State) (p : Nat) (k : Packet) : (s.received p k).time = s.time := by
  rw [State.received, State.takeCredits, State.modLink_time, State.modLink_time, State.modLink_time, State.modLink_time]

section
variable {s : State} {p : Fin 2} {k : Packet} (h : Arrives s p k)
include h

theorem Arrives.receive_free (ht : k.type = 0x01 ∨ k.type = 0x02) (hr : ¬ ((s.link p).st = .up ∧ restarts k = true)) :
    State.receive noRelay s p k = (s.heard p k).takeLocal p k := by
  obtain ⟨-, -, hup, hcrc, hd, -, hh, hb⟩ := h
  have hlane : laneOf k.type = 0 := by rcases ht with ht | ht <;> rw [ht] <;> rfl
  have hfree : (decide (k.type = 0x01) || decide (k.type = 0x02)) = true := by simpa using ht
  have hlocal : linkLocal k.type = true := by rcases ht with ht | ht <;> rw [ht] <;> rfl
  rw [receive_inOrder hup hcrc hr (hlane ▸ hd), hfree, Bool.not_true, Bool.false_and, if_neg Bool.false_ne_true, State.buffered, if_pos hfree, hlane,
    rows2_local hh hb hlocal]
  exact if_pos ht

theorem Arrives.receive_topo (ht : k.type = 0x03) :
    State.receive noRelay s p k = ((s.received p k).takeTopo p k).leave (.link p) k := by
  obtain ⟨-, -, hup, hcrc, hd, hroom, hh, hb⟩ := h
  have hlane : laneOf k.type = 0 := by rw [ht]; rfl
  have hfree : (decide (k.type = 0x01) || decide (k.type = 0x02)) = false := by rw [ht]; rfl
  have hr : ¬ ((s.link p).st = .up ∧ restarts k = true) := fun hr => by
    have hres := hr.2
    rw [restarts, ht] at hres
    cases hres
  have hfits : ¬ (if (s.link p).granted then laneGrant.getD 0 0 else 0) < (s.link p).inBuf.getD 0 0 + (s.link p).owed.getD 0 0 + k.cost :=
    Nat.not_lt.mpr (hroom ht)
  rw [receive_inOrder hup hcrc hr (hlane ▸ hd), hfree, hlane, decide_eq_false hfits, if_neg (by decide), State.buffered,
    if_neg (Bool.eq_false_iff.mp hfree), rows2_local hh hb (by rw [ht]; rfl), State.received, hlane, takeLocal_topo ht]
  rfl

theorem Arrives.exec_hello (ht : k.type = 0x01) : exec (.hello p k) s = .next (s.hold (State.receive noRelay s p k)) := by
  change execHello p k s = _
  rw [execHello, onLink_awake s p _ h.1, arrive_of_type noRelay h.2.1 ht]

theorem Arrives.exec_helloAck (ht : k.type = 0x02) : exec (.helloAck p k) s = .next (s.hold (State.receive noRelay s p k)) := by
  change execHelloAck p k s = _
  rw [execHelloAck, onLink_awake s p _ h.1, arrive_of_type noRelay h.2.1 ht]

theorem Arrives.exec_topo (ht : k.type = 0x03) : exec (.topo p k) s = .next (s.hold (State.receive noRelay s p k)) := by
  change execTopo p k s = _
  rw [execTopo, onLink_awake s p _ h.1, arrive_of_type noRelay h.2.1 ht]

/-! ### HELLO -/

theorem Arrives.hello_resets (ht : k.type = 0x01) (hst : (s.link p).st = .up) (hr : restarts k = true) :
    exec (.hello p k) s = .next (s.hold ((s.got p).linkReset p k)) := by
  rw [h.exec_hello ht, receive_resets h.2.2.1 h.2.2.2.1 ⟨hst, hr⟩]

/-- A HELLO that does not reset an UP link is taken. -/
theorem Arrives.hello_taken (ht : k.type = 0x01) (hr : ¬ ((s.link p).st = .up ∧ restarts k = true)) :
    exec (.hello p k) s = .next (s.hold ((s.heard p k).takeHello p k).topoIfChanged) := by
  rw [h.exec_hello ht, h.receive_free (.inl ht) hr, takeLocal_hello ht]

theorem Arrives.hello_other (ht : k.type = 0x01) (hst : (s.link p).st = .up) (hk : field (leVal k.payload) 0 8 ≠ 0) : ∃ t,
    exec (.hello p k) s = .next t ∧ (t.link p).st = .up ∧ (t.link p).peer = if bit (leVal k.payload) 8 then some k.src else (s.link p).peer := by
  have hr : ¬ ((s.link p).st = .up ∧ restarts k = true) := fun hr => hk (by
    have hres := hr.2
    rw [restarts, Bool.and_eq_true] at hres
    exact of_decide_eq_true hres.2)
  refine ⟨_, h.hello_taken ht hr, ?_⟩
  obtain ⟨fst, fpeer, -⟩ := (linksQueued_topoIfChanged ((s.heard p k).takeHello p k) p).fields
  obtain ⟨sr, c, hheard⟩ := heard_link s p k
  have hlearn := learnPeer_link (s.heard p k) p k (bit (leVal k.payload) 8)
  rw [hheard] at hlearn
  have hlink := (congrArg (fun u : State => u.link p) (takeHello_other (s := s.heard p k) (p := p) hk)).trans hlearn
  dsimp only at hlink
  rw [hlink] at fst fpeer
  exact ⟨(fst.trans hst :), fpeer⟩

theorem Arrives.hello_discover (ht : k.type = 0x01) (hst : (s.link p).st = .bringup) (hq : (s.link p).queue.length = 3)
    (hk : field (leVal k.payload) 0 8 = 0) (hm : majorOk (leVal k.payload) = true) : ∃ t, exec (.hello p k) s = .next t ∧
      (t.link p).peer = (if bit (leVal k.payload) 8 then some k.src else (s.link p).peer) ∧ (t.link p).ackSent = true ∧
      (t.link p).granted = true ∧
      (s.heard p k).packet 0x02 0 false (helloPayload (s.heard p k) 0 p true) ∈ (t.link p).queue.getD 0 [] ∧
      (t.link p).st = if (s.link p).ackRcvd then .up else .bringup := by
  refine ⟨_, h.hello_taken ht (bringup_stays hst), ?_⟩
  have hqueued := linksQueued_topoIfChanged ((s.heard p k).takeHello p k) p
  obtain ⟨fst, fpeer, -, -, -, fsent, -, fgranted, -⟩ := hqueued.fields
  obtain ⟨sr, c, hheard⟩ := heard_link s p k
  have hlearn := learnPeer_link (s.heard p k) p k (bit (leVal k.payload) 8)
  rw [hheard] at hlearn
  have hans := answerDiscover_link (s := (s.heard p k).learnPeer p k (bit (leVal k.payload) 8)) (p := p) (by rw [hlearn]; exact hst)
  have hin := hans.answer (by rw [hlearn]; exact fun hnil => by rw [show (s.link p).queue = [] from hnil] at hq; cases hq)
  have hpeer := hans.peer
  have hup := hans.st
  rw [learnPeer_hello] at hin
  rw [hlearn] at hpeer hup
  rw [← takeHello_discover hk hm] at hans hin hpeer hup
  exact ⟨fpeer.trans hpeer, fsent.trans hans.ackSent, fgranted.trans hans.granted, hqueued.stays 0 _ hin, fst.trans hup⟩

theorem Arrives.hello_old (ht : k.type = 0x01) (hst : (s.link p).st = .bringup) (hk : field (leVal k.payload) 0 8 = 0)
    (hm : majorOk (leVal k.payload) = false) : ∃ t, exec (.hello p k) s = .next t ∧ (t.link p).st = .bringup ∧
      (t.link p).queue.length = (s.link p).queue.length ∧ t.smp = (s.post 0x0203 1 7 p (field (leVal k.payload) 32 24) 0).smp := by
  refine ⟨_, h.hello_taken ht (bringup_stays hst), ?_⟩
  have hqueued := linksQueued_topoIfChanged ((s.heard p k).takeHello p k) p
  have hlanes := hqueued.lanes
  obtain ⟨fst, -⟩ := hqueued.fields
  obtain ⟨sr, c, hheard⟩ := heard_link s p k
  have hlearn := learnPeer_link (s.heard p k) p k (bit (leVal k.payload) 8)
  rw [hheard] at hlearn
  have hlink : ((s.heard p k).takeHello p k).link p = ((s.heard p k).learnPeer p k (bit (leVal k.payload) 8)).link p := by
    rw [takeHello_old hk hm]
    rfl
  have hsmp : ((s.heard p k).takeHello p k).smp = (s.post 0x0203 1 7 p (field (leVal k.payload) 32 24) 0).smp := by
    obtain ⟨hs, ht⟩ := learnPeer_smp (s.heard p k) p k (bit (leVal k.payload) 8)
    rw [takeHello_old hk hm]
    exact post_smp_congr (hs.trans (heard_smp s p k).1) (ht.trans (heard_smp s p k).2) _ _ _ _ _ _
  rw [hlink, hlearn] at fst hlanes
  exact ⟨(fst.trans hst :), hlanes, (topoIfChanged_smp _).trans hsmp⟩

/-! ### HELLO_ACK -/

theorem Arrives.helloAck_taken (ht : k.type = 0x02) :
    exec (.helloAck p k) s = .next (s.hold ((s.heard p k).takeHelloAck p k).topoIfChanged) := by
  have hr : ¬ ((s.link p).st = .up ∧ restarts k = true) := fun hr => by
    have hres := hr.2
    rw [restarts, ht] at hres
    cases hres
  rw [h.exec_helloAck ht, h.receive_free (.inr ht) hr, takeLocal_helloAck ht]

theorem Arrives.helloAck_first (ht : k.type = 0x02) (hst : (s.link p).st = .bringup) (hack : (s.link p).ackRcvd = false)
    (hm : majorOk (leVal k.payload) = true) : ∃ t, exec (.helloAck p k) s = .next t ∧
      (t.link p).peer = (if bit (leVal k.payload) 8 then some k.src else (s.link p).peer) ∧ (t.link p).ackRcvd = true ∧
      (t.link p).credits = [field (leVal k.payload) 96 16, field (leVal k.payload) 112 16, field (leVal k.payload) 128 16] ∧
      (t.link p).st = if (s.link p).ackSent then .up else .bringup := by
  refine ⟨_, h.helloAck_taken ht, ?_⟩
  obtain ⟨fst, fpeer, -, -, fcredits, -, frcvd, -⟩ := (linksQueued_topoIfChanged ((s.heard p k).takeHelloAck p k) p).fields
  obtain ⟨sr, c, hheard⟩ := heard_link s p k
  have hlearn := learnPeer_link (s.heard p k) p k (bit (leVal k.payload) 8)
  rw [hheard] at hlearn
  have htake : (s.heard p k).takeHelloAck p k = (((s.heard p k).learnPeer p k (bit (leVal k.payload) 8)).modLink p (fun l => { l with
      ackRcvd := true, credits := [field (leVal k.payload) 96 16, field (leVal k.payload) 112 16, field (leVal k.payload) 128 16] })).linkUpCheck p := by
    rw [State.takeHelloAck]
    refine (if_neg (by rw [hm]; decide)).trans (if_pos ?_)
    rw [hlearn, Bool.and_eq_true]
    exact ⟨decide_eq_true hst, by rw [show _ = false from hack]; rfl⟩
  have hlink := link_modLink ((s.heard p k).learnPeer p k (bit (leVal k.payload) 8)) p (fun l => { l with
    ackRcvd := true, credits := [field (leVal k.payload) 96 16, field (leVal k.payload) 112 16, field (leVal k.payload) 128 16] })
  rw [hlearn] at hlink
  change (((s.heard p k).takeHelloAck p k).topoIfChanged.link p).peer = _ ∧ (((s.heard p k).takeHelloAck p k).topoIfChanged.link p).ackRcvd = _ ∧
    (((s.heard p k).takeHelloAck p k).topoIfChanged.link p).credits = _ ∧ (((s.heard p k).takeHelloAck p k).topoIfChanged.link p).st = _
  rw [fst, fpeer, fcredits, frcvd, htake]
  generalize State.modLink (State.learnPeer _ _ _ _) _ _ = u at hlink ⊢
  cases hsent : (s.link p).ackSent with
  | false =>
    rw [linkUpCheck_waits (.inl (by rw [hlink]; exact hsent)), hlink]
    exact ⟨rfl, rfl, rfl, hst⟩
  | true =>
    have hup := linkUpCheck_up (s := u) (p := p) (by rw [hlink]; exact hst) (by rw [hlink]; exact hsent) (by rw [hlink])
    rw [hlink] at hup
    obtain ⟨gst, gpeer, -, -, gcredits, -, grcvd, -⟩ := hup.fields
    exact ⟨gpeer, grcvd, gcredits, gst⟩

theorem Arrives.helloAck_again (ht : k.type = 0x02) (hm : majorOk (leVal k.payload) = true)
    (hno : (s.link p).st = .up ∨ (s.link p).ackRcvd = true) : ∃ t, exec (.helloAck p k) s = .next t ∧ (t.link p).st = (s.link p).st ∧
      (t.link p).peer = (if bit (leVal k.payload) 8 then some k.src else (s.link p).peer) ∧
      (t.link p).credits = ((s.heard p k).link p).credits := by
  refine ⟨_, h.helloAck_taken ht, ?_⟩
  obtain ⟨fst, fpeer, -, -, fcredits, -⟩ := (linksQueued_topoIfChanged ((s.heard p k).takeHelloAck p k) p).fields
  obtain ⟨sr, c, hheard⟩ := heard_link s p k
  have hlearn := learnPeer_link (s.heard p k) p k (bit (leVal k.payload) 8)
  have htake : (s.heard p k).takeHelloAck p k = (s.heard p k).learnPeer p k (bit (leVal k.payload) 8) := by
    rw [State.takeHelloAck]
    refine (if_neg (by rw [hm]; decide)).trans (if_neg ?_)
    rw [hlearn, hheard]
    rcases hno with hno | hno
    · simp [hno]
    · simp [hno]
  have hlink := (congrArg (fun u : State => u.link p) htake).trans hlearn
  dsimp only at hlink
  rw [hlink, hheard] at fst fpeer fcredits
  rw [hheard]
  exact ⟨fst, fpeer, fcredits⟩

/-! ### TOPO -/

theorem Arrives.topo_kept (ht : k.type = 0x03) : ∃ t, exec (.topo p k) s = .next t ∧ (t.link p).topo = some k.payload ∧
    (t.link p).topoAt = s.time ∧ (t.link p).st = (s.link p).st ∧
    (t.link p).peer = (if bit (leVal k.payload) 20 then some (field (leVal k.payload) 0 20) else (s.link p).peer) := by
  refine ⟨_, h.exec_topo ht, ?_⟩
  rw [h.receive_topo ht]
  obtain ⟨sr, ib, c, hrec⟩ := received_link s p k
  have hlink := link_modLink (s.received p k) p (Link.told k s.time)
  rw [hrec] at hlink
  obtain ⟨fst, fpeer, -, -, -, -, -, -, ftopo, fat⟩ := (linksQueued_topoIfChanged ((s.received p k).modLink p (Link.told k s.time)) p).fields
  rw [hlink] at fst fpeer ftopo fat
  have hleave : ∀ u : State, ((s.hold (u.leave (.link p) k)).link p).st = (u.link p).st ∧ ((s.hold (u.leave (.link p) k)).link p).peer = (u.link p).peer ∧
      ((s.hold (u.leave (.link p) k)).link p).topo = (u.link p).topo ∧ ((s.hold (u.leave (.link p) k)).link p).topoAt = (u.link p).topoAt := fun u => by
    change ((u.leave (.link p) k).link p).st = _ ∧ ((u.leave (.link p) k).link p).peer = _ ∧ ((u.leave (.link p) k).link p).topo = _ ∧
      ((u.leave (.link p) k).link p).topoAt = _
    rw [State.leave]
    dsimp only
    rw [if_neg (by rw [ht]; decide), link_modLink]
    exact ⟨rfl, rfl, rfl, rfl⟩
  obtain ⟨gst, gpeer, gtopo, gat⟩ := hleave ((s.received p k).takeTopo p k)
  rw [gst, gpeer, gtopo, gat, takeTopo_told, received_time]
  exact ⟨ftopo, fat, fst, fpeer⟩

end

/-- Settles O49. -/
theorem packetArrival : Obligations.PacketArrival := by
  refine ⟨fun s p k relay hs => ⟨receive_idle, fun hup => ⟨fun hcrc => ⟨_, receive_badCrc hup hcrc, dropped_link s p 1 0x0501 k⟩,
      fun hcrc hr hd => ⟨_, receive_again hup hcrc hr hd, (dropped_link s p 9 0 k).1, (dropped_link s p 9 0 k).2.1⟩,
      fun hcrc hr h1 h2 => receive_gap hup hcrc hr h1 h2, fun hcrc hd hfree hroom => ?_,
      fun hcrc hr => ⟨receive_resets hup hcrc hr, linkReset_link (s.got p) p hr.2⟩⟩⟩,
    fun s p k h => ⟨h.hello_resets, h.hello_other, h.hello_discover, h.hello_old, h.helloAck_first, h.helloAck_again, h.topo_kept⟩⟩
  have hr : ¬ ((s.link p).st = .up ∧ restarts k = true) := fun hr => hfree (.inl (by
    have hres := hr.2
    rw [restarts, Bool.and_eq_true, Bool.and_eq_true, Bool.and_eq_true] at hres
    exact of_decide_eq_true hres.1.1.1))
  have hpays : (!(decide (k.type = 0x01) || decide (k.type = 0x02))) = true := by simpa using hfree
  rw [receive_inOrder hup hcrc hr hd, hpays, Bool.true_and, if_pos (decide_eq_true hroom)]
  rfl

end Sys2Proof.Machine
end

section
/-! Proof of O50: the delivery of packets by their types, and what delivery does (R146, R263 to R265, R268, R270, R278, R279, R284). -/

namespace Sys2Proof.Machine

open Sys2Proof.Bits

/-! ### Packets that come in order from a member -/

/-- Two states that differ in their links alone. -/
def LinksOnly (s t : State) : Prop := ∃ ls, t = { s with fabric := { s.fabric with links := ls } }

theorem LinksOnly.trans {s t u : State} (h : LinksOnly s t) (h' : LinksOnly t u) : LinksOnly s u := by
  obtain ⟨ls, rfl⟩ := h
  obtain ⟨ls', rfl⟩ := h'
  exact ⟨ls', rfl⟩

theorem linksOnly_modLink (s : State) (p : Nat) (f : Link → Link) : LinksOnly s (s.modLink p f) := ⟨_, rfl⟩

theorem linksOnly_received (s : State) (p : Nat) (k : Packet) : LinksOnly s (s.received p k) := by
  rw [State.received, State.takeCredits]
  exact (((linksOnly_modLink s p _).trans (linksOnly_modLink _ p _)).trans (linksOnly_modLink _ p _)).trans (linksOnly_modLink _ p _)

/-- Whether a chunk waits in its buffer does not depend on the links. -/
theorem LinksOnly.contribEarly {s t : State} (h : LinksOnly s t) (k : Packet) : t.contribEarly k = s.contribEarly k := by
  obtain ⟨ls, rfl⟩ := h
  rfl

theorem contribEarly_of_type {s : State} {k : Packet} (ht : k.type ≠ 0x06) : s.contribEarly k = false := by
  rw [State.contribEarly, decide_eq_false ht]
  rfl

section
variable {s : State} {p : Fin 2} {k : Packet} (h : Deliverable s p k)
include h

theorem Deliverable.receive (relay : State → Packet → State) (ht : 0x04 ≤ k.type) :
    State.receive relay s p k = State.rows5 relay (s.received p k) (.link p) k := by
  obtain ⟨-, -, hup, hcrc, hd, hroom, hh, hb, hassigned, -⟩ := h
  have hfree : (decide (k.type = 0x01) || decide (k.type = 0x02)) = false := by
    rw [decide_eq_false (by omega), decide_eq_false (by omega)]
    rfl
  have hlocal : linkLocal k.type = false := by
    rw [linkLocal, decide_eq_false (by omega), decide_eq_false (by omega), decide_eq_false (by omega)]
    rfl
  have hr : ¬ ((s.link p).st = .up ∧ restarts k = true) := fun hr => by
    have hres := hr.2
    rw [restarts, decide_eq_false (by omega)] at hres
    cases hres
  have hsame : (((s.got p).modLink p (fun l => { l with seqRx := modAt l.seqRx (laneOf k.type) (fun x => (x + 1) % 4096) })).buffered p k).takeCredits p k =
      s.received p k := by
    rw [State.buffered, if_neg (Bool.eq_false_iff.mp hfree)]
    rfl
  obtain ⟨ls, hrec⟩ := linksOnly_received s p k
  rw [receive_inOrder hup hcrc hr hd, hfree, decide_eq_false (Nat.not_lt.mpr hroom), if_neg (by decide), hsame, State.rows2, hh, hb, hlocal]
  have ha : (s.received p k).fabric.assigned = true := by rw [hrec]; exact hassigned
  rw [ha]
  rfl

theorem Deliverable.rows5_relay (relay : State → Packet → State) (ht : k.type = 0x0A) :
    State.rows5 relay (s.received p k) (.link p) k = (relay (s.received p k) k).leave (.link p) k := by
  obtain ⟨-, -, -, -, -, -, -, -, -, hfence, hdst, -⟩ := h
  obtain ⟨ls, hrec⟩ := linksOnly_received s p k
  rw [State.rows5, if_neg (by rw [hrec]; exact Bool.eq_false_iff.mp hfence), if_neg (by rw [hrec]; exact not_not_intro hdst), if_pos ht]

theorem Deliverable.rows5_type (relay : State → Packet → State) (ht : k.type ≠ 0x0A) (hearly : s.contribEarly k = false) :
    State.rows5 relay (s.received p k) (.link p) k = ((s.received p k).deliverType (.link p) k none).leave (.link p) k := by
  obtain ⟨-, -, -, -, -, -, -, -, -, hfence, hdst, hepoch, hmem⟩ := h
  have he := ((linksOnly_received s p k).contribEarly k).trans hearly
  obtain ⟨ls, hrec⟩ := linksOnly_received s p k
  have hep : (s.received p k).fabric.epoch = s.fabric.epoch := by rw [hrec]
  have hmb : (s.received p k).fabric.members = s.fabric.members := by rw [hrec]
  rw [State.rows5, if_neg (by rw [hrec]; exact Bool.eq_false_iff.mp hfence), if_neg (by rw [hrec]; exact not_not_intro hdst), if_neg ht,
    State.rows9, hep, if_neg (by omega), if_neg (by omega), State.rows11, hmb, hmem, he]
  rfl

/-- A packet of a type, delivered. -/
theorem Deliverable.delivered (relay : State → Packet → State) {type : Nat} (ht : k.type = type) (h4 : 0x04 ≤ type) (ha : type ≠ 0x0A)
    (hearly : s.contribEarly k = false) : onLink s p (fun s => s.arrive relay p type k) =
      .next (s.hold (((s.received p k).deliverType (.link p) k none).leave (.link p) k)) := by
  rw [onLink_awake s p _ h.1, arrive_of_type relay h.2.1 ht, h.receive relay (by omega), h.rows5_type relay (by omega) hearly]

theorem Deliverable.relayed (ht : k.type = 0x0A) :
    exec (.mbxRelay p k) s = .next (s.hold (((s.received p k).relay k).leave (.link p) k)) := by
  change execMbxRelay p k s = _
  rw [execMbxRelay, onLink_awake s p _ h.1, arrive_of_type _ h.2.1 ht, h.receive _ (by omega), h.rows5_relay _ ht]

end

theorem deliverType_eq (s : State) (v : Via) (k : Packet) (held : Option Nat) :
    (k.type = 0x04 → s.deliverType v k held = s.takeScalar true k) ∧ (k.type = 0x05 → s.deliverType v k held = s.takeScalar false k) ∧
      (k.type = 0x06 → s.deliverType v k held = s.takeContrib v k held) ∧ (k.type = 0x07 → s.deliverType v k held = s.takeFlacon k) ∧
      (k.type = 0x08 → s.deliverType v k held = s.takeFlaconAck k) ∧ (k.type = 0x09 → s.deliverType v k held = s.takeRestore k) ∧
      (k.type = 0x0B → s.deliverType v k held = s.takeNotice k) := by
  unfold State.deliverType
  refine ⟨fun ht => ?_, fun ht => ?_, fun ht => ?_, fun ht => ?_, fun ht => ?_, fun ht => ?_, fun ht => ?_⟩
  all_goals
    rw [ht]
    rfl

/-- A packet of each type is delivered. -/
theorem Deliverable.byType {s : State} {p : Fin 2} {k : Packet} (h : Deliverable s p k) :
    (k.type = 0x04 → exec (.scalarUp p k) s = .next (s.hold (((s.received p k).takeScalar true k).leave (.link p) k))) ∧
    (k.type = 0x05 → exec (.scalarDown p k) s = .next (s.hold (((s.received p k).takeScalar false k).leave (.link p) k))) ∧
    (k.type = 0x06 → s.contribEarly k = false →
      exec (.contrib p k) s = .next (s.hold (((s.received p k).takeContrib (.link p) k none).leave (.link p) k))) ∧
    (k.type = 0x07 → exec (.flaconData p k) s = .next (s.hold (((s.received p k).takeFlacon k).leave (.link p) k))) ∧
    (k.type = 0x08 → exec (.flaconAck p k) s = .next (s.hold (((s.received p k).takeFlaconAck k).leave (.link p) k))) ∧
    (k.type = 0x09 → exec (.restoreData p k) s = .next (s.hold (((s.received p k).takeRestore k).leave (.link p) k))) ∧
    (k.type = 0x0B → exec (.fenceNotice p k) s = .next (s.hold (((s.received p k).takeNotice k).leave (.link p) k))) ∧
    (k.type = 0x0A → exec (.mbxRelay p k) s = .next (s.hold (((s.received p k).relay k).leave (.link p) k))) := by
  obtain ⟨d4, d5, d6, d7, d8, d9, dB⟩ := deliverType_eq (s.received p k) (.link p) k none
  have hother : k.type ≠ 0x06 → s.contribEarly k = false := contribEarly_of_type
  refine ⟨fun ht => ?_, fun ht => ?_, fun ht he => ?_, fun ht => ?_, fun ht => ?_, fun ht => ?_, fun ht => ?_, h.relayed⟩
  · rw [← d4 ht]
    exact h.delivered noRelay ht (by decide) (by decide) (hother (by omega))
  · rw [← d5 ht]
    exact h.delivered noRelay ht (by decide) (by decide) (hother (by omega))
  · rw [← d6 ht]
    exact h.delivered noRelay ht (by decide) (by decide) he
  · rw [← d7 ht]
    exact h.delivered noRelay ht (by decide) (by decide) (hother (by omega))
  · rw [← d8 ht]
    exact h.delivered noRelay ht (by decide) (by decide) (hother (by omega))
  · rw [← d9 ht]
    exact h.delivered noRelay ht (by decide) (by decide) (hother (by omega))
  · rw [← dB ht]
    exact h.delivered noRelay ht (by decide) (by decide) (hother (by omega))

/-! ### Scalars -/

theorem round_fields (s : State) (kind step group : Nat) :
    (s.round kind step group).kind = kind ∧ (s.round kind step group).step = step ∧ (s.round kind step group).group = group := by
  rw [State.round]
  cases hf : s.fabric.rounds.find? (fun r => decide (r.kind = kind) && decide (r.step = step) && decide (r.group = group)) with
  | none => exact ⟨rfl, rfl, rfl⟩
  | some r =>
    have hr := List.find?_some hf
    rw [Bool.and_eq_true, Bool.and_eq_true] at hr
    exact ⟨of_decide_eq_true hr.1.1, of_decide_eq_true hr.1.2, of_decide_eq_true hr.2⟩

theorem round_putRound (s : State) (r : Round) : (s.putRound r).round r.kind r.step r.group = r := by
  have hrest : (s.fabric.rounds.filter (fun x => !(decide (x.kind = r.kind) && decide (x.step = r.step) && decide (x.group = r.group)))).find?
      (fun x => decide (x.kind = r.kind) && decide (x.step = r.step) && decide (x.group = r.group)) = none :=
    List.find?_eq_none.mpr fun x hx => by
      have hne := (List.mem_filter.mp hx).2
      rw [Bool.not_eq_true'] at hne
      rw [hne]
      exact Bool.false_ne_true
  have hfind : (s.putRound r).fabric.rounds.find? (fun x => decide (x.kind = r.kind) && decide (x.step = r.step) && decide (x.group = r.group)) =
      some r := by
    change List.find? _ (_ ++ [r]) = _
    rw [List.find?_append, hrest]
    simp
  rw [State.round, hfind]
  rfl

theorem roundTry_waits {s : State} {use : State → Round → (Nat × Nat) → Bool → State} {kind step group : Nat}
    (h : (s.round kind step group).own = none) : s.roundTry use kind step group = s := by
  rw [State.roundTry, h]

section
variable {s : State} {use : State → Round → (Nat × Nat) → Bool → State} {kind step group child : Nat} {v : Nat × Nat} {poison : Bool}

/-- A round that a child's value has joined. -/
def Round.join (r : Round) (child : Nat) (v : Nat × Nat) (poison : Bool) : Round :=
  { r with kids := r.kids ++ [(child, v.1, v.2)], poison := r.poison || poison }

theorem roundKid_joins (h : ∀ x ∈ (s.round kind step group).kids, x.1 ≠ child) : s.roundKid use kind step group child v poison =
    (s.putRound ((s.round kind step group).join child v poison)).roundTry use kind step group := by
  rw [State.roundKid]
  exact if_neg (fun hany => by
    obtain ⟨x, hx, hc⟩ := List.any_eq_true.mp hany
    exact h x hx (of_decide_eq_true hc))

theorem roundKid_again (h : ∃ x ∈ (s.round kind step group).kids, x.1 = child) :
    s.roundKid use kind step group child v poison = s.count 4 2 12 1 := by
  obtain ⟨x, hx, hc⟩ := h
  rw [State.roundKid]
  exact if_pos (List.any_eq_true.mpr ⟨x, hx, decide_eq_true hc⟩)

/-- A round that waits for this node's own value only keeps what has joined it. -/
theorem roundTry_joined (h : (s.round kind step group).own = none) :
    (s.putRound ((s.round kind step group).join child v poison)).roundTry use kind step group =
      s.putRound ((s.round kind step group).join child v poison) := by
  refine roundTry_waits ?_
  obtain ⟨hkind, hstep, hgroup⟩ := round_fields s kind step group
  have hround := round_putRound s ((s.round kind step group).join child v poison)
  rw [show ((s.round kind step group).join child v poison).kind = kind from hkind,
    show ((s.round kind step group).join child v poison).step = step from hstep,
    show ((s.round kind step group).join child v poison).group = group from hgroup] at hround
  rw [hround]
  exact h

end

theorem takeScalar_up {s : State} {k : Packet} (h : k.src ∈ s.scalarChildren) : s.takeScalar true k =
    s.roundKid (useRound (field (leVal k.payload) 192 4)) (field (leVal k.payload) 192 4) (field (leVal k.payload) 0 48)
      (if field (leVal k.payload) 192 4 = 1 then field (leVal k.payload) 48 16 else 0) k.src
      (field (leVal k.payload) 64 64, if field (leVal k.payload) 192 4 = 1 then field (leVal k.payload) 128 64 else 0) k.poison := by
  rw [State.takeScalar]
  exact (if_pos rfl).trans (if_pos (List.contains_iff_mem.mpr h))

theorem takeScalar_up_other {s : State} {k : Packet} (h : k.src ∉ s.scalarChildren) : s.takeScalar true k = s := by
  rw [State.takeScalar]
  exact (if_pos rfl).trans (if_neg (fun hc => h (List.contains_iff_mem.mp hc)))

theorem takeScalar_down_other {s : State} {k : Packet} (h : s.scalarParent ≠ some k.src) : s.takeScalar false k = s := by
  rw [State.takeScalar]
  exact (if_neg Bool.false_ne_true).trans (if_neg (by simp [h]))

/-! ### Chunks -/

/-- Two states that agree in the shards' slots, in what their slots have taken before, and in the Formula. -/
structure SameSlots (s t : State) : Prop where
  slot : ∀ i, (t.shard i).slot = (s.shard i).slot
  past : ∀ i, (t.shard i).rcvdPast = (s.shard i).rcvdPast
  form : t.form = s.form

theorem SameSlots.refl (s : State) : SameSlots s s := ⟨fun _ => rfl, fun _ => rfl, rfl⟩

theorem SameSlots.trans {s t u : State} (h : SameSlots s t) (h' : SameSlots t u) : SameSlots s u :=
  ⟨fun i => (h'.slot i).trans (h.slot i), fun i => (h'.past i).trans (h.past i), h'.form.trans h.form⟩

theorem sameSlots_of_shards {s t : State} (h : t.shards = s.shards) (hf : t.form = s.form) : SameSlots s t := by
  refine ⟨fun i => ?_, fun i => ?_, hf⟩
  · rw [State.shard, h, State.shard]
  · rw [State.shard, h, State.shard]

theorem sameSlots_modShard (s : State) (i : Nat) {f : Shard → Shard} (hs : ∀ x, (f x).slot = x.slot) (hp : ∀ x, (f x).rcvdPast = x.rcvdPast) :
    SameSlots s (s.modShard i f) := by
  refine ⟨fun j => ?_, fun j => ?_, rfl⟩
  · rw [shard_modShard]
    split
    · exact hs _
    · rfl
  · rw [shard_modShard]
    split
    · exact hp _
    · rfl

theorem sameSlots_bookArrival (s : State) (i step n : Nat) : SameSlots s (s.bookArrival i step n) := by
  rw [State.bookArrival, State.bookAt]
  split
  · exact .refl s
  · split
    · exact .refl s
    · split
      · exact sameSlots_of_shards rfl rfl
      · split
        · exact sameSlots_of_shards rfl rfl
        · exact .refl s

theorem sameSlots_envelope (s : State) (i step reason : Nat) : SameSlots s (s.envelope i step reason) := by
  rw [State.envelope]
  split
  · exact .refl s
  · exact (sameSlots_modShard s i (f := fun h => { h with envReported := true }) (fun _ => rfl) (fun _ => rfl)).trans (sameSlots_of_shards rfl rfl)

theorem sameSlots_lateArrival (s : State) (i step at' : Nat) : SameSlots s (s.lateArrival i step at') := by
  rw [State.lateArrival]
  split
  · exact .refl s
  · split
    · exact .refl s
    · split
      · exact sameSlots_envelope s i step _
      · exact .refl s

/-- The chunk that a CONTRIB packet brings, of a rank. -/
def chunkOf (k : Packet) (rank : Nat) : Held :=
  { rank := rank, chunk := field (leVal (k.payload.take 16)) 80 12
    fmt := if k.poison then fmtPoison else field (leVal (k.payload.take 16)) 96 8, scale := field (leVal (k.payload.take 16)) 104 8
    codes := if field (leVal (k.payload.take 16)) 96 8 = 0x38 then codes16 (k.payload.drop 16)
      else (chunks 4 (field (leVal (k.payload.take 16)) 112 10 + 1) (k.payload.drop 16)).map leVal }

end Sys2Proof.Machine
end

section
/-! Proof of O50: the chunks of children, Flacon data and acknowledgements, restores, notices and relayed requests (R146, R264, R268,
R278, R279, R284). -/

namespace Sys2Proof.Machine

open Sys2Proof.Bits

/-! ### Chunks -/

/-- The state with an accepted chunk of a step noted: that contributions have come, when the last one came, and one that came late. -/
def State.chunkNoted (s : State) (i step : Nat) : State :=
  ((s.modRun (fun x => { x with
    arrived := x.arrived || decide (step = x.nextStep)
    times := if step = x.lastStep then { x.times with p1 := s.time } else x.times })).noteByte i step s.time).lateArrival i step s.time

theorem sameSlots_noteByte (s : State) (i step at' : Nat) : SameSlots s (s.noteByte i step at') :=
  sameSlots_modShard s i (f := fun h =>
    { h with lastByte := if h.lastByteStep = step then max h.lastByte at' else at', lastByteStep := step }) (fun _ => rfl) (fun _ => rfl)

theorem sameSlots_chunkNoted (s : State) (i step : Nat) : SameSlots s (s.chunkNoted i step) := by
  have hrun : SameSlots s (s.modRun (fun x => { x with
      arrived := x.arrived || decide (step = x.nextStep)
      times := if step = x.lastStep then { x.times with p1 := s.time } else x.times })) := sameSlots_of_shards rfl rfl
  exact (hrun.trans (sameSlots_noteByte _ i step s.time)).trans (sameSlots_lateArrival _ i step s.time)

section
variable {s : State} {via : Via} {k : Packet} {e : ShardEntry} {c : Nat} {t : Slot} {i step j : Nat}
  (hi : i = field (leVal (k.payload.take 16)) 0 32) (hstep : step = field (leVal (k.payload.take 16)) 32 48)
  (hj : j = field (leVal (k.payload.take 16)) 80 12)
  (he : shardEntry s.form i = some e) (hc : (s.childrenOf i).findIdx? (fun x => decide (x = k.src)) = some c)
  (hslot : (s.shard i).slot = some t) (ht : t.step = step) (hfmt : field (leVal (k.payload.take 16)) 96 8 = partialFmt e)
  (hfull : bit (leVal (k.payload.take 16)) 92 = false)
  (hpast : (s.shard i).rcvdPast.contains (step, hostRanks s.form i + c, j) = false) (hempty : t.empties.contains (t.h + c) = false)
include hi hstep hj he hc hslot ht hfmt hfull hpast hempty

theorem takeContrib_again (hr : t.rcvd.contains (t.h + c, j) = true) :
    s.takeContrib via k none = (s.bookArrival i step (32 + k.payload.length)).count 4 via.index 12 1 := by
  have hsame := sameSlots_bookArrival s i step (32 + k.payload.length)
  subst hi hstep hj
  unfold State.takeContrib
  dsimp only
  rw [he, hc, hfull]
  dsimp only
  rw [show (false || (none : Option Nat).isSome) = false from rfl, if_neg Bool.false_ne_true, hsame.past, hsame.form, hpast,
    if_neg Bool.false_ne_true, hsame.slot, hslot]
  dsimp only
  rw [if_neg (not_or.mpr ⟨not_not_intro ht, not_not_intro hfmt⟩), hempty, hr, Bool.or_true, if_pos rfl]

theorem takeContrib_new (hr : t.rcvd.contains (t.h + c, j) = false) (hlt : j < chunkCount e.n)
    (hcnt : field (leVal (k.payload.take 16)) 112 10 = chunkLen e.n j) : s.takeContrib via k none =
      ((((s.bookArrival i step (32 + k.payload.length)).chunkNoted i step).modSlot i
        (fun x => ({ x with rcvd := x.rcvd ++ [(t.h + c, j)] } : Slot).give e.wx (chunkOf k (t.h + c)))).slotCheck i).countTry step := by
  have hsame := sameSlots_bookArrival s i step (32 + k.payload.length)
  subst hi hstep hj
  unfold State.takeContrib
  dsimp only
  rw [he, hc, hfull]
  dsimp only
  rw [show (false || (none : Option Nat).isSome) = false from rfl, if_neg Bool.false_ne_true, hsame.past, hsame.form, hpast,
    if_neg Bool.false_ne_true, hsame.slot, hslot]
  dsimp only
  rw [if_neg (not_or.mpr ⟨not_not_intro ht, not_not_intro hfmt⟩), hempty, hr, Bool.or_false, if_neg Bool.false_ne_true, decide_eq_false (Nat.not_le.mpr hlt),
    decide_eq_false (not_not_intro hcnt), Bool.or_false, Bool.and_false, if_neg Bool.false_ne_true]
  generalize s.bookArrival _ _ _ = u
  rfl

/-- An accepted chunk is given to the fold of its slot. -/
theorem takeContrib_given (hr : t.rcvd.contains (t.h + c, j) = false) (hlt : j < chunkCount e.n)
    (hcnt : field (leVal (k.payload.take 16)) 112 10 = chunkLen e.n j) : ∃ u : State,
      s.takeContrib via k none = (u.slotCheck i).countTry step ∧
        (u.shard i).slot = some (({ t with rcvd := t.rcvd ++ [(t.h + c, j)] } : Slot).give e.wx (chunkOf k (t.h + c))) := by
  refine ⟨_, takeContrib_new hi hstep hj he hc hslot ht hfmt hfull hpast hempty hr hlt hcnt, ?_⟩
  have hsame := (sameSlots_bookArrival s i step (32 + k.payload.length)).trans
    (sameSlots_chunkNoted (s.bookArrival i step (32 + k.payload.length)) i step)
  have hat := slotAt ((hsame.slot i).trans hslot)
  rw [hat.modSlot]
  exact hat.slot_modSlot _

end

/-! ### Flacon data -/

section
variable {s : State} {k : Packet}

theorem takeFlacon_other (hw : s.ward ≠ some k.src) : s.takeFlacon k = s := by
  rw [State.takeFlacon]
  exact if_pos hw

section
variable (hw : s.ward = some k.src)
include hw

theorem takeFlacon_busy (hb : ¬ (s.live cAdopt = false ∧ s.live cRestore = false)) :
    s.takeFlacon k = s.nearAck k.src (field (leVal (k.payload.take 32)) 0 32) 3 := by
  have hor : (s.live cAdopt || s.live cRestore) = true := by
    rw [Bool.eq_iff_iff, Bool.or_eq_true]
    exact iff_of_true (by rw [not_and_or] at hb; exact hb.imp Bool.of_not_eq_false Bool.of_not_eq_false) rfl
  rw [State.takeFlacon]
  exact (if_neg (not_not_intro hw)).trans (if_pos hor)

variable (hidle : s.live cAdopt = false ∧ s.live cRestore = false)
include hidle

theorem takeFlacon_idle : s.takeFlacon k =
    if s.near.ward = k.src ∧ field (leVal (k.payload.take 32)) 0 32 < s.near.gen then
      s.nearAck k.src (field (leVal (k.payload.take 32)) 0 32) 4
    else if bit (leVal (k.payload.take 32)) 37 then
      (s.nearBegin k.src (field (leVal (k.payload.take 32)) 0 32)).nearLast k.src (field (leVal (k.payload.take 32)) 0 32)
        (field (leVal (k.payload.take 32)) 128 64)
    else ((s.nearBegin k.src (field (leVal (k.payload.take 32)) 0 32)).nearTake (leVal (k.payload.take 32)) (k.payload.drop 32)).nearProgress k.src
      (field (leVal (k.payload.take 32)) 0 32) (s.nearBegin k.src (field (leVal (k.payload.take 32)) 0 32)).near.bytes
      (s.nearBegin k.src (field (leVal (k.payload.take 32)) 0 32)).near.dropped := by
  have hor : ¬ (s.live cAdopt || s.live cRestore) = true := by
    rw [hidle.1, hidle.2]
    decide
  rw [State.takeFlacon]
  exact (if_neg (not_not_intro hw)).trans (if_neg hor)

theorem takeFlacon_older (hn : s.near.ward = k.src) (hg : field (leVal (k.payload.take 32)) 0 32 < s.near.gen) :
    s.takeFlacon k = s.nearAck k.src (field (leVal (k.payload.take 32)) 0 32) 4 := by
  rw [takeFlacon_idle hw hidle, if_pos ⟨hn, hg⟩]

/-- Data of a generation joins what the near region begins with it. -/
theorem takeFlacon_joins {u : State} (hu : s.nearBegin k.src (field (leVal (k.payload.take 32)) 0 32) = u)
    (hnew : ¬ (s.near.ward = k.src ∧ field (leVal (k.payload.take 32)) 0 32 < s.near.gen)) :
    (bit (leVal (k.payload.take 32)) 37 = true → s.takeFlacon k =
      u.nearLast k.src (field (leVal (k.payload.take 32)) 0 32) (field (leVal (k.payload.take 32)) 128 64)) ∧
    (bit (leVal (k.payload.take 32)) 37 = false → s.takeFlacon k = (u.nearTake (leVal (k.payload.take 32)) (k.payload.drop 32)).nearProgress
      k.src (field (leVal (k.payload.take 32)) 0 32) u.near.bytes u.near.dropped) := by
  rw [takeFlacon_idle hw hidle, if_neg hnew, hu]
  exact ⟨fun hb => if_pos hb, fun hb => if_neg (Bool.eq_false_iff.mp hb)⟩

end

theorem nearBegin_held {ward gen : Nat} (hw : s.near.ward = ward) (hg : s.near.gen = gen) : s.nearBegin ward gen = s := by
  rw [State.nearBegin]
  exact if_neg (not_or.mpr ⟨not_not_intro hw, by omega⟩)

theorem nearBegin_newer {ward gen : Nat} (h : s.near.ward ≠ ward ∨ s.near.gen < gen) :
    s.nearBegin ward gen = { s with near := { ward := ward, gen := gen, base := s.form.hdr.nearBase } } := by
  rw [State.nearBegin]
  exact if_pos h

/-! ### Acknowledgements, restores, notices -/

theorem takeFlaconAck_none (he : s.emission = none) : s.takeFlaconAck k = s := by
  rw [State.takeFlaconAck, he]

theorem takeFlaconAck_some {em : Emission} (he : s.emission = some em) (hg : em.gen = field (leVal k.payload) 0 32) (hn : em.near = true)
    (hk : s.keeper = some k.src) : s.takeFlaconAck k =
      if field (leVal k.payload) 32 4 = 0 then s
      else if field (leVal k.payload) 32 4 = 1 then (s.modEmission (fun e => { e with nearAcked := true, nearTime := s.time })).emissionCheck
      else s.emissionEnd em.gen true (field (leVal k.payload) 32 4) := by
  rw [State.takeFlaconAck, he]
  dsimp only
  refine if_congr ?_ rfl rfl
  rw [hg, hn, hk]
  simp

theorem emissionEnd_none (gen : Nat) (failed : Bool) (cause : Nat) : (s.emissionEnd gen failed cause).emission = none := by
  rw [State.emissionEnd]

theorem takeRestore_none (h : ∀ o ∈ s.ops, o.code ≠ cRestore) : s.takeRestore k = s := by
  have hnone : s.ops.find? (fun o => decide (o.code = cRestore)) = none := List.find?_eq_none.mpr fun o ho => by simpa using h o ho
  rw [State.takeRestore, hnone]

theorem takeRestore_some {o : LongOp} (ho : s.ops.find? (fun o => decide (o.code = cRestore)) = some o) (hnear : o.p 12 1 = 0)
    (hg : o.p 8 4 = field (leVal (k.payload.take 32)) 0 32) (hk : s.keeper = some k.src) :
    s.takeRestore k = s.modOp o.handle (fun o => { o with
      near := o.near ++ [(field (leVal (k.payload.take 32)) 32 2 * 8 + field (leVal (k.payload.take 32)) 34 3,
        field (leVal (k.payload.take 32)) 64 40, k.payload.drop 32)]
      done := o.done + (k.payload.drop 32).length, committedPoint := o.committedPoint || bit (leVal (k.payload.take 32)) 37 }) := by
  rw [State.takeRestore, ho]
  exact if_neg (not_or.mpr ⟨not_not_intro hnear, not_or.mpr ⟨not_not_intro hg, not_not_intro hk⟩⟩)

theorem fenceEa_new {ea : Nat} (h : s.fabric.fences.contains ea = false) :
    s.fenceEa ea = (s.modFabric (fun f => { f with fences := f.fences ++ [ea] })).fenceEffects := by
  rw [State.fenceEa]
  exact if_neg (Bool.eq_false_iff.mp h)

theorem fenceEa_again {ea : Nat} (h : s.fabric.fences.contains ea = true) : s.fenceEa ea = s := by
  rw [State.fenceEa]
  exact if_pos h

theorem takeNotice_fenced (hf : s.fabric.fences.contains (field (leVal k.payload) 0 20) = true) : s.takeNotice k =
    if s.fabric.notices.contains (field (leVal k.payload) 0 20, s.fabric.epoch) then s
    else (s.modFabric (fun f => { f with notices := f.notices ++ [(field (leVal k.payload) 0 20, f.epoch)] })).sendNotices
      (field (leVal k.payload) 0 20) 2 k.src := by
  rw [State.takeNotice]
  dsimp only
  rw [fenceEa_again hf]

/-! ### Relayed requests -/

theorem relay_ignored (h : bit (leVal (k.payload.take 16)) 36 = true ∨ s.level < 1) : s.relay k = s := by
  rw [State.relay]
  exact if_pos h

section
variable (hb : bit (leVal (k.payload.take 16)) 36 = false) (hl : 1 ≤ s.level)
include hb hl

theorem relay_taken : ¬ (bit (leVal (k.payload.take 16)) 36 = true ∨ s.level < 1) :=
  not_or.mpr ⟨Bool.eq_false_iff.mp hb, Nat.not_lt.mpr hl⟩

theorem relay_waits (ht : s.mcTaken = true) : s.relay k = s.holdPacket (.link 2) k := by
  rw [State.relay]
  exact (if_neg (relay_taken hb hl)).trans (if_pos ht)

theorem relay_answers (ht : s.mcTaken = false) {a : BitVec 512} (ha : (s.request 1 (BitVec.ofNat 512 (leVal (slice k.payload 16 64))) true
      (commandIn (BitVec.ofNat 512 (leVal (slice k.payload 16 64))))).2 = some a) : s.relay k =
    (s.request 1 (BitVec.ofNat 512 (leVal (slice k.payload 16 64))) true (commandIn (BitVec.ofNat 512 (leVal (slice k.payload 16 64))))).1.send
      0x0A (field (leVal (k.payload.take 16)) 0 20) false (leBytes 16 (leVal (k.payload.take 16) % 2 ^ 36 + 2 ^ 36) ++ leBytes 64 a.toNat) := by
  rw [State.relay]
  refine (if_neg (relay_taken hb hl)).trans ((if_neg (Bool.eq_false_iff.mp ht)).trans ?_)
  dsimp only
  rw [ha]

end
end

/-- Settles O50. -/
theorem packetDelivery : Obligations.PacketDelivery := by
  refine ⟨fun s p k h => h.byType, fun s k => ⟨takeScalar_up_other, fun hmem hnew => ?_, fun hmem hagain => ?_, takeScalar_down_other,
      fun hparent hopen => ?_, fun hparent htotal => ?_⟩,
    fun s via k e c t he hc hslot _ ht hfmt hfull hpast hempty =>
      ⟨takeContrib_again rfl rfl rfl he hc hslot ht hfmt hfull hpast hempty,
        takeContrib_given rfl rfl rfl he hc hslot ht hfmt hfull hpast hempty⟩,
    fun s k => ⟨takeFlacon_other, takeFlacon_busy, takeFlacon_older,
      fun hw hidle hheld => takeFlacon_joins hw hidle (nearBegin_held hheld.1 hheld.2) (fun h => Nat.lt_irrefl _ (hheld.2 ▸ h.2)),
      fun hw hidle hnew => takeFlacon_joins hw hidle (nearBegin_newer hnew) (fun h => hnew.elim (fun hne => hne h.1) (fun hlt => by omega)),
      takeFlaconAck_none, fun em he hg hn hk => ?_, takeRestore_none, fun o ho hnear hg hk => takeRestore_some ho hnear hg hk, fenceEa_new,
      fun hf hn => ?_, fun hf hn => ?_⟩,
    fun s k => ⟨relay_ignored, relay_waits, fun hb hl ht a ha => relay_answers hb hl ht ha⟩⟩
  · have hjoin := (takeScalar_up hmem).trans (roundKid_joins (child := k.src) hnew)
    exact ⟨hjoin, fun hown => hjoin.trans (roundTry_joined hown)⟩
  · exact (takeScalar_up hmem).trans (roundKid_again hagain)
  · rw [State.takeScalar]
    exact (if_neg Bool.false_ne_true).trans (if_pos (by rw [hparent]; simp [hopen]))
  · rw [State.takeScalar]
    exact (if_neg Bool.false_ne_true).trans (if_neg (by rw [hparent]; simpa [Option.isSome_iff_ne_none] using htotal))
  · have htake := takeFlaconAck_some (k := k) he hg hn hk
    refine ⟨fun h0 => htake.trans (if_pos h0), fun h1 => htake.trans ((if_neg (by omega)).trans (if_pos h1)), fun hst => ?_⟩
    have hend := htake.trans ((if_neg (by omega)).trans (if_neg (by omega)))
    exact ⟨hend, hend ▸ emissionEnd_none _ _ _⟩
  · rw [takeNotice_fenced hf, if_pos hn]
  · rw [takeNotice_fenced hf, if_neg (Bool.eq_false_iff.mp hn)]

end Sys2Proof.Machine
end

section
/-! Refutation of O54: REQ is a number in the model, and the last clause does not say that it is at most 3. With REQ = 4 and the key island
fenced, `State.raiseFault` finds nothing in the way of the raise, PD-KEY is among the domains of the level, and `State.requestLevel` does not
request a fenced domain (R322). The witness boots a whole bundle, signed with the key 1 and the nonce 1. -/

namespace Sys2Proof.Machine

open Sys2Proof.Bits
open Sys2Proof.Hash

/-! ### A boot fetch that boots -/

/-- The bundle that was fetched, in the slot for recovery and booted, with the fetch over (R363). -/
def State.fetchBooted (s : State) : State :=
  ((s.modCode s.recoverySlot (fun c => { c with bundle := s.fw.fetch, images := bundleImages s.fw.fetch })).bootSlot s.recoverySlot .active 2).modFw
    (fun w => { w with fetching := false, fetch := [], fetchFail := none })

theorem exec_bootFetchDone_boots {s : State} (hs : Awake s) (hf : s.fw.fetching = true) (hl : s.loan.isOpen = false) (hff : s.fw.fetchFail = none)
    (h4 : 4096 ≤ s.fw.fetch.length) (hlen : mLen (manifestOf s.fw.fetch) ≤ s.fw.fetch.length)
    (hfenced : (s.codeSlot s.recoverySlot).fenced = false) (hb : bundleFault s.cfg s.fuses s.fw.fetch s.fw.fetch.length [] = none) :
    exec .bootFetchDone s = .next (s.hold s.fetchBooted.startRaise) := by
  change execBootFetchDone s = _
  rw [execBootFetchDone, act_awake s _ hs]
  dsimp only
  rw [when_of_true (by simp [hf, hl, h4, hlen]), hff, if_neg (Bool.eq_false_iff.mp hfenced), hb]
  rfl

theorem fetchBooted_doms (s : State) : s.fetchBooted.doms = s.doms := by
  obtain ⟨_, _, _, _, _, _, _, _, _, _, _, h⟩ := (bootWrites_modCode s s.recoverySlot (fun c =>
    { c with bundle := s.fw.fetch, images := bundleImages s.fw.fetch })).trans (bootWrites_bootSlot _ s.recoverySlot .active 2)
  rw [State.fetchBooted, h]
  rfl

/-! ### The bundle -/

/-- The SHA-384 value of one zero byte, as a manifest holds it. -/
def zeroHash : Nat := 0x1717a108c2a91768966534412bec33596536663de1860d5f4ee206d2bda9d3837030b4c212e0349106e368f3b421c0be

theorem sha384_zero : leVal (sha384 [0#8]) = zeroHash := by decide +kernel

/-- The CRC of a block of 4 KiB of zeros. -/
def zeroCrc : Nat := 0x98f94189

/-- The entry of an image of one zero byte (Table 13-8). -/
def zeroEntry (kind iface offset : Nat) : Nat := kind + 2 ^ 8 + iface * 2 ^ 40 + offset * 2 ^ 64 + 2 ^ 96 + zeroHash * 2 ^ 128

/-- The signed part of the manifest: the base point as the public key, and an image of each kind at a block of its own. -/
def zeroBody : List Byte :=
  leBytes 128 (0x42444E4C + 3 * 2 ^ 32 + 3 * 2 ^ 48 + 16384 * 2 ^ 128 + 3 * 2 ^ 160) ++ (beBytes 48 p384gx ++ beBytes 48 p384gy) ++
    leBytes 192 (zeroEntry 1 0x20 4096 + zeroEntry 2 0x11 8192 * 2 ^ 512 + zeroEntry 3 0x08 12288 * 2 ^ 1024)

/-- The second half of the signature: the hash of the signed part, plus the first half. -/
def zeroSig : Nat := 0xe495736ca59b26260662cbbec2e0cc82d7c85c9b046b8f0b6cc38387667464a0b35a5fb27766b8746af04c92b711b5f0

/-- The manifest with its signature and the CRCs of its three blocks. -/
def zeroHead : List Byte :=
  zeroBody ++ (beBytes 48 p384gx ++ beBytes 48 zeroSig) ++ leBytes 12 (zeroCrc + zeroCrc * 2 ^ 32 + zeroCrc * 2 ^ 64)

/-- The bundle: the manifest block and three blocks of zeros. -/
def zeroBundle : List Byte := zeroHead ++ List.replicate 15860 0#8

theorem zeroHead_length : zeroHead.length = 524 := by decide +kernel

theorem zeroBundle_length : zeroBundle.length = 16384 := by
  rw [zeroBundle, List.length_append, zeroHead_length, List.length_replicate]

theorem zeroBody_signed : ecdsaVerify p384gx p384gy zeroBody p384gx zeroSig = true := by decide +kernel

theorem zeroBundle_format : formatFault zeroBundle 16384 = none := by decide +kernel

/-- The fields of the manifest that the other checks read. -/
theorem zeroBundle_fields : mTarget (manifestOf zeroBundle) = 3 ∧ mKeySlot (manifestOf zeroBundle) = 0 ∧ mSvn (manifestOf zeroBundle) = 0 ∧
    mBlocks (manifestOf zeroBundle) = 3 ∧ mLen (manifestOf zeroBundle) = 16384 := by decide +kernel

theorem zeroBundle_signature : beVal (slice zeroBundle 128 48) = p384gx ∧
    beVal (slice zeroBundle 176 48) = p384gy ∧ zeroBundle.take 416 = zeroBody ∧ sigR zeroBundle = p384gx ∧ sigS zeroBundle = zeroSig := by
  decide +kernel

/-- Past the manifest the bundle holds zeros. -/
theorem slice_zeroBundle {off len : Nat} (h : 524 ≤ off) (hend : off + len ≤ 16384) : slice zeroBundle off len = List.replicate len 0#8 := by
  have hnil : zeroHead.drop off = [] := List.drop_eq_nil_of_le (by rw [zeroHead_length]; exact h)
  rw [slice, zeroBundle, List.drop_append, hnil, List.nil_append, List.drop_replicate, List.take_replicate, zeroHead_length]
  congr 1
  omega

/-! ### The CRC of the blocks -/

/-- The fold of CRC-32C with every intermediate value evaluated, so that the kernel can run it over a block. -/
def crcForced : List Byte → Nat → Nat
  | [], c => c
  | b :: bs, 0 => crcForced bs (crc32cByte 0 b)
  | b :: bs, c + 1 => crcForced bs (crc32cByte (c + 1) b)

theorem crcForced_eq (bs : List Byte) (c : Nat) : crcForced bs c = bs.foldl crc32cByte c := by
  induction bs generalizing c with
  | nil => cases c <;> rfl
  | cons b bs ih =>
    cases c with
    | zero => exact ih _
    | succ c => exact ih _

theorem crc32c_zeros : crc32c (List.replicate 4096 0#8) = zeroCrc := by
  rw [crc32c, ← crcForced_eq]
  decide +kernel

theorem zeroBundle_crcs : leVal (slice zeroBundle 512 4) = zeroCrc ∧ leVal (slice zeroBundle 516 4) = zeroCrc ∧
    leVal (slice zeroBundle 520 4) = zeroCrc := by decide +kernel

theorem crcFault_zeroBundle : crcFault zeroBundle 3 1 = none := by
  obtain ⟨h1, h2, h3⟩ := zeroBundle_crcs
  have hblock : ∀ i, 1 ≤ i → i ≤ 3 → crc32c (slice zeroBundle (4096 * i) 4096) = zeroCrc := fun i h1 h3 => by
    rw [slice_zeroBundle (by omega) (by omega), crc32c_zeros]
  rw [crcFault, if_pos ((hblock 1 (by omega) (by omega)).trans h1.symm), crcFault, if_pos ((hblock 2 (by omega) (by omega)).trans h2.symm), crcFault,
    if_pos ((hblock 3 (by omega) (by omega)).trans h3.symm), crcFault]

/-! ### The images -/

theorem mPresent_zeroBundle : mPresent (manifestOf zeroBundle) = [zeroEntry 1 0x20 4096, zeroEntry 2 0x11 8192, zeroEntry 3 0x08 12288] := by
  decide +kernel

/-- An image of one zero byte has its hash. -/
theorem zeroEntry_hashed {e : Nat} (hoff : 524 ≤ iOffset e ∧ iOffset e < 16384) (hlen : iLength e = 1) (hhash : iHash e = zeroHash) :
    decide (leVal (sha384 (slice zeroBundle (iOffset e) (iLength e))) ≠ iHash e) = false := by
  rw [hlen, hhash, slice_zeroBundle hoff.1 (by omega)]
  exact decide_eq_false (not_not_intro sha384_zero)

theorem hashFault_zeroBundle : hashFault zeroBundle (manifestOf zeroBundle) = none := by
  have h1 := zeroEntry_hashed (e := zeroEntry 1 0x20 4096) (by decide +kernel) (by decide +kernel) (by decide +kernel)
  have h2 := zeroEntry_hashed (e := zeroEntry 2 0x11 8192) (by decide +kernel) (by decide +kernel) (by decide +kernel)
  have h3 := zeroEntry_hashed (e := zeroEntry 3 0x08 12288) (by decide +kernel) (by decide +kernel) (by decide +kernel)
  rw [hashFault, mPresent_zeroBundle, List.find?_cons_of_neg (by rw [h1]; decide), List.find?_cons_of_neg (by rw [h2]; decide),
    List.find?_cons_of_neg (by rw [h3]; decide)]
  rfl

/-! ### The checks of R362 -/

/-- Fuses with the hash of the bundle's public key in key slot 0. -/
def zeroFuses : Fuses := { key0 := some (leVal (sha384 (pubKeyBytes zeroBundle))) }

theorem compatFault_zeroBundle : compatFault (ifaceOf (slotImages zeroFuses.bundled zeroBundle []) 1)
    (ifaceOf (slotImages zeroFuses.bundled zeroBundle []) 2) (ifaceOf (slotImages zeroFuses.bundled zeroBundle []) 3) = none := by decide +kernel

/-- A bundle that passes every check of R362. -/
theorem bundleFault_none {c : Cfg} {f : Fuses} {bs : List Byte} {avail : Nat} {active : List Image} (hformat : formatFault bs avail = none)
    (htarget : targetOk c (mTarget (manifestOf bs)) = true)
    (hkey : f.key (mKeySlot (manifestOf bs)) = some (leVal (sha384 (pubKeyBytes bs))))
    (hsig : ecdsaVerify (beVal (slice bs 128 48)) (beVal (slice bs 176 48)) (bs.take 416) (sigR bs) (sigS bs) = true)
    (hsvn : ¬ mSvn (manifestOf bs) < f.arb) (hcrc : crcFault bs (mBlocks (manifestOf bs)) 1 = none) (hhash : hashFault bs (manifestOf bs) = none)
    (hcompat : compatFault (ifaceOf (slotImages f.bundled bs active) 1) (ifaceOf (slotImages f.bundled bs active) 2)
      (ifaceOf (slotImages f.bundled bs active) 3) = none) : bundleFault c f bs avail active = none := by
  rw [bundleFault, hformat]
  dsimp only
  rw [htarget, if_neg (by decide), if_neg (not_not_intro hkey), hsig, if_neg (by decide), if_neg hsvn, hcrc, hhash]
  dsimp only
  rw [hcompat]

theorem bundleFault_zeroBundle : bundleFault .izL zeroFuses zeroBundle zeroBundle.length [] = none := by
  obtain ⟨htarget, hkey, hsvn, hblocks, -⟩ := zeroBundle_fields
  obtain ⟨hx, hy, hbody, hr, hsig⟩ := zeroBundle_signature
  refine bundleFault_none ?_ ?_ ?_ ?_ ?_ ?_ hashFault_zeroBundle compatFault_zeroBundle
  · rw [zeroBundle_length]
    exact zeroBundle_format
  · rw [htarget]
    rfl
  · rw [hkey]
    rfl
  · rw [hx, hy, hbody, hr, hsig]
    exact zeroBody_signed
  · rw [hsvn]
    exact Nat.not_lt_zero 0
  · rw [hblocks]
    exact crcFault_zeroBundle

/-! ### The witness -/

/-- S1 with a boot fetch that is whole, a request for level 4, and the key island fenced. -/
def overRaised : State := { State.reset with
  porst := false, smp := { level := 1, req := 4 }, disc := { valid := true }, fuses := zeroFuses, keyFenced := true
  fw := { State.reset.fw with fetching := true, fetch := zeroBundle } }

theorem awake_overRaised : Awake overRaised := by decide +kernel

theorem overRaised_boots : exec .bootFetchDone overRaised = .next (overRaised.hold overRaised.fetchBooted.startRaise) := by
  refine exec_bootFetchDone_boots awake_overRaised rfl rfl rfl ?_ ?_ rfl bundleFault_zeroBundle
  · change 4096 ≤ zeroBundle.length
    rw [zeroBundle_length]
    decide
  · obtain ⟨-, -, -, -, hlen⟩ := zeroBundle_fields
    change mLen (manifestOf zeroBundle) ≤ zeroBundle.length
    rw [hlen, zeroBundle_length]

/-- The raise to level 4 leaves the fenced key domain as it is. -/
theorem overRaised_keyDomain : overRaised.fetchBooted.startRaise.dom 3 = overRaised.dom 3 := by
  have hraise := State.startRaise_power (t := overRaised.fetchBooted) (by decide +kernel) (by decide +kernel) (by decide +kernel) (by decide +kernel)
  rw [hraise, ((overRaised.fetchBooted.requestLevel_doms _).2 3 (.inr (by decide +kernel))), State.dom, fetchBooted_doms, State.dom]

theorem overRaised_unrequested : overRaised.dom 3 ≠ (overRaised.dom 3).request overRaised.time := by decide +kernel

theorem dom_hold (s t : State) (i : Nat) : (s.hold t).dom i = t.dom i := rfl

/-- Refutes O54: the raise that goes on after the boot fetch does not request the fenced PD-KEY, which level 4 names. -/
theorem not_loansAndBootFetch : ¬ Obligations.LoansAndBootFetch := by
  unfold Obligations.LoansAndBootFetch
  intro h
  obtain ⟨-, -, -, -, -, -, -, hboots⟩ := h overRaised awake_overRaised
  obtain ⟨-, -, -, -, hlen⟩ := zeroBundle_fields
  obtain ⟨t, ht, -, -, -, -, -, hdoms⟩ := hboots rfl rfl rfl (by change 4096 ≤ zeroBundle.length; rw [zeroBundle_length]; decide)
    (by change mLen (manifestOf zeroBundle) ≤ zeroBundle.length; rw [hlen, zeroBundle_length]) rfl bundleFault_zeroBundle rfl (by decide +kernel)
    (by decide +kernel)
  rw [overRaised_boots] at ht
  have hdom := hdoms 3 (by decide +kernel)
  rw [← Host.Outcome.next.inj ht, dom_hold] at hdom
  exact overRaised_unrequested (overRaised_keyDomain.symm.trans hdom)

end Sys2Proof.Machine
end
